-- ==== Sys2Proof/Word.lean ====
section
/-!
DEFINITION. The word types of the panel (R4) and their plainest arithmetic: bit fields, little-endian bytes
(R3), sign and zero extension (R8).
-/
namespace Sys2Proof

/-- A byte (R4). -/
abbrev Byte := BitVec 8
/-- A word of 32 bits (R4). -/
abbrev Word := BitVec 32
/-- A dword of 64 bits (R4). -/
abbrev Dword := BitVec 64
/-- A vector register or a 64-byte line (R4, R17). -/
abbrev VReg := BitVec 512
/-- The payload of a message, 256 bytes (R214). -/
abbrev Payload := BitVec 2048
/-- A name: panel id in bits 21:16, logical core number in bits 15:0 (R216). -/
abbrev Name := BitVec 22
/-- A logical slot number, 0 to 15 (R24). -/
abbrev SlotNo := Fin 16

/-- bits(x, lo + n - 1, lo) of a natural number, as an `n`-bit value (R8). -/
def bitsOf (x lo n : Nat) : BitVec n := BitVec.ofNat n (x / 2 ^ lo)

/-- bits(x, hi, lo) of a bit vector as a natural number (R8). -/
def fieldOf {w : Nat} (x : BitVec w) (hi lo : Nat) : Nat := x.toNat / 2 ^ lo % 2 ^ (hi + 1 - lo)

/-- sext(bits(x, n-1, 0), n): the low `n` bits of `x` sign-extended to 64 bits (R8). -/
def sextLow (n : Nat) (x : Dword) : Dword := (x.setWidth n).signExtend 64

/-- zext(bits(x, n-1, 0)): the low `n` bits of `x` zero-extended (R8). -/
def zextLow (n : Nat) (x : Dword) : Dword := (x.setWidth n).setWidth 64

/-- Byte `i` of a natural number, byte 0 the least significant (R3). -/
def byteAt (x i : Nat) : Byte := BitVec.ofNat 8 (x / 2 ^ (8 * i))

/-- The `n` low bytes of a number, lowest first (R3). -/
def bytesOf (n x : Nat) : List Byte := (List.range n).map (byteAt x)

/-- The number whose little-endian bytes are the list (R3). -/
def ofBytes : List Byte → Nat
  | [] => 0
  | b :: bs => b.toNat + 256 * ofBytes bs

/-- A one-bit field as a truth value. -/
def flagOf (b : BitVec 1) : Bool := b == 1#1

/-- A truth value as a number. -/
def natOfBool (b : Bool) : Nat := if b then 1 else 0

/-- What a numbered register file, table or set of parts that is kept as a list holds under a number: the first entry with
that number. -/
def lookupNat {α : Type} (number : Nat) : List (Nat × α) → Option α
  | [] => none
  | e :: more => if e.1 = number then some e.2 else lookupNat number more

/-- An entry put in its place in such a list, whose numbers rise strictly; it takes the place of one with its number. -/
def insertNat {α : Type} (number : Nat) (held : α) : List (Nat × α) → List (Nat × α)
  | [] => [(number, held)]
  | e :: more =>
    if number < e.1 then (number, held) :: e :: more
    else if number = e.1 then (number, held) :: more
    else e :: insertNat number held more

/-- The entry with a number taken out of such a list. -/
def eraseNat {α : Type} (number : Nat) : List (Nat × α) → List (Nat × α)
  | [] => []
  | e :: more => if e.1 = number then more else e :: eraseNat number more

end Sys2Proof
end

