-- ==== Sys2Proof/Config.lean ====
section
/-!
DEFINITION. What an implementation fixes and the values the spec leaves open. A value left open is a constant without a
body: nothing can be proved of it but what holds for every value. The functions of a number are applied to the machine's
`tick`, which every step advances, so that each use is a value of its own.
-/
namespace Sys2Proof

/-- Nanoseconds of panel time that pass with a step (R22, R23); log 3. -/
opaque Config.elapsed : Nat → Nat

/-- Which of the moves the machine can make comes next (R19, R27, R47, R176); log 4. -/
opaque Config.choice : Nat → Nat

/-- Core cycles beyond four for which a slot stays in the ring, not ready, after an instruction whose result takes longer
or that waits for a bank (R92, R134, R147); log 5. -/
opaque Config.stall : Nat → Nat

/-- Core cycles beyond the first after which a slot whose wait has ended rejoins, modulo 4 (R27); log 5. -/
opaque Config.rejoin : Nat → Nat

/-- Core cycles until a paged load or a CINV that the model performs in one step is served, and its slot rejoins (R27, R147,
R157); log 5. -/
opaque Config.latency : Nat → Nat

/-- Which line, if any, a chiplet cache evicts when a line enters it (R144); log 8. -/
opaque Config.victim : Nat → Nat

/-- A byte the spec calls unpredictable (R322) or that encryption under a new key leaves unintelligible (R435); logs 13
and 15. -/
opaque Config.freeByte : Nat → Byte

/-- A 64-bit value of a field whose layout or value the spec does not give; log 14. -/
opaque Config.freeDword : Nat → Dword

/-- Calibrated power of a core at full duty, in mW (R400): a constant of the panel. -/
opaque Config.corePower : Nat → Nat

/-- A SHAKE256-256 digest of a list of words (R452), which the model does not compute; log 16. -/
opaque Config.digest : List Nat → BitVec 256

/-- The CRC-32 of a layout, by its number (R424): the spec gives the layout as a whole no form in bytes; log 35. -/
opaque Config.layoutCrc : Nat → BitVec 32

/-- Whether a lost core's power comes back, a self-test or a signature check succeeds; logs 15 and 16. -/
opaque Config.outcome : Nat → Bool

/-- Which chiplet of the buddy zone holds the sideboard copies of a core at a step (R364, R381): the directory's places are
not given; log 25. -/
opaque Config.copyChip : Nat → Nat → Nat

/-- Whether a core's copies are among those lost when a spare was taken and the sideboard has no space left (R382); log 25. -/
opaque Config.copyDropped : Nat → Nat → Bool

/-- The parent of a member in a tree of a group (R208): the launch engine draws the trees, by group sequence number, tree
and member; log 21. -/
opaque Config.treeParent : Nat → Nat → Nat → Nat

/-- The number of trees of a group and their weights (R208); log 21. -/
opaque Config.treeWeight : Nat → Nat → Nat

end Sys2Proof
end

