-- ==== Sys2Proof/Syntax.lean ====
section
/-!
DEFINITION. The syntax: one constructor of `Instr` per row of the table of operations and events
(opcode_table.json). A row with an encoding is an instruction, and its operands are its fields (R54 to R58). A row
without one is a step of an engine, of the mesh, of the host or of the power and recovery machinery
(95_what_each_step_holds); what it acts on is an `Arg`, which the machine holds beside it (`Event`): the operands of such
a step are no bits of an encoding.
-/
namespace Sys2Proof

/-- The compact 16-bit forms (R59); 3-bit fields name g8 to g15. -/
inductive Compact where
  | cMov (d a : BitVec 3)
  | cAdd (d a : BitVec 3)
  | cSub (d a : BitVec 3)
  | cAddi (d : BitVec 3) (imm : BitVec 8)
  | cLi (d : BitVec 3) (imm : BitVec 8)
  | cAnd (d a : BitVec 3)
  | cShli (d : BitVec 3) (sh : BitVec 6)
  | cShri (d : BitVec 3) (sh : BitVec 6)
  | cLd64 (d a : BitVec 3) (off : BitVec 5)
  | cSt64 (b a : BitVec 3) (off : BitVec 5)
  | cLd32 (d a : BitVec 3) (off : BitVec 5)
  | cSt32 (b a : BitVec 3) (off : BitVec 5)
  | cBez (a : BitVec 3) (off : BitVec 8)
  | cBnz (a : BitVec 3) (off : BitVec 8)
  | cJ (off : BitVec 11)
  | cQget (d : BitVec 3) (q : BitVec 3)
  deriving DecidableEq, Repr

/-- A message on the message plane (R214): the header's fields and the payload. -/
structure Msg where
  dest : Name
  cls : BitVec 5
  part : BitVec 6
  source : Name
  kind : BitVec 4
  sslot : BitVec 4
  seq : BitVec 16
  len : Nat
  retry : Bool
  aux : Dword
  payload : Payload
  /-- Model: the matrix command that sent an STSPR message (R288). -/
  cmd : Nat := 0
  deriving DecidableEq, Repr

/-- Where an access ends: a core's local store, the HBM controller of a memory edge, the control blocks of root
chiplet 0, or the host behind a root chiplet (R131, R144, R165, R502). -/
inductive Node where
  | core (n : Nat)
  | hbm (e : Nat)
  | control
  | host (k : Nat)
  deriving DecidableEq, Repr

/-- The operations of an AMO or RED (R188). -/
inductive AmoOp where
  | add | and | or | xor | minS | minN | maxS | maxN | swap | cas | faddF32 | faddBf16x2 | fmaxF32
  deriving DecidableEq, Repr

/-- What a memory-plane request asks its home to do (R135, R147, R155, R185). Addresses are those of the one physical
address space of the memory, or of the panel control space at its node. A write carries bytes
of one line, and `full` asks for the word to be set full at a scope (STF, R155). -/
inductive MemOp where
  | read (elems : List (Nat × Nat)) (bytes : Nat)
  | write (addr : Nat) (mask : BitVec 64) (data : VReg) (full : Option (BitVec 2))
  | amo (op : AmoOp) (addr : Nat) (bytes : Nat) (operand : Dword) (expected : Dword)
  | feRead (addr : Nat) (clear : Bool)
  | feClear (addrs : List Nat)
  deriving DecidableEq, Repr

/-- A memory-plane request of a slot (R135); `va` is the address the slot named. -/
structure RemoteReq where
  core : Nat
  slot : SlotNo
  part : BitVec 6
  node : Node
  va : Dword
  op : MemOp
  deriving DecidableEq, Repr

/-- A reply to a waiting slot (R134, R147): the data of the elements that one request asked for, the publication scope of a
full/empty read, whether data was uncorrectable, and then the element and the byte's address. -/
structure RemoteReply where
  core : Nat
  slot : SlotNo
  elem : Nat
  got : List (Nat × Dword)
  scope : BitVec 2
  va : Dword
  bad : Bool
  deriving DecidableEq, Repr

/-- A RED on its way to its home (R191). -/
structure RedMsg where
  core : Nat
  slot : SlotNo
  part : BitVec 6
  node : Node
  addr : Nat
  va : Dword
  bytes : Nat
  op : AmoOp
  operand : Dword
  deriving DecidableEq, Repr

/-- An arrival or a completion on a tree of a group (R211, R370). `rbar` tells whether an RBAR was among the arrivals;
`phase` counts the phases of a recoverable commit (R371). -/
structure GroupMsg where
  job : Nat
  group : BitVec 8
  port : BitVec 2
  use : Nat
  node : Nat
  child : Nat
  rbar : Bool
  phase : Nat
  deriving DecidableEq, Repr

/-- Names one use of a collective (R319). -/
structure UseKey where
  job : Nat
  group : BitVec 8
  use : Nat
  deriving DecidableEq, Repr

/-- Work items moved by load levelling (R325). -/
structure ItemsMsg where
  source : Nat
  dest : Nat
  job : Nat
  /-- Each with whether it had come to its sender by levelling (R324). -/
  items : List ((Dword × Dword) × Bool)
  deriving DecidableEq, Repr

/-- A SLOTGO or SLOTHALT on its way (R346, R347); `launch` marks the launch engine's own SLOTGO. -/
structure SlotMsg where
  core : Nat
  slot : SlotNo
  part : BitVec 6
  target : Nat
  tslot : SlotNo
  job : Nat
  offset : Dword
  launch : Bool
  deriving DecidableEq, Repr

/-- 64 bytes of code on their way (R348). -/
structure CodeMsg where
  core : Nat
  slot : SlotNo
  part : BitVec 6
  target : Nat
  offset : Nat
  data : VReg
  report : Dword
  deriving DecidableEq, Repr

/-- A completion notice (R351). -/
structure Notice where
  part : BitVec 6
  context : BitVec 16
  core : Nat
  tag : BitVec 16
  status : BitVec 8
  deriving DecidableEq, Repr

/-- A command to a context-save engine (R353, R354). -/
structure HandoverCmd where
  core : Nat
  slot : SlotNo
  part : BitVec 6
  desc : Dword
  target : Nat
  slots : BitVec 16
  ctxIn : BitVec 16
  ctxOut : BitVec 16
  inArea : Dword
  outArea : Dword
  cnten : Bool
  counter : BitVec 5
  save : Bool
  deriving DecidableEq, Repr

/-- What a recovery has lost (R374). -/
inductive Loss where
  | zone (z : Nat)
  | chiplet (c : Nat)
  | core (n : Nat)
  deriving DecidableEq, Repr

/-- A write to a register map (R6): the panel-control-space address, the bytes written and the core that wrote them. -/
structure RegWrite where
  addr : Dword
  bytes : Nat
  val : Dword
  source : Nat
  deriving DecidableEq, Repr

/-- A host AtomicOp on a device page (R195): FetchAdd, Swap or CAS of `bytes` bytes. -/
structure HostAtomic where
  vf : BitVec 6
  va : Dword
  bytes : Nat
  op : AmoOp
  operand : Dword
  expected : Dword
  deriving DecidableEq, Repr

/-- A host request through VF p (R138, R432): a read, or a write of the bytes given. -/
structure HostReq where
  vf : BitVec 6
  va : Dword
  write : Bool
  data : List Byte
  deriving DecidableEq, Repr

/-- A signed firmware image offered to the security core (R427, R454): the kind of processor it is for (root and
management core), its version, whether its signature verifies, its code, its entries. -/
structure FirmwareLoad where
  kind : Nat
  version : Nat
  verified : Bool
  core : Nat
  code : List (Nat × Byte)
  data : List (Nat × Byte)
  entries : List (SlotNo × Dword)
  /-- Stack and frame of the core's mailbox (R478), and the 2 MiB groups of the firmware region that the image uses (R427). -/
  mailbox : Nat × Nat := (0, 0)
  groups : List Nat := []
  deriving DecidableEq, Repr

/-- A change of the frame table or the assignment of a level-3 span (R449). -/
structure FrameWrite where
  index : Nat
  entry : Dword
  span : Option (Nat × Dword)
  /-- Stack and frame of the level-4 table, where trusted firmware writes its place, and of the level-3 table of the span,
  where the span is the first of its level-4 entry. -/
  root : Option (Nat × Nat) := none
  table : Nat × Nat := (0, 0)
  /-- Changes of domain sets: partition, domain, and whether it is in the set now (R449); and of domain rights: partition, domain and
  rights (R141). -/
  domains : List (Nat × Nat × Bool) := []
  rights : List (Nat × Nat × BitVec 6) := []
  deriving DecidableEq, Repr

/-- A partition of the layout (R33 to R35, R273): zones, edge cores, slot numbers, banks, matrix queue and slice. -/
structure PartEntry where
  zones : BitVec 50
  edges : List Nat
  slots : BitVec 16
  banks : BitVec 16
  matrix : Option (BitVec 1)
  sliceBase : Nat
  sliceSize : Nat
  classes : BitVec 29
  workList : Bool
  deriving DecidableEq, Repr

/-- A layout that the security core writes into the shadow banks beside remap tables and capacity record, which follow the
retirement log: partition table, further name-table entries, detour tables by router and entry, the pinned regions' sizes, and
PORTROUTE and ALLOW of the optical ports (R138, R421, R422, R424, R457). -/
structure Proposal where
  parts : List (Nat × PartEntry)
  names : List (Nat × Nat)
  detours : List (Nat × Nat × Word)
  pinned : List (Nat × Nat)
  routes : List (Nat × BitVec 48) := []
  allow : List (Nat × BitVec 64) := []
  /-- The ports in use (R457). -/
  ports : BitVec 48 := 0
  deriving DecidableEq, Repr

/-- An error that has come about in stored state: a single-bit error of a granule, an uncorrectable granule or word of
memory at a physical address, a class entry (R227), the words of a channel record that hold S, C or SEQ (R238), a tile (R296),
a queued copy or a term record (R327). Where such errors come from lies outside the panel (log 51). -/
inductive Upset where
  | soft (addr : Nat)
  | memory (addr : Nat)
  | classEntry (core : Nat) (cls : BitVec 5)
  | channel (core : Nat) (idx : BitVec 6)
  | tile (core : Nat) (tile : BitVec 5)
  | copy (core : Nat) (entry : Nat)
  | term (core : Nat) (term : BitVec 4)
  deriving DecidableEq, Repr

/-- What a step that is no instruction acts on: one constructor per shape of operands. The steps of the table without an
encoding (95_what_each_step_holds) carry their operands in the machine's `arg` field. -/
inductive Arg where
  /-- BENCH_FORMATION_TIMEOUT, MWAIT_TIMEOUT, CWAIT_TIMEOUT, CHSYNC_TIMEOUT, ASYNC_CAUSE_ENTRY, TIMER_INTERRUPT, SLOT_REJOIN, PLBINV_ACK, SLOT_CAPTURE, FECLR_COMPLETE, MWAIT_TCMP_INTERRUPT. -/
  | slot (core : Nat) (slot : SlotNo)
  /-- RED_ARRIVAL. -/
  | red (m : RedMsg)
  /-- HOST_ATOMIC_COMPLETION, SPECIAL_FUNCTION_RESULT. -/
  | slotFlag (core : Nat) (slot : SlotNo) (flag : Bool)
  /-- GROUP_ARRIVAL_MESSAGE, GROUP_COMPLETION_MESSAGE. -/
  | group (m : GroupMsg)
  /-- MESSAGE_ARRIVAL, MESSAGE_REFUSAL, CHANNEL_RETURN_ARRIVAL, CHANNEL_PROBE_ARRIVAL, CHSYNC_REQUEST_ARRIVAL, CHSYNC_REPLY_ARRIVAL, FLOW_DEPOSIT_ACK, STSPR_ROW_ARRIVAL, STSPR_CLOSING_ARRIVAL and others. -/
  | msg (m : Msg)
  /-- HELD_MESSAGE_DEPOSIT. -/
  | coreClass (core : Nat) (cls : BitVec 5)
  /-- HOLD_TIMEOUT. -/
  | corePart (core : Nat) (part : BitVec 6)
  /-- REFUSAL_RESEND. -/
  | corePartDest (core : Nat) (part : BitVec 6) (dest : Name)
  /-- NAME_TABLE_WALK. -/
  | slotTarget (core : Nat) (slot : SlotNo) (target : Nat)
  /-- CHANNEL_PROBE, RESEND_LOG_REWIND, RESYNC_RETRY. -/
  | channel (core : Nat) (idx : BitVec 6)
  /-- QCFG_WRITE. -/
  | queueVal (core : Nat) (q : BitVec 3) (val : BitVec 64)
  /-- MATRIX_COMMAND_START, COPY_PIECE, COPY_COMPLETE, LEVELLING_INTERVAL, BANK_EXCHANGE, HANDOVER_COMPLETE, CONTAINMENT_EVENT, CORE_RETENTION, WRITE_THROUGH_DRAIN. -/
  | core (core : Nat)
  /-- MATRIX_KSTEP, MATRIX_COMMAND_COMPLETE, MATRIX_STATE_ERROR. -/
  | matrixQueue (core : Nat) (q : BitVec 1)
  /-- COLL_UNIT_TRANSFER. -/
  | collUnit (u : UseKey) (unit : Nat) (node : Nat)
  /-- COLL_USE_COMPLETE. -/
  | useCore (u : UseKey) (core : Nat)
  /-- COLL_BAD_DATA. -/
  | useAddr (u : UseKey) (addr : BitVec 64)
  /-- TERM_FIRE. -/
  | term (core : Nat) (term : BitVec 4)
  /-- WORK_ITEMS_ARRIVAL, WORK_ITEMS_RETURN. -/
  | items (m : ItemsMsg)
  /-- WQUIET_QUIESCENT. -/
  | jobGroup (job : Nat) (group : BitVec 8)
  /-- WLCFG_WRITE. -/
  | coreJobVal (core : Nat) (job : Nat) (val : BitVec 64)
  /-- FNCFG_WRITE. -/
  | corePartVal (core : Nat) (part : BitVec 6) (val : BitVec 64)
  /-- SLOTGO_ARRIVAL, SLOTHALT_ARRIVAL. -/
  | slotMsg (m : SlotMsg)
  /-- ISTW_ARRIVAL. -/
  | code (m : CodeMsg)
  /-- COMPLETION_NOTICE_ARRIVAL, NOTICE_RETURN. -/
  | notice (n : Notice)
  /-- HANDOVER_COMMAND. -/
  | handover (h : HandoverCmd)
  /-- ROUND_STREAM, MIRROR_STREAM_COMPLETE, ROUND_COMMIT. -/
  | coreJob (core : Nat) (job : Nat)
  /-- COMMIT_POINT, SHED_DEADLINE_EXPIRY, JOB_LAUNCH, PLACEMENT_WAIT_EXPIRY, JOB_COMPLETE. -/
  | job (job : Nat)
  /-- RECOVERY_BEGIN, POWER_GOOD, RECOVERY_RESTORE, RECOVERY_RELEASE. -/
  | loss (loss : Loss)
  /-- REPOWER_ATTEMPT. -/
  | lossFlag (loss : Loss) (flag : Bool)
  /-- SELF_TEST_COMPLETE. -/
  | lossFailed (loss : Loss) (failed : List (Nat × BitVec 4 × BitVec 4))
  /-- BUDGET_TICK, FRAME_LOSS_TIMEOUT, MESH_TICK, BUSY_CLEAR, JOURNAL_RECONCILE, BOOT_LOG_READ, PANEL_POWER_LOSS, SCRUBBER_PASS that finds single-bit errors alone. -/
  | none
  /-- SCRUBBER_PASS. -/
  | upsets (found : List Upset)
  /-- TELEMETRY_FRAME. -/
  | shelfFrame (root : BitVec 1) (frame : BitVec 128)
  /-- TELEMETRY_ECHO. -/
  | root (root : BitVec 1)
  /-- CURRENT_STEP_SAMPLE. -/
  | sample (zone : Nat) (point : BitVec 4) (dv : Nat) (di : Nat)
  /-- RISE_HELD, SENSE_CLR, DEGR_CLEAR. -/
  | point (zone : Nat) (point : BitVec 4)
  /-- ZONE_TRIP, PHASE_FAILURE. -/
  | zone (zone : Nat)
  /-- THERMAL_CLAMP, THERMAL_PARK, THERMAL_SHUTDOWN, CLAMP_LIFT, THERMAL_RESTART, THERMAL_REPOWER_DEADLINE. -/
  | chip (chip : Nat)
  /-- THERMAL_CLAMP, THERMAL_PARK, THERMAL_SHUTDOWN, CLAMP_LIFT, THERMAL_RESTART, with a chiplet's temperature in °C. -/
  | chipTemp (chip : Nat) (temp : Int)
  /-- REGISTER_WRITE. -/
  | regWrite (w : RegWrite)
  /-- REMOTE_REQUEST, WAIT_TABLE_REFUSAL. -/
  | remote (r : RemoteReq)
  /-- REMOTE_REPLY. -/
  | reply (r : RemoteReply)
  /-- COMMIT: the first phase of a commit, with the layout written into the shadow banks. -/
  | proposal (p : Proposal)
  /-- WAIT_TABLE_REFUSAL: the request, and the panel time at which it is sent again. -/
  | remoteAt (r : RemoteReq) (t : Nat)
  /-- WRITE_ACK. -/
  | ack (core : Nat) (slot : SlotNo) (bad : Option (BitVec 8 × BitVec 64))
  /-- PLB_WALK. -/
  | slotAddr (core : Nat) (slot : SlotNo) (va : BitVec 64)
  /-- TRANSLATION_WALK. -/
  | translation (edge : BitVec 5) (part : Option (BitVec 6)) (va : BitVec 64)
  /-- LAUNCH_RECORD_READ. -/
  | workQueue (q : BitVec 13)
  /-- SUBMIT, WQCFG. -/
  | vfQueueVal (vf : BitVec 6) (q : BitVec 13) (val : BitVec 64)
  /-- QUEUE_OWNERSHIP_WRITE; LAUNCH_RECORD_READ that the host fails, with the code of ERR. -/
  | workQueueVal (q : BitVec 13) (val : BitVec 64)
  /-- PARTLINK. -/
  | rootVal (root : BitVec 1) (val : BitVec 64)
  /-- NOTIFY, FQHEAD, SNAPCTL. -/
  | vfVal (vf : BitVec 6) (val : BitVec 64)
  /-- LOCK_INTERFACE, START_INTERFACE, STOP_INTERFACE, FUNCTION_LEVEL_RESET, TDISP_VIOLATION. -/
  | vf (vf : BitVec 6)
  /-- GET_MEASUREMENTS. -/
  | measure (root : BitVec 1) (idx : BitVec 8) (nonce : BitVec 256)
  /-- HOST_ATOMICOP. -/
  | hostAtomic (h : HostAtomic)
  /-- OPTICAL_FRAME_RECEIVE. -/
  | optical (port : Nat) (frame : BitVec 2048)
  /-- OPTICAL_REPLAY_TIMEOUT, OPTICAL_PORT_UP. -/
  | port (port : Nat)
  /-- LAYOUTBELL. -/
  | source (source : Nat)
  /-- RETIREMENT_APPEND: byte 31 of the record with a SEQ is programmed (R430). -/
  | record (seq : BitVec 32)
  /-- COMMIT: the commit byte of the journal record at a place is programmed (R424, R430). -/
  | journal (place : Nat)
  /-- LAYOUT_REPLY, WATCHDOG_EXPIRY, WDOG. -/
  | index (idx : BitVec 3)
  /-- COMMIT. -/
  | val (val : BitVec 64)
  /-- RETIREMENT_APPEND. -/
  | retire (cause : BitVec 8) (kind : BitVec 8) (index : BitVec 8) (die : BitVec 16) (prow : BitVec 4) (pcol : BitVec 4)
  /-- FIRMWARE_IMAGE_LOAD. -/
  | firmware (f : FirmwareLoad)
  /-- UNEXPLAINED_STEP_DROP. -/
  | drop (zone : Nat) (point : BitVec 4) (dv : Nat)
  /-- HOST_MEMORY_REQUEST. -/
  | hostReq (h : HostReq)
  /-- FRAME_TABLE_WRITE. -/
  | frame (f : FrameWrite)
  deriving DecidableEq, Repr

/-- The operations and events of the panel, one constructor per row of opcode_table.json. -/
inductive Instr where
  /-- R96: Adds two general registers modulo 2^64. -/
  | add (d : BitVec 5) (a : BitVec 5) (b : BitVec 5)
  /-- R96: Subtracts register b from register a modulo 2^64. -/
  | sub (d : BitVec 5) (a : BitVec 5) (b : BitVec 5)
  /-- R96: Bitwise AND of two registers. -/
  | and (d : BitVec 5) (a : BitVec 5) (b : BitVec 5)
  /-- R96: Bitwise OR of two registers. -/
  | or (d : BitVec 5) (a : BitVec 5) (b : BitVec 5)
  /-- R96: Bitwise XOR of two registers. -/
  | xor (d : BitVec 5) (a : BitVec 5) (b : BitVec 5)
  /-- R96: Computes a AND NOT b. -/
  | andn (d : BitVec 5) (a : BitVec 5) (b : BitVec 5)
  /-- R96: Writes the low 64 bits of the product. -/
  | mul (d : BitVec 5) (a : BitVec 5) (b : BitVec 5)
  /-- R96: Writes the high 64 bits of the signed 128-bit product. -/
  | mulhS (d : BitVec 5) (a : BitVec 5) (b : BitVec 5)
  /-- R96: Writes the high 64 bits of the unsigned 128-bit product. -/
  | mulhN (d : BitVec 5) (a : BitVec 5) (b : BitVec 5)
  /-- R98: Signed division truncating toward zero with defined results for zero and overflow. -/
  | divS (d : BitVec 5) (a : BitVec 5) (b : BitVec 5)
  /-- R98: Unsigned division truncating toward zero. -/
  | divN (d : BitVec 5) (a : BitVec 5) (b : BitVec 5)
  /-- R98: Signed remainder taking the sign of a. -/
  | remS (d : BitVec 5) (a : BitVec 5) (b : BitVec 5)
  /-- R98: Unsigned remainder. -/
  | remN (d : BitVec 5) (a : BitVec 5) (b : BitVec 5)
  /-- R96: Signed minimum of two registers. -/
  | minS (d : BitVec 5) (a : BitVec 5) (b : BitVec 5)
  /-- R96: Unsigned minimum of two registers. -/
  | minN (d : BitVec 5) (a : BitVec 5) (b : BitVec 5)
  /-- R96: Signed maximum of two registers. -/
  | maxS (d : BitVec 5) (a : BitVec 5) (b : BitVec 5)
  /-- R96: Unsigned maximum of two registers. -/
  | maxN (d : BitVec 5) (a : BitVec 5) (b : BitVec 5)
  /-- R96: Sets d to 1 if a equals b. -/
  | seq (d : BitVec 5) (a : BitVec 5) (b : BitVec 5)
  /-- R96: Sets d to 1 if a differs from b. -/
  | sne (d : BitVec 5) (a : BitVec 5) (b : BitVec 5)
  /-- R96: Sets d to 1 if a is less than b as signed values. -/
  | sltS (d : BitVec 5) (a : BitVec 5) (b : BitVec 5)
  /-- R96: Sets d to 1 if a is less than b as unsigned values. -/
  | sltN (d : BitVec 5) (a : BitVec 5) (b : BitVec 5)
  /-- R97: Shifts left by the whole of b, giving 0 at 64 or more. -/
  | shl (d : BitVec 5) (a : BitVec 5) (b : BitVec 5)
  /-- R97: Logical right shift by the whole of b. -/
  | shr (d : BitVec 5) (a : BitVec 5) (b : BitVec 5)
  /-- R97: Arithmetic right shift by b, capped at 63. -/
  | sar (d : BitVec 5) (a : BitVec 5) (b : BitVec 5)
  /-- R97: Rotates left by b modulo 64. -/
  | rol (d : BitVec 5) (a : BitVec 5) (b : BitVec 5)
  /-- R96: Adds and sign-extends the low 32 bits. -/
  | addw (d : BitVec 5) (a : BitVec 5) (b : BitVec 5)
  /-- R96: Subtracts and sign-extends the low 32 bits. -/
  | subw (d : BitVec 5) (a : BitVec 5) (b : BitVec 5)
  /-- R96: Multiplies and sign-extends the low 32 bits. -/
  | mulw (d : BitVec 5) (a : BitVec 5) (b : BitVec 5)
  /-- R99: Adds a sign-extended 12-bit immediate. -/
  | addi (d : BitVec 5) (a : BitVec 5) (imm : BitVec 12)
  /-- R99: ANDs a sign-extended immediate. -/
  | andi (d : BitVec 5) (a : BitVec 5) (imm : BitVec 12)
  /-- R99: ORs a sign-extended immediate. -/
  | ori (d : BitVec 5) (a : BitVec 5) (imm : BitVec 12)
  /-- R99: XORs a sign-extended immediate. -/
  | xori (d : BitVec 5) (a : BitVec 5) (imm : BitVec 12)
  /-- R99: Signed compare against an immediate. -/
  | sltiS (d : BitVec 5) (a : BitVec 5) (imm : BitVec 12)
  /-- R99: Unsigned compare against a sign-extended immediate. -/
  | sltiN (d : BitVec 5) (a : BitVec 5) (imm : BitVec 12)
  /-- R99: Shifts left by an immediate amount 0-63. -/
  | shli (d : BitVec 5) (a : BitVec 5) (sc : BitVec 6)
  /-- R99: Logical right shift by an immediate amount. -/
  | shri (d : BitVec 5) (a : BitVec 5) (sc : BitVec 6)
  /-- R99: Arithmetic right shift by an immediate amount. -/
  | sari (d : BitVec 5) (a : BitVec 5) (sc : BitVec 6)
  /-- R100: Loads a sign-extended upper 20-bit immediate shifted by 12. -/
  | lih (d : BitVec 5) (imm : BitVec 20)
  /-- R100: Shifts d left by 20 and inserts a 20-bit immediate. -/
  | lit (d : BitVec 5) (imm : BitVec 20)
  /-- R101: Counts leading zero bits. -/
  | clz (d : BitVec 5) (a : BitVec 5)
  /-- R101: Counts trailing zero bits. -/
  | ctz (d : BitVec 5) (a : BitVec 5)
  /-- R101: Counts one bits. -/
  | popc (d : BitVec 5) (a : BitVec 5)
  /-- R101: Reverses the bit order. -/
  | brev (d : BitVec 5) (a : BitVec 5)
  /-- R101: Reverses the byte order. -/
  | bswap (d : BitVec 5) (a : BitVec 5)
  /-- R102: Selects a or b according to whether register c is nonzero. -/
  | sel (d : BitVec 5) (a : BitVec 5) (b : BitVec 5) (cc : BitVec 5)
  /-- R102: Extracts and zero-extends a bit field. -/
  | bfx (d : BitVec 5) (a : BitVec 5) (pos : BitVec 6) (ln : BitVec 6)
  /-- R102: Inserts the low bits of a into a field of d. -/
  | bfi (d : BitVec 5) (a : BitVec 5) (pos : BitVec 6) (ln : BitVec 6)
  /-- R102: Computes a plus b shifted left by sh. -/
  | lea (d : BitVec 5) (a : BitVec 5) (b : BitVec 5) (sc : BitVec 3)
  /-- R105: Reads the shape record and returns the rank's start and length along a dimension. -/
  | slice (d : BitVec 5) (a : BitVec 5) (b : BitVec 5) (num : BitVec 2)
  /-- R112: Branches when a equals b. -/
  | beq (a : BitVec 5) (b : BitVec 5) (off : BitVec 12)
  /-- R112: Branches when a differs from b. -/
  | bne (a : BitVec 5) (b : BitVec 5) (off : BitVec 12)
  /-- R112: Branches when a is less than b, signed. -/
  | blt (a : BitVec 5) (b : BitVec 5) (off : BitVec 12)
  /-- R112: Branches when a is at least b, signed. -/
  | bge (a : BitVec 5) (b : BitVec 5) (off : BitVec 12)
  /-- R112: Branches when a is less than b, unsigned. -/
  | bltn (a : BitVec 5) (b : BitVec 5) (off : BitVec 12)
  /-- R112: Branches when a is at least b, unsigned. -/
  | bgen (a : BitVec 5) (b : BitVec 5) (off : BitVec 12)
  /-- R114: Writes the return address and jumps PC-relative. -/
  | jal (d : BitVec 5) (off : BitVec 20)
  /-- R114: Writes the return address and jumps to a register plus offset. -/
  | jalr (d : BitVec 5) (a : BitVec 5) (imm : BitVec 12)
  /-- R117: Starts a hardware loop with a count from a register. -/
  | loop (a : BitVec 5) (off : BitVec 16)
  /-- R117: Starts a hardware loop with an immediate count. -/
  | loopi (off : BitVec 8) (cc : BitVec 16)
  /-- R121: Ends the innermost hardware loop and leaves its body. -/
  | lbrk
  /-- R122: Leader checks placement and waits for followers to form a bench. -/
  | bench (num : BitVec 3)
  /-- R123: Follower joins the nearest leader's bench. -/
  | benchF (num : BitVec 3)
  /-- R127: Dissolves the bench, or advances PC outside one. -/
  | split
  /-- R126: Exchanges a vector register between neighbouring bench members. -/
  | bxch (d : BitVec 4) (a : BitVec 4) (row : BitVec 1)
  /-- R149: Loads a sign-extended byte. -/
  | ldS8 (d : BitVec 5) (a : BitVec 5) (imm : BitVec 12)
  /-- R149: Loads a zero-extended byte. -/
  | ldN8 (d : BitVec 5) (a : BitVec 5) (imm : BitVec 12)
  /-- R149: Loads a sign-extended halfword. -/
  | ldS16 (d : BitVec 5) (a : BitVec 5) (imm : BitVec 12)
  /-- R149: Loads a zero-extended halfword. -/
  | ldN16 (d : BitVec 5) (a : BitVec 5) (imm : BitVec 12)
  /-- R149: Loads a sign-extended word. -/
  | ldS32 (d : BitVec 5) (a : BitVec 5) (imm : BitVec 12)
  /-- R149: Loads a zero-extended word. -/
  | ldN32 (d : BitVec 5) (a : BitVec 5) (imm : BitVec 12)
  /-- R149: Loads a dword. -/
  | ld64 (d : BitVec 5) (a : BitVec 5) (imm : BitVec 12)
  /-- R149: Stores a byte. -/
  | st8 (b : BitVec 5) (a : BitVec 5) (imm : BitVec 12)
  /-- R149: Stores a halfword. -/
  | st16 (b : BitVec 5) (a : BitVec 5) (imm : BitVec 12)
  /-- R149: Stores a word. -/
  | st32 (b : BitVec 5) (a : BitVec 5) (imm : BitVec 12)
  /-- R149: Stores a dword. -/
  | st64 (b : BitVec 5) (a : BitVec 5) (imm : BitVec 12)
  /-- R150: Loads from a register base plus a shifted index register. -/
  | ldx (d : BitVec 5) (a : BitVec 5) (b : BitVec 5) (sz : BitVec 2) (gr : BitVec 1) (sh : BitVec 3)
  /-- R150: Stores to a register base plus a shifted index register. -/
  | stx (d : BitVec 5) (a : BitVec 5) (b : BitVec 5) (sz : BitVec 2) (sh : BitVec 3)
  /-- R151: Loads contiguous vector elements under a mask. -/
  | vld (d : BitVec 4) (a : BitVec 5) (km : BitVec 3) (sz : BitVec 2) (off : BitVec 9)
  /-- R151: Stores contiguous vector elements under a mask. -/
  | vst (d : BitVec 4) (a : BitVec 5) (km : BitVec 3) (sz : BitVec 2) (off : BitVec 9)
  /-- R151: Loads vector elements at a register stride. -/
  | vlds (d : BitVec 4) (a : BitVec 5) (km : BitVec 3) (sz : BitVec 2) (b : BitVec 5)
  /-- R151: Stores vector elements at a register stride. -/
  | vsts (d : BitVec 4) (a : BitVec 5) (km : BitVec 3) (sz : BitVec 2) (b : BitVec 5)
  /-- R152: Gathers elements at base plus shifted vector indices. -/
  | vgth (d : BitVec 4) (a : BitVec 5) (b : BitVec 4) (km : BitVec 3) (sz : BitVec 2) (sh : BitVec 2)
  /-- R152: Scatters elements at base plus shifted vector indices. -/
  | vsct (d : BitVec 4) (a : BitVec 5) (b : BitVec 4) (km : BitVec 3) (sz : BitVec 2) (sh : BitVec 2)
  /-- R155: Waits until a word is full, reads it and acquires at its scope. -/
  | ldf (d : BitVec 5) (a : BitVec 5) (imm : BitVec 12)
  /-- R155: Waits until a word is full, reads it and empties it in one step. -/
  | ldfC (d : BitVec 5) (a : BitVec 5) (imm : BitVec 12)
  /-- R155: Releases, writes a word and sets it full with the distance scope. -/
  | stf (b : BitVec 5) (a : BitVec 5) (imm : BitVec 12)
  /-- R155: Empties the full/empty bits of a range of words. -/
  | feclr (b : BitVec 5) (a : BitVec 5)
  /-- R173: Loads with acquire at a scope, invalidating stale copies. -/
  | ldaq (d : BitVec 5) (a : BitVec 5) (sc : BitVec 3) (sz : BitVec 1) (off : BitVec 10)
  /-- R173: Releases at a scope and then stores. -/
  | strl (d : BitVec 5) (a : BitVec 5) (sc : BitVec 3) (sz : BitVec 1) (off : BitVec 10)
  /-- R175: Full fence: acquire, release and store-load ordering at a scope. -/
  | fence (sc : BitVec 3)
  /-- R175: Makes earlier reads acquiring at a scope. -/
  | fenceAcq (sc : BitVec 3)
  /-- R175: Performs a release at a scope before later writes. -/
  | fenceRel (sc : BitVec 3)
  /-- R157: Prefetches a line into a cache level without faulting. -/
  | pref (ln : BitVec 2) (a : BitVec 5) (imm : BitVec 12)
  /-- R157: Removes a line from the near cache. -/
  | ncinv (a : BitVec 5) (imm : BitVec 12)
  /-- R157: Writes back and removes a line from the chiplet and near caches. -/
  | cinv (a : BitVec 5) (imm : BitVec 12)
  /-- R187: Atomically adds at the word's home and returns the old value. -/
  | amoAdd (d : BitVec 5) (a : BitVec 5) (b : BitVec 5) (sz : BitVec 1) (off : BitVec 2) (sc : BitVec 3)
  /-- R187: Atomic AND returning the old value. -/
  | amoAnd (d : BitVec 5) (a : BitVec 5) (b : BitVec 5) (sz : BitVec 1) (off : BitVec 2) (sc : BitVec 3)
  /-- R187: Atomic OR returning the old value. -/
  | amoOr (d : BitVec 5) (a : BitVec 5) (b : BitVec 5) (sz : BitVec 1) (off : BitVec 2) (sc : BitVec 3)
  /-- R187: Atomic XOR returning the old value. -/
  | amoXor (d : BitVec 5) (a : BitVec 5) (b : BitVec 5) (sz : BitVec 1) (off : BitVec 2) (sc : BitVec 3)
  /-- R187: Atomic signed minimum. -/
  | amoMinS (d : BitVec 5) (a : BitVec 5) (b : BitVec 5) (sz : BitVec 1) (off : BitVec 2) (sc : BitVec 3)
  /-- R187: Atomic unsigned minimum. -/
  | amoMinN (d : BitVec 5) (a : BitVec 5) (b : BitVec 5) (sz : BitVec 1) (off : BitVec 2) (sc : BitVec 3)
  /-- R187: Atomic signed maximum. -/
  | amoMaxS (d : BitVec 5) (a : BitVec 5) (b : BitVec 5) (sz : BitVec 1) (off : BitVec 2) (sc : BitVec 3)
  /-- R187: Atomic unsigned maximum. -/
  | amoMaxN (d : BitVec 5) (a : BitVec 5) (b : BitVec 5) (sz : BitVec 1) (off : BitVec 2) (sc : BitVec 3)
  /-- R187: Atomic swap. -/
  | amoSwap (d : BitVec 5) (a : BitVec 5) (b : BitVec 5) (sz : BitVec 1) (off : BitVec 2) (sc : BitVec 3)
  /-- R187: Atomic compare-and-swap against the value held in d. -/
  | amoCas (d : BitVec 5) (a : BitVec 5) (b : BitVec 5) (sz : BitVec 1) (off : BitVec 2) (sc : BitVec 3)
  /-- R189: Atomic F32 add rounded RNE. -/
  | amoFaddF32 (d : BitVec 5) (a : BitVec 5) (b : BitVec 5) (off : BitVec 2) (sc : BitVec 3)
  /-- R189: Atomic add of two BF16 halves rounded RNE. -/
  | amoFaddBf16x2 (d : BitVec 5) (a : BitVec 5) (b : BitVec 5) (off : BitVec 2) (sc : BitVec 3)
  /-- R189: Atomic F32 maximumNumber. -/
  | amoFmaxF32 (d : BitVec 5) (a : BitVec 5) (b : BitVec 5) (off : BitVec 2) (sc : BitVec 3)
  /-- R191: Posted atomic add returning nothing. -/
  | redAdd (a : BitVec 5) (b : BitVec 5) (sz : BitVec 1) (off : BitVec 1) (sc : BitVec 3)
  /-- R191: Posted atomic AND. -/
  | redAnd (a : BitVec 5) (b : BitVec 5) (sz : BitVec 1) (off : BitVec 1) (sc : BitVec 3)
  /-- R191: Posted atomic OR. -/
  | redOr (a : BitVec 5) (b : BitVec 5) (sz : BitVec 1) (off : BitVec 1) (sc : BitVec 3)
  /-- R191: Posted atomic XOR. -/
  | redXor (a : BitVec 5) (b : BitVec 5) (sz : BitVec 1) (off : BitVec 1) (sc : BitVec 3)
  /-- R191: Posted atomic signed minimum. -/
  | redMinS (a : BitVec 5) (b : BitVec 5) (sz : BitVec 1) (off : BitVec 1) (sc : BitVec 3)
  /-- R191: Posted atomic unsigned minimum. -/
  | redMinN (a : BitVec 5) (b : BitVec 5) (sz : BitVec 1) (off : BitVec 1) (sc : BitVec 3)
  /-- R191: Posted atomic signed maximum. -/
  | redMaxS (a : BitVec 5) (b : BitVec 5) (sz : BitVec 1) (off : BitVec 1) (sc : BitVec 3)
  /-- R191: Posted atomic unsigned maximum. -/
  | redMaxN (a : BitVec 5) (b : BitVec 5) (sz : BitVec 1) (off : BitVec 1) (sc : BitVec 3)
  /-- R191: Posted atomic F32 add. -/
  | redFaddF32 (a : BitVec 5) (b : BitVec 5) (off : BitVec 1) (sc : BitVec 3)
  /-- R191: Posted atomic BF16 pair add. -/
  | redFaddBf16x2 (a : BitVec 5) (b : BitVec 5) (off : BitVec 1) (sc : BitVec 3)
  /-- R191: Posted atomic F32 maximum. -/
  | redFmaxF32 (a : BitVec 5) (b : BitVec 5) (off : BitVec 1) (sc : BitVec 3)
  /-- R199: Arms a monitor on a local-store line. -/
  | marm (md : BitVec 2) (a : BitVec 5) (imm : BitVec 12)
  /-- R201: Waits for a monitor trigger, a timeout or an interrupt. -/
  | mwait (d : BitVec 5) (a : BitVec 5)
  /-- R202: Disarms one monitor. -/
  | mdisarm (md : BitVec 2)
  /-- R202: Disarms all four monitors. -/
  | mdisarmAll
  /-- R205: Arrives at a core barrier and waits for the use to complete. -/
  | bar (cc : BitVec 4) (num : BitVec 5)
  /-- R205: Arrives at a core barrier without waiting. -/
  | bara (cc : BitVec 4) (num : BitVec 5)
  /-- R205: Waits until a barrier is idle without arriving. -/
  | barw (num : BitVec 5)
  /-- R211: Arrives at a group barrier on a port and waits for completion. -/
  | gbar (pos : BitVec 2)
  /-- R207: Waits until an arrival counter reaches a threshold, then acquires. -/
  | cwait (d : BitVec 5) (a : BitVec 5) (b : BitVec 5) (num : BitVec 5)
  /-- R206: Releases at .co and adds to a counter. -/
  | cadd (a : BitVec 5) (num : BitVec 5)
  /-- R206: Releases at .co and sets a counter. -/
  | cset (a : BitVec 5) (num : BitVec 5)
  /-- R206: Reads a counter with acquire at .co. -/
  | crd (d : BitVec 5) (num : BitVec 5)
  /-- R220: Sends 1-4 registers as a message to a named core and class. -/
  | send (d : BitVec 5) (a : BitVec 5) (sc : BitVec 5) (num : BitVec 2)
  /-- R220: Sends bytes from local store as a message. -/
  | sendm (d : BitVec 5) (a : BitVec 5) (b : BitVec 5) (sc : BitVec 5)
  /-- R230: Sends to the own core, or replays a raw message. -/
  | sendl (d : BitVec 5) (b : BitVec 5) (sc : BitVec 5)
  /-- R229: Overflow slot takes the oldest held message into local store. -/
  | mrecv (d : BitVec 5) (a : BitVec 5)
  /-- R218: Looks up a core number and returns its location. -/
  | nlook (d : BitVec 5) (a : BitVec 5)
  /-- R218: Removes name-cache entries. -/
  | ninv (a : BitVec 5)
  /-- R233: Takes the oldest entry of a queue register. -/
  | qget (d : BitVec 5) (qn : BitVec 3)
  /-- R233: Adds a value to a queue or sends it in neighbour-channel mode. -/
  | qput (a : BitVec 5) (qn : BitVec 3)
  /-- R233: Takes eight queue entries into a vector register. -/
  | vqget (d : BitVec 4) (qn : BitVec 3)
  /-- R233: Adds eight vector lanes to an empty queue. -/
  | vqput (a : BitVec 4) (qn : BitVec 3)
  /-- R233: Returns the queue's configuration register. -/
  | qstat (d : BitVec 5) (qn : BitVec 3)
  /-- R224: Writes a class entry or channel record from a 32-byte record. -/
  | clsw (a : BitVec 5) (cc : BitVec 5)
  /-- R237: Advances a ring's TAIL and may send a channel return. -/
  | chfree (a : BitVec 5) (cc : BitVec 5)
  /-- R239: Resynchronises a channel record with its receiver. -/
  | chsync (d : BitVec 5) (a : BitVec 5)
  /-- R249: Lane-wise add, integer or float. -/
  | vadd (d : BitVec 4) (a : BitVec 4) (b : BitVec 4) (km : BitVec 3) (ty : BitVec 5) (sc : BitVec 1)
  /-- R249: Lane-wise subtract. -/
  | vsub (d : BitVec 4) (a : BitVec 4) (b : BitVec 4) (km : BitVec 3) (ty : BitVec 5) (sc : BitVec 1)
  /-- R249: Lane-wise multiply. -/
  | vmul (d : BitVec 4) (a : BitVec 4) (b : BitVec 4) (km : BitVec 3) (ty : BitVec 5) (sc : BitVec 1)
  /-- R249: Lane-wise high half of the product. -/
  | vmulh (d : BitVec 4) (a : BitVec 4) (b : BitVec 4) (km : BitVec 3) (ty : BitVec 5)
  /-- R250: Lane-wise minimum. -/
  | vmin (d : BitVec 4) (a : BitVec 4) (b : BitVec 4) (km : BitVec 3) (ty : BitVec 5)
  /-- R250: Lane-wise maximum. -/
  | vmax (d : BitVec 4) (a : BitVec 4) (b : BitVec 4) (km : BitVec 3) (ty : BitVec 5)
  /-- R249: Lane-wise absolute value. -/
  | vabs (d : BitVec 4) (a : BitVec 4) (km : BitVec 3) (ty : BitVec 5) (sc : BitVec 1)
  /-- R249: Lane-wise negation. -/
  | vneg (d : BitVec 4) (a : BitVec 4) (km : BitVec 3) (ty : BitVec 5) (sc : BitVec 1)
  /-- R251: Fused multiply-add into the destination. -/
  | vfma (d : BitVec 4) (a : BitVec 4) (b : BitVec 4) (km : BitVec 3) (ty : BitVec 5)
  /-- R251: Fused multiply-subtract. -/
  | vfms (d : BitVec 4) (a : BitVec 4) (b : BitVec 4) (km : BitVec 3) (ty : BitVec 5)
  /-- R251: Fused negated multiply-add. -/
  | vfnma (d : BitVec 4) (a : BitVec 4) (b : BitVec 4) (km : BitVec 3) (ty : BitVec 5)
  /-- R252: Dot products of lane groups added into 32-bit lanes. -/
  | vdot (d : BitVec 4) (a : BitVec 4) (b : BitVec 4) (km : BitVec 3) (ty : BitVec 5)
  /-- R253: Lane-wise AND. -/
  | vand (d : BitVec 4) (a : BitVec 4) (b : BitVec 4) (km : BitVec 3) (ty : BitVec 5)
  /-- R253: Lane-wise OR. -/
  | vor (d : BitVec 4) (a : BitVec 4) (b : BitVec 4) (km : BitVec 3) (ty : BitVec 5)
  /-- R253: Lane-wise XOR. -/
  | vxor (d : BitVec 4) (a : BitVec 4) (b : BitVec 4) (km : BitVec 3) (ty : BitVec 5)
  /-- R253: Lane-wise NOT. -/
  | vnot (d : BitVec 4) (a : BitVec 4) (km : BitVec 3) (ty : BitVec 5)
  /-- R253: Lane-wise left shift. -/
  | vshl (d : BitVec 4) (a : BitVec 4) (b : BitVec 4) (km : BitVec 3) (ty : BitVec 5)
  /-- R253: Lane-wise logical right shift. -/
  | vshr (d : BitVec 4) (a : BitVec 4) (b : BitVec 4) (km : BitVec 3) (ty : BitVec 5)
  /-- R253: Lane-wise arithmetic right shift. -/
  | vsar (d : BitVec 4) (a : BitVec 4) (b : BitVec 4) (km : BitVec 3) (ty : BitVec 5)
  /-- R254: Compares lanes and writes a mask register. -/
  | vcmp (kd : BitVec 3) (a : BitVec 4) (b : BitVec 4) (km : BitVec 3) (ty : BitVec 5) (pos : BitVec 5)
  /-- R255: Selects lanes from two registers by mask. -/
  | vsel (d : BitVec 4) (a : BitVec 4) (b : BitVec 4) (km : BitVec 3) (ty : BitVec 5)
  /-- R255: Copies enabled lanes. -/
  | vmov (d : BitVec 4) (a : BitVec 4) (km : BitVec 3) (ty : BitVec 5)
  /-- R256: Converts elements between types under its own rounding mode. -/
  | vcvt (d : BitVec 4) (a : BitVec 4) (row : BitVec 3) (sc : BitVec 1) (km : BitVec 3) (ty : BitVec 5) (fl : BitVec 5)
  /-- R257: Permutes lanes by indices. -/
  | vperm (d : BitVec 4) (a : BitVec 4) (b : BitVec 4) (km : BitVec 3) (ty : BitVec 5)
  /-- R257: Interleaves the low halves of two registers. -/
  | vshuf (d : BitVec 4) (a : BitVec 4) (b : BitVec 4) (km : BitVec 3) (ty : BitVec 5)
  /-- R258: Broadcasts a general register to every lane. -/
  | vbcst (d : BitVec 4) (gr : BitVec 5) (ty : BitVec 5)
  /-- R258: Inserts a general register into one lane. -/
  | vins (d : BitVec 4) (gr : BitVec 5) (ln : BitVec 6) (ty : BitVec 5)
  /-- R258: Extracts one lane into a general register. -/
  | vext (gr : BitVec 5) (a : BitVec 4) (ln : BitVec 6) (ty : BitVec 5)
  /-- R258: Loads a 16-bit immediate pattern into every element. -/
  | vli (d : BitVec 4) (imm : BitVec 16) (md : BitVec 2)
  /-- R259: Reduces enabled lanes by a pairwise tree into lane 0. -/
  | vred (d : BitVec 4) (a : BitVec 4) (km : BitVec 3) (ty : BitVec 5) (off : BitVec 5)
  /-- R260: ANDs two mask registers. -/
  | kand (d : BitVec 3) (a : BitVec 3) (b : BitVec 3)
  /-- R260: ORs two mask registers. -/
  | kor (d : BitVec 3) (a : BitVec 3) (b : BitVec 3)
  /-- R260: XORs two mask registers. -/
  | kxor (d : BitVec 3) (a : BitVec 3) (b : BitVec 3)
  /-- R260: Inverts a mask register. -/
  | knot (d : BitVec 3) (a : BitVec 3)
  /-- R260: Copies a mask register. -/
  | kmovKK (d : BitVec 3) (a : BitVec 3)
  /-- R260: Counts the one bits of a mask into a general register. -/
  | kpop (gr : BitVec 5) (a : BitVec 3)
  /-- R260: Copies a general register into a mask register. -/
  | kmovKG (d : BitVec 3) (gr : BitVec 5)
  /-- R260: Copies a mask register into a general register. -/
  | kmovGK (gr : BitVec 5) (a : BitVec 3)
  /-- R261: Classifies float lanes as one-hot class codes. -/
  | vcls (d : BitVec 4) (a : BitVec 4) (km : BitVec 3) (ty : BitVec 5)
  /-- R262: Multiplies float lanes by powers of two. -/
  | vscale (d : BitVec 4) (a : BitVec 4) (b : BitVec 4) (km : BitVec 3) (ty : BitVec 5)
  /-- R269: Special-function reciprocal. -/
  | vrcp (d : BitVec 4) (a : BitVec 4) (km : BitVec 3) (ty : BitVec 5)
  /-- R269: Special-function reciprocal square root. -/
  | vrsq (d : BitVec 4) (a : BitVec 4) (km : BitVec 3) (ty : BitVec 5)
  /-- R269: Special-function power of two. -/
  | vexp2 (d : BitVec 4) (a : BitVec 4) (km : BitVec 3) (ty : BitVec 5)
  /-- R269: Special-function base-2 logarithm. -/
  | vlog2 (d : BitVec 4) (a : BitVec 4) (km : BitVec 3) (ty : BitVec 5)
  /-- R269: Special-function hyperbolic tangent. -/
  | vtanh (d : BitVec 4) (a : BitVec 4) (km : BitVec 3) (ty : BitVec 5)
  /-- R269: Special-function logistic sigmoid. -/
  | vsigm (d : BitVec 4) (a : BitVec 4) (km : BitVec 3) (ty : BitVec 5)
  /-- R269: Special-function sine. -/
  | vsin (d : BitVec 4) (a : BitVec 4) (km : BitVec 3) (ty : BitVec 5)
  /-- R269: Special-function cosine. -/
  | vcos (d : BitVec 4) (a : BitVec 4) (km : BitVec 3) (ty : BitVec 5)
  /-- R284: Checks a command record and enqueues a copy into a matrix queue. -/
  | mcmd (a : BitVec 5) (qn : BitVec 1)
  /-- R292: Restarts a halted matrix queue from MPROG. -/
  | mresume (qn : BitVec 1)
  /-- R294: Stops a matrix queue and discards its entries. -/
  | mabort (qn : BitVec 1)
  /-- R292: Returns a matrix queue's status register. -/
  | mstat (d : BitVec 5) (qn : BitVec 1)
  /-- R291: Writes an entry of the queue's row-to-core map once the queue is empty. -/
  | mmap (a : BitVec 5) (b : BitVec 5) (qn : BitVec 1)
  /-- R297: Copies a tile row into a vector register after its writers complete. -/
  | mmov (d : BitVec 4) (ty : BitVec 5) (row : BitVec 4)
  /-- R297: Writes a vector register into a tile row after the tile's commands complete. -/
  | mmovw (d : BitVec 4) (ty : BitVec 5) (row : BitVec 4)
  /-- R306: Enqueues a byte copy on the copy engine. -/
  | cpy (d : BitVec 5) (a : BitVec 5) (b : BitVec 5) (num : BitVec 5) (fl : BitVec 1) (cc : BitVec 1)
  /-- R308: Enqueues a stream of dwords into a queue register. -/
  | cpys (qn : BitVec 3) (a : BitVec 5) (b : BitVec 5) (num : BitVec 5) (cc : BitVec 1)
  /-- R307: Enqueues a two-dimensional copy from a descriptor. -/
  | cpy2d (a : BitVec 5) (num : BitVec 5) (fl : BitVec 1) (cc : BitVec 1)
  /-- R317: Enqueues a collective contribution on a group port. -/
  | coll (a : BitVec 5) (off : BitVec 3) (pos : BitVec 2)
  /-- R316: Replaces an event term from a record. -/
  | ecfg (a : BitVec 5) (tm : BitVec 4)
  /-- R316: Fires an event term once. -/
  | etrig (tm : BitVec 4)
  /-- R324: Pushes a work item on the top of the list. -/
  | wpush (a : BitVec 5) (b : BitVec 5)
  /-- R324: Pops the top work item into local store. -/
  | wpop (d : BitVec 5) (b : BitVec 5)
  /-- R326: Waits for an item or for group quiescence. -/
  | wquiet (d : BitVec 5) (pos : BitVec 2)
  /-- R324: Returns the own or a neighbour's item count. -/
  | wlvl (d : BitVec 5) (a : BitVec 5)
  /-- R334: Raises cause 0x04 into the trap handler. -/
  | trap (imm : BitVec 12)
  /-- R337: Returns from a trap to EPC and restores the mode. -/
  | eret
  /-- R337: Returns from an upcall to UEPC. -/
  | upret
  /-- R331: Reads a control register. -/
  | crr (d : BitVec 5) (imm : BitVec 12)
  /-- R331: Writes a control register and returns its old value. -/
  | crw (d : BitVec 5) (a : BitVec 5) (imm : BitVec 12)
  /-- R338: Makes the slot not ready until its partition's other ready slots issue or 16 cycles pass. -/
  | yield
  /-- R339: Waits for outstanding writes and commands, releases at .pa and stops the slot. -/
  | halt
  /-- R346: Starts a stopped slot of the job at an offset. -/
  | slotgo (a : BitVec 5) (b : BitVec 5)
  /-- R347: Stops a slot of the job as if it executed HALT. -/
  | slothalt (a : BitVec 5)
  /-- R348: Writes 64 bytes of code into a core's instruction-store slice. -/
  | istw (a : BitVec 5) (b : BitVec 5)
  /-- R349: Invalidates PLB and translation entries across the region. -/
  | plbinv (a : BitVec 5)
  /-- R354: Sends a save or handover command to a core's context-save engine. -/
  | csave (a : BitVec 5)
  /-- R354: Sends a restore command to a core's context-save engine. -/
  | crest (a : BitVec 5)
  /-- R370: Arrives at the round barrier and waits for the commit. -/
  | rbar
  /-- R369: Adds a mirrored range. -/
  | miradd (a : BitVec 5) (b : BitVec 5)
  /-- R369: Removes a mirrored range. -/
  | mirdel (a : BitVec 5) (b : BitVec 5)
  /-- R372: Returns the round status of the job on the core. -/
  | rstat (d : BitVec 5)
  /-- R402: Sets or clears the slot's power demand hint. -/
  | phint (sh : BitVec 5)
  /-- R403: Writes PCAP or FALLBACK in management mode. -/
  | pcapw (a : BitVec 5)
  /-- R404: Writes the shed level and broadcasts it to every core. -/
  | shedw (a : BitVec 5)
  /-- R53: An unassigned or reserved encoding is issued and faults 0x01 with nothing changed. -/
  | illegalInstruction (long : Bool) (word : BitVec 32)
  /-- R59: A 16-bit compact instruction executes as its expansion with PC advancing by 2. -/
  | compactForm (form : Compact)
  /-- R52: A fetch beyond the slice, or of an uncorrectable halfword, faults 0x07 or 0x1E with no instruction executed. -/
  | fetchFault (addr : BitVec 64) (bad : Bool)
  /-- R123: After 65,536 cycles without formation, waiting members fault 0x08. -/
  | benchFormationTimeout
  /-- R191: A RED arrives at its home, is performed and acknowledged. -/
  | redArrival
  /-- R194: A PCIe AtomicOp issued for a device atomic completes or fails with 0x22. -/
  | hostAtomicCompletion
  /-- R201: The MWAIT timeout count expires and the slot completes with d[4] set. -/
  | mwaitTimeout
  /-- R211: A group-tree arrival gathers at a node on its way to the root. -/
  | groupArrivalMessage
  /-- R211: A completion broadcast down the tree releases a member's waiting slots. -/
  | groupCompletionMessage
  /-- R207: The CWAIT timeout expires and the slot completes with bit 32 set. -/
  | cwaitTimeout
  /-- R226: A user message is processed against its class entry: deposit, ring, queue, hold or discard. -/
  | messageArrival
  /-- R227: A held message is deposited once its class has room. -/
  | heldMessageDeposit
  /-- R228: A held message reaches HOLD mesh cycles, waking the overflow slot or being discarded. -/
  | holdTimeout
  /-- R221: A refused message returns to the source interface, which retains it. -/
  | messageRefusal
  /-- R221: After 256 mesh cycles the source resends retained messages with RETRY on the first. -/
  | refusalResend
  /-- R135: A name-cache miss walk completes and the held access proceeds. -/
  | nameTableWalk
  /-- R237: A channel return updates the sender's C unless stale. -/
  | channelReturnArrival
  /-- R238: After PROBE µs without a return, a waiting sender sends a probe and may set STALL. -/
  | channelProbe
  /-- R238: The receiver answers a probe with a return. -/
  | channelProbeArrival
  /-- R239: The receiver answers a CHSYNC request with HEAD, TAIL and EXPSEQ. -/
  | chsyncRequestArrival
  /-- R239: The sender adopts S, C and SEQ and clears BROKEN and STALL. -/
  | chsyncReplyArrival
  /-- R239: No reply within 64 µs; CHSYNC completes with d[33] set. -/
  | chsyncTimeout
  /-- R370: The receiver acknowledges a flow-tracked deposit to the sending interface. -/
  | flowDepositAck
  /-- R231: A CRW changing a queue's MODE empties it and faults parked slots 0x35. -/
  | qcfgWrite
  /-- R265: A special-function result returns, writes vd and FFLAGS, and the slot rejoins. -/
  | specialFunctionResult
  /-- R285: The array takes a runnable head command from Q0 or Q1. -/
  | matrixCommandStart
  /-- R281: The array completes one k-step or row of a command and writes the tile. -/
  | matrixKstep
  /-- R288: A command completes, increments its counter and advances DONE. -/
  | matrixCommandComplete
  /-- R296: An uncorrectable error in a tile or queued state halts the queue with STATE 3. -/
  | matrixStateError
  /-- R290: An STSPR row arrives and is written with every word full. -/
  | stsprRowArrival
  /-- R290: The zero-length closing message is processed as a kind-0 arrival on CLASS. -/
  | stsprClosingArrival
  /-- R306: The copy engine checks, reads and writes one piece of a command. -/
  | copyPiece
  /-- R309: A copy completes, sets full bits and increments its counter. -/
  | copyComplete
  /-- R321: A collective unit is combined at a tree node and forwarded. -/
  | collUnitTransfer
  /-- R322: A collective use completes at a member: destination written, counter incremented. -/
  | collUseComplete
  /-- R322: Uncorrectable data abandons the use on every member with trap 0x68. -/
  | collBadData
  /-- R315: A term whose conditions hold fires, releasing held commands and stepping thresholds. -/
  | termFire
  /-- R325: Each interval a core reports its count and ships items to a less loaded neighbour. -/
  | levellingInterval
  /-- R325: Shipped items are placed on the receiver's top, excess returned. -/
  | workItemsArrival
  /-- R325: Returned items are put back at the sender's bottom. -/
  | workItemsReturn
  /-- R326: Quiescence is reported to every waiting member with d = 1. -/
  | wquietQuiescent
  /-- R323: A CRW to WLCFG configures the work list, emptying it on a BASE or size change. -/
  | wlcfgWrite
  /-- R341: A pending asynchronous cause is taken at the slot's next issue turn. -/
  | asyncCauseEntry
  /-- R340: Panel time reaches TCMP with TIE set and raises cause 0x09. -/
  | timerInterrupt
  /-- R27: A slot that left the rotation rejoins 1 to 4 cycles after its condition is met. -/
  | slotRejoin
  /-- R350: A CRW to FNCFG configures the notice ring and resets HEAD. -/
  | fncfgWrite
  /-- R346: The target accepts or refuses a SLOTGO and answers. -/
  | slotgoArrival
  /-- R347: The target captures the named slot and answers. -/
  | slothaltArrival
  /-- R348: The target writes or refuses 64 bytes of code and acknowledges. -/
  | istwArrival
  /-- R349: All units have acknowledged a PLBINV and the slot rejoins. -/
  | plbinvAck
  /-- R351: A class-31 notice is written into the FNCFG ring, discarded or returned. -/
  | completionNoticeArrival
  /-- R360: A returned notice is appended to the context's pending list or spilled. -/
  | noticeReturn
  /-- R358: A context-save engine accepts a save, restore or handover command. -/
  | handoverCommand
  /-- R358: An outgoing slot is captured at its turn once drained and its record written. -/
  | slotCapture
  /-- R358: One bank is exchanged and its ready bit set. -/
  | bankExchange
  /-- R354: The engine writes RESULT and the header and increments COUNTER. -/
  | handoverComplete
  /-- R371: On the stream broadcast, a member's mirror engine streams its state to the staging copy. -/
  | roundStream
  /-- R371: A member's streaming finishes and its acknowledgement gathers to the root. -/
  | mirrorStreamComplete
  /-- R371: The root receives the last acknowledgement and records the round. -/
  | commitPoint
  /-- R371: On the commit broadcast a core adopts the staging copy and releases its slots. -/
  | roundCommit
  /-- R376: A loss isolates the lost cores and class 30 recovery begin reaches the job. -/
  | recoveryBegin
  /-- R376: A timed re-power attempt of the lost zone is made. -/
  | repowerAttempt
  /-- R376: The re-powered zone reports power good and self-test begins. -/
  | powerGood
  /-- R376: Boot self-test ends, failed cores are retired and spares substituted. -/
  | selfTestComplete
  /-- R377: Lost cores are written from their committed copies. -/
  | recoveryRestore
  /-- R378: A surviving sender rewinds a channel record and resends its log. -/
  | resendLogRewind
  /-- R378: An unanswered resync exchange is resent every 64 µs. -/
  | resyncRetry
  /-- R376: Restored slots rejoin and commits may complete. -/
  | recoveryRelease
  /-- R374: A core failing in service raises a containment event starting recovery. -/
  | containmentEvent
  /-- R406: A shed job not parked within SHEDDL is parked in place with cause 0x77. -/
  | shedDeadlineExpiry
  /-- R407: An idle core stops its clock and lowers to retention voltage. -/
  | coreRetention
  /-- R400: Every 10 µs the budget tree recomputes and writes every core's FDUTY. -/
  | budgetTick
  /-- R394: A shelf frame is accepted or discarded; an accepted one updates CURVECAP and notifies. -/
  | telemetryFrame
  /-- R395: No frame for 2 ms sets LOST and FALLBACK enters the cap. -/
  | frameLossTimeout
  /-- R393: Every 50 µs the port echoes the last accepted SEQ. -/
  | telemetryEcho
  /-- R392: A current step updates a sense point's REFF estimate. -/
  | currentStepSample
  /-- R392: RISE held for 1 s raises connection degradation. -/
  | riseHeld
  /-- R391: Writing CLR resets MINV and MINTIME. -/
  | senseClr
  /-- R391: Writing 1 to DEGR clears it and rearms the sense point. -/
  | degrClear
  /-- R390: A zone regulator trips on undervoltage, overcurrent, phases or temperature. -/
  | zoneTrip
  /-- R390: One failed phase derates the zone's ZCAP to 7/8 and is logged. -/
  | phaseFailure
  /-- R411: A chiplet at TCRIT is clamped to FDUTY 4. -/
  | thermalClamp
  /-- R411: A persistently hot clamped chiplet parks its jobs in place. -/
  | thermalPark
  /-- R411: A chiplet at TSHUT is powered off and recovery starts. -/
  | thermalShutdown
  /-- R411: After 10 ms below TCRIT − 5 °C the clamp lifts and heat-parked jobs may resume. -/
  | clampLift
  /-- R411: An off chiplet below TRESTART is re-powered. -/
  | thermalRestart
  /-- R6: A write to a register or field without behaviour of its own sets it under its access code. -/
  | registerWrite
  /-- R135: A memory-plane load, store or AMO is performed at the target core's bank. -/
  | remoteRequest
  /-- R147: A remote or paged read returns its data to the waiting slot. -/
  | remoteReply
  /-- R147: The home acknowledges an outstanding write. -/
  | writeAck
  /-- R142: A PLB miss walk completes and fills the PLB or faults. -/
  | plbWalk
  /-- R143: On an LLC miss the translation unit maps the page to its frame. -/
  | translationWalk
  /-- R147: An entry of the write-through buffer drains into the chiplet cache. -/
  | writeThroughDrain
  /-- R156: A refused remote wait request is sent again after 256 mesh cycles. -/
  | waitTableRefusal
  /-- R155: The home reports completion of a remote or long FECLR. -/
  | feclrComplete
  /-- R39: The launch engine resolves dependences, checks placement and starts a job. -/
  | jobLaunch
  /-- R46: After 10 ms waiting, the dispatcher reserves a target region for the job. -/
  | placementWaitExpiry
  /-- R48: When every slot has halted, the job completes. -/
  | jobComplete
  /-- R439: A launch record read from host memory completes and CONSUMED advances. -/
  | launchRecordRead
  /-- R439: A host write to SUBMIT submits or withdraws launch records. -/
  | submit
  /-- R438: A write to WQCFG enables or disables a work queue. -/
  | wqcfg
  /-- R436: The PF assigns a work queue to a partition. -/
  | queueOwnershipWrite
  /-- R432: The PF assigns partitions to its virtual functions. -/
  | partlink
  /-- R447: A host write requests one completion notice. -/
  | notify
  /-- R445: The host frees fault-queue entries, letting waiting records be written. -/
  | fqhead
  /-- R446: A fault post reaches the launch engine and is written or refused. -/
  | faultPostArrival
  /-- R455: A write starts a snapshot that sets SNAP on every writable leaf. -/
  | snapctl
  /-- R433: The TDISP interface enters CONFIG_LOCKED. -/
  | lockInterface
  /-- R433: The TDISP interface enters RUN. -/
  | startInterface
  /-- R433: The TDISP interface returns to CONFIG_UNLOCKED and the partition is reset. -/
  | stopInterface
  /-- R435: An FLR of VF p stops the partition's jobs, scrubs and rekeys it. -/
  | functionLevelReset
  /-- R434: A violating TLP puts the interface in ERROR and stops the partition's jobs. -/
  | tdispViolation
  /-- R453: An SPDM request returns signed die measurement reports. -/
  | getMeasurements
  /-- R195: A host AtomicOp on a device page is performed or completed with Unsupported Request. -/
  | hostAtomicop
  /-- R456: An optical frame is accepted in sequence or discarded with a NAK. -/
  | opticalFrameReceive
  /-- R456: After 4 µs without progress the sender replays from ACK, and after 64 the port goes down. -/
  | opticalReplayTimeout
  /-- R457: A port comes up and pairs move to it once their old frames are acknowledged. -/
  | opticalPortUp
  /-- R479: A management core's store asks the security core to check and commit a proposed layout. -/
  | layoutbell
  /-- R479: The security core writes the mailbox reply and increments the requester's counter. -/
  | layoutReply
  /-- R423: A write to the commit register sets BUSY and requests a bank flip. -/
  | commit
  /-- R423: At the mesh tick every router switches layout banks. -/
  | meshTick
  /-- R423: All routers acknowledge the flip and BUSY clears. -/
  | busyClear
  /-- R425: At boot or security-core reset the journal is reconciled with COMMIT. -/
  | journalReconcile
  /-- R430: The security core appends a retirement record, committing its last byte. -/
  | retirementAppend
  /-- R431: At boot the retirement log is read and torn records voided. -/
  | bootLogRead
  /-- R428: A management core's watchdog expires and the core is reset and reloaded. -/
  | watchdogExpiry
  /-- R428: A store to a WDOG word restarts the management core's watchdog. -/
  | wdog
  /-- R454: The security core verifies and loads a signed firmware image. -/
  | firmwareImageLoad
  /-- R392: A voltage step drop with no current step is measured with ΔI = 0 and raises 0x76 when e exceeds 40 mV. -/
  | unexplainedStepDrop
  /-- R376: A thermally shut chiplet not cooled below restart temperature by t0 + 10 s becomes a permanent loss. -/
  | thermalRepowerDeadline
  /-- R423: Loss of panel power empties both router layout banks, clears the commit register and may tear a flash append. -/
  | panelPowerLoss
  /-- R138: A host request through VF p reads or writes panel memory, translated for partition p. -/
  | hostMemoryRequest
  /-- R158: The scrubber repairs corrected single-bit errors in stored data. -/
  | scrubberPass
  /-- R201: Panel time reaching TCMP with TIE clear completes a waiting MWAIT with d[5] set. -/
  | mwaitTcmpInterrupt
  /-- R449: The security core assigns a level-3 span or changes a frame group's owner, zeroing it and invalidating PLB entries. -/
  | frameTableWrite
  deriving DecidableEq, Repr

/-- A step that is no instruction, with what it acts on: an entry of the machine's lists of steps that wait to happen. -/
structure Event where
  kind : Instr
  arg : Arg
  deriving DecidableEq, Repr

end Sys2Proof
end

