-- ==== Sys2Proof/Machine/State.lean ====
section
/-!
DEFINITION. The state of the panel as plain data: every register, queue, table, cache and engine the spec names, and
the machine right after reset. Cores, jobs, partitions and the other parts that come in large numbers are held in lists
keyed by their number; a number that is not listed stands for a part in its reset state.
-/
namespace Sys2Proof.Machine

/-- Why a step stops with a fault. There is no such reason: every fault of the panel is a trap, an upcall or the end of a
job, and each of these is a next state (R335, R336, R342). -/
inductive Fault where
  deriving DecidableEq, Repr

/-- Why a step is refused. -/
inductive Refusal where
  /-- Raised by an arm of `exec` whose instruction has no meaning yet. Safe: the machine stops. -/
  | notModelled (mnemonic : String)
  deriving DecidableEq, Repr

/-! ### A slot -/

/-- The modes of a slot; code 2 never occurs (R329). -/
inductive Mode where
  | user | supervisor | management
  deriving DecidableEq, Repr

/-- The code of a mode in SSTAT (R329). -/
def Mode.code : Mode → Nat
  | .user => 0
  | .supervisor => 1
  | .management => 3

/-- SSTAT, field by field (R330); reserved bits hold nothing. -/
structure Status where
  partition : BitVec 6
  slotNo : BitVec 4
  bend : BitVec 3
  brole : BitVec 2
  ovf : Bool
  upc : Bool
  exl : Bool
  tie : Bool
  pmode : Mode
  mode : Mode
  deriving DecidableEq, Repr

/-- The two hardware-loop levels (R116). -/
structure Loops where
  lcnt0 : Word
  lbeg0 : BitVec 17
  lend0 : BitVec 17
  lcnt1 : Word
  lbeg1 : BitVec 17
  lend1 : BitVec 17
  deriving DecidableEq, Repr

/-- An address monitor (R199): `line` is bits 20:6 of the self-window offset. -/
structure Monitor where
  armed : Bool
  triggered : Bool
  line : BitVec 15
  deriving DecidableEq, Repr

/-- Rounding mode, sticky flags and the random stream (R84, R85, R90). -/
structure Fp where
  rmode : BitVec 3
  fflags : BitVec 5
  seed : Dword
  draw : Dword
  deriving DecidableEq, Repr

/-- ROUND, INSTRET, TCMP and the offset that makes CYCLE of the core's cycle count (R332). -/
structure Counts where
  round : Dword
  instret : Dword
  cycleOff : Dword
  tcmp : Dword
  deriving DecidableEq, Repr

/-- The upcall registers and the trap registers (R332, R335, R336); a vector holds its offset in bits 16:1 and its valid
bit in bit 0. -/
structure Vectors where
  uepc : Dword
  ucause : BitVec 8
  uaddr : Dword
  upvec : BitVec 17
  uscr : Dword
  epc : Dword
  ecause : BitVec 8
  eaddr : Dword
  tvec : BitVec 17
  escr : Dword
  deriving DecidableEq, Repr

/-- Where the data of a read that leaves the core goes: a general register with its extension, the enabled elements of a
vector register, or a general register through the full/empty bits (R149, R151, R155, R187). -/
inductive LoadDest where
  | gpr (d : BitVec 5) (bytes : Nat) (signed : Bool)
  | vec (d : BitVec 4) (bits : Nat)
  | word (d : BitVec 5)
  deriving DecidableEq, Repr

/-- A read under way: the elements already returned, how many replies are still to come, the first bad address met, and
the scope of the acquire that completes it (R159, R169). -/
structure PendingLoad where
  dest : LoadDest
  got : List (Nat × Dword)
  remaining : Nat
  bad : Option (Nat × Dword)
  acquire : Option (BitVec 3)
  deriving DecidableEq, Repr

/-- A special-function operation (R266). -/
inductive SfuOp where
  | rcp | rsq | exp2 | log2 | tanh | sigm | sin | cos
  deriving DecidableEq, Repr

/-- A special-function request under way: operands and control bound at issue (R265). -/
structure SfuReq where
  op : SfuOp
  d : BitVec 4
  src : VReg
  mask : Dword
  ty : BitVec 5
  deriving DecidableEq, Repr

/-- What a slot that has left the rotation waits for (R27, R212). -/
inductive Wait where
  /-- The condition is met and the instruction is complete; the slot rejoins (R27). -/
  | rejoin
  /-- Replies of a remote or paged read, an AMO, or a full/empty read (R147, R156, R190). -/
  | reply (p : PendingLoad)
  /-- A PLB walk, a translation-unit walk or a name-table walk; the instruction issues again (R135, R142, R143). -/
  | walk (va : Dword)
  | translation (va : Dword)
  | nameWalk (target : Nat) (va : Dword)
  /-- The limit of 32 outstanding writes (R147). -/
  | room
  /-- The slot's own posted writes or RED to bytes that it names again, until they are performed at their home (R148, R166):
  whether the access is one of the self window, for which the slot's own store through a window counts and the slot stays in
  the ring, not ready (R92, R108, R165), the bytes' place where it is known, their address and their number. -/
  | ordered (own : Bool) (phys : Option Nat) (va : Nat) (bytes : Nat)
  /-- The rest of a vector store's lines (R152). -/
  | lines (rest : List RemoteReq)
  /-- A release (R170); the instruction issues again. -/
  | release (scope : BitVec 3)
  /-- A full/empty read of the own core held in the wait table (R156). -/
  | fill (word : Nat) (d : BitVec 5) (clear : Bool)
  /-- A remote or long FECLR (R155). -/
  | feclr
  | mwait (d : BitVec 5) (deadline : Option Nat)
  | bar (b : BitVec 5)
  | barw (b : BitVec 5)
  | gbar (port : BitVec 2) (rbar : Bool)
  /-- RBAR until every flow-tracked message of the core is deposited (R370). -/
  | deposits
  | cwait (d : BitVec 5) (c : BitVec 5) (t : Word) (deadline : Option Nat)
  /-- A send parked on a channel record (R235) or on the outgoing buffer (R220). -/
  | channel (idx : BitVec 6) (record : Nat)
  | outgoing
  /-- A parked reader or writer of a queue register (R233). -/
  | queueRead (q : BitVec 3) (vec : Bool) (d : BitVec 5)
  | queueWrite (q : BitVec 3) (vec : Bool) (vals : List Dword)
  | chsync (d : BitVec 5) (idx : BitVec 6) (deadline : Nat)
  /-- MCMD with the copy of its record, until its release is performed and its queue has room; MMAP or MABORT on a queue that
  is not empty (R284, R291, R294). -/
  | matrixRoom (q : BitVec 1) (record : BitVec 512)
  | matrixEmpty (q : BitVec 1)
  | matrixAbort (q : BitVec 1)
  /-- MMOV and MMOVW waiting for the commands named (R297). -/
  | mmov (d : BitVec 4) (tile : BitVec 5) (row : BitVec 4) (ids : List Nat)
  | mmovw (val : VReg) (tile : BitVec 5) (row : BitVec 4) (ids : List Nat)
  | copyRoom
  | collRoom
  | halt
  /-- A slot of a SLOTHALT or of a job that ends, until its writes and engine commands are complete (R339, R347). -/
  | stopping
  | wquiet (d : BitVec 5) (port : BitVec 2)
  | bench (span : Nat) (deadline : Nat)
  | benchF (span : Nat) (deadline : Nat) (leader : Option Nat)
  | sfu (r : SfuReq)
  /-- SLOTGO or SLOTHALT waiting for the answer about a slot of a core (R346, R347), PLBINV for its acknowledgements
  (R349). -/
  | slotAnswer (target : Nat) (tslot : SlotNo) (halting : Bool)
  | plbinv
  /-- An AMO performed by the host (R194). -/
  | hostAtomic (d : BitVec 5) (bytes : Nat) (op : AmoOp) (addr : Nat) (va x e : Dword) (acquire : Option (BitVec 3))
  /-- A bank of the share whose incoming data is not yet there (R358). -/
  | bank (k : Nat)
  /-- Restored by a recovery and not yet released (R377, R379). -/
  | restoring
  /-- A host-bound access that the root chiplet has discarded: no reply comes (R448). -/
  | discarded (va : Dword)
  deriving DecidableEq, Repr

/-- Whether a slot holds a started thread (R25, R48, R346). -/
inductive Run where
  | off
  | running
  | waiting (w : Wait)
  | halted
  deriving DecidableEq, Repr

/-- A slot's place in a bench: the leader's core, the span, the slot's position, and how many instructions of the bench's
stream it has completed (R122, R124). -/
structure Bench where
  leader : Nat
  span : Nat
  pos : Nat
  done : Nat
  deriving DecidableEq, Repr

/-- A slot: the state of R17 and what the panel keeps for it. -/
structure Slot where
  g : Vector Dword 32
  v : Vector VReg 16
  k : Vector Dword 8
  /-- The PC as a full address, so that an address past the slice can be reported (R52). -/
  pc : Dword
  /-- Address of the slot's preceding instruction since its start or its last handler entry (R52). -/
  lastPc : Option Dword
  loops : Loops
  mons : Vector Monitor 4
  st : Status
  fp : Fp
  cnt : Counts
  vec : Vectors
  run : Run
  /-- Length in bytes of the instruction now executing or waiting. -/
  ilen : Nat
  /-- First core cycle in which the slot may issue again (R25). -/
  readyAt : Nat
  /-- Core cycle in which the slot rejoins, once its wait's condition is met (R27). -/
  rejoinAt : Option Nat
  /-- The slots whose issue a YIELD still waits for, and the cycle in which it ends at the latest (R338). -/
  yields : List SlotNo
  yieldEnd : Nat
  /-- A precise fault that came with an answer, taken at the slot's next turn: cause, address, return offset (R341). -/
  taking : Option (BitVec 8 × Dword × Dword)
  /-- Asynchronous causes and held upcall causes not yet taken, each with its address (R336, R341). -/
  pending : List (BitVec 8 × Dword)
  /-- A deferred fault not yet delivered (R159, R341). -/
  deferred : Option (BitVec 8 × Dword)
  /-- The PHINT value, none without a hint (R400, R402). -/
  phint : Option (BitVec 5)
  /-- Outstanding writes (R147). -/
  outstanding : Nat
  /-- Job of the thread. -/
  job : Option Nat
  /-- The bench the slot stands in. -/
  bench : Option Bench
  /-- Parked by shedding or by heat: keeps its state and issues nothing (R405, R406, R411). -/
  parked : Bool
  /-- Named by a handover or a SLOTHALT that is to capture it (R347, R358). -/
  capture : Bool
  /-- The channel record whose wait has ended for the slot, while it has not sent yet (R235). -/
  turnOn : Option (BitVec 6) := none
  deriving DecidableEq, Repr

/-! ### Memory of a core -/

/-- Where a page lives (R138). -/
inductive Place where
  | hbm (stack : Nat)
  | uncached (stack : Nat)
  | store (core : Nat) (offset : Nat)
  | pinned (slice : Nat)
  | control
  deriving DecidableEq, Repr

/-- A near-cache line, tagged by virtual address, with its VOL mark (R144, R168) and the bytes whose check bits tell that
their granule is uncorrectable, or holds a single-bit error (R158). -/
structure NearLine where
  va : Nat
  vol : Bool
  data : VReg
  bad : BitVec 64 := 0
  soft : BitVec 64 := 0
  deriving DecidableEq, Repr

/-- An entry of the write-through buffer: a line, the bytes written and the slot that wrote them (R147). -/
structure BufLine where
  slot : SlotNo
  part : BitVec 6
  va : Nat
  place : Place
  vol : Bool
  mask : BitVec 64
  data : VReg
  deriving DecidableEq, Repr

/-- What a leaf grants, combined with the partition's domain rights, for user and supervisor mode, and its attributes
(R137, R141, R142). -/
structure PageInfo where
  place : Place
  rdU : Bool
  wrU : Bool
  exU : Bool
  rdS : Bool
  wrS : Bool
  exS : Bool
  rd : Bool
  wr : Bool
  ex : Bool
  sa : Bool
  vol : Bool
  mir : Bool
  fe : Bool
  snap : Bool
  deriving DecidableEq, Repr

/-- A PLB entry: partition (none for an agent that acts for no partition), page base and size (R142). -/
structure PlbEntry where
  part : Option (BitVec 6)
  base : Nat
  size : Nat
  info : PageInfo
  deriving DecidableEq, Repr

/-- A translation-unit entry: the frame of a page (R143); `phys` is its place in the model's memory, `host` tells a frame
in host memory. -/
structure XlateEntry where
  part : Option (BitVec 6)
  base : Nat
  size : Nat
  phys : Nat
  host : Bool
  deriving DecidableEq, Repr

/-- A line of a chiplet cache: the page's home, per-byte valid and dirty marks, owner and VOL mark (R142 to R145, R168),
and the valid bytes of uncorrectable granules and of granules with a single-bit error (R158). -/
structure ChipLine where
  va : Nat
  part : Option (BitVec 6)
  place : Place
  vol : Bool
  valid : BitVec 64
  dirty : BitVec 64
  owner : Option Nat
  data : VReg
  bad : BitVec 64 := 0
  soft : BitVec 64 := 0
  deriving DecidableEq, Repr

/-- A full/empty read held at a word's home: of a slot of the core or of a remote requester (R156). -/
structure FillWait where
  word : Nat
  core : Nat
  slot : SlotNo
  va : Dword
  clear : Bool
  own : Bool
  deriving DecidableEq, Repr

/-! ### Barriers, classes, channels, queues -/

/-- An open use of a named barrier (R205). -/
structure BarUse where
  expected : Nat
  arrivals : Nat
  deriving DecidableEq, Repr

/-- A class entry (R223), with the bytes freed since the last return and whether a probe has come since (R237);
`bad` marks an uncorrectable error in it (R227). -/
structure ClassEntry where
  base : Word
  head : Word
  tail : Word
  source : Name
  expseq : BitVec 16
  dups : BitVec 16
  drops : BitVec 20
  queue : BitVec 3
  counter : BitVec 5
  cnten : Bool
  flow : Bool
  fe : Bool
  wrap : Bool
  sizelog : BitVec 4
  mode : BitVec 3
  freed : Nat
  probed : Bool
  bad : Bool
  deriving DecidableEq, Repr

/-- A held message and the panel time since which it is held (R226, R228). -/
structure HeldMsg where
  msg : Msg
  since : Nat
  deriving DecidableEq, Repr

/-- A channel record (R234) with the partition that wrote it, the slots waiting on it in order (R235), its probes (R238)
and the catching-up target (R379). -/
structure Channel where
  part : BitVec 6
  s : Word
  c : Word
  k : Word
  dest : Name
  cls : BitVec 5
  seq : BitVec 16
  probe : BitVec 16
  stall : Bool
  broken : Bool
  valid : Bool
  waiters : List SlotNo
  probes : Nat
  lastReturn : Nat
  catching : Option (BitVec 16 × Word)
  /-- Under a resync exchange, and the logged messages still to be resent (R378). -/
  resync : Bool
  resend : List Msg
  /-- HEAD, TAIL and EXPSEQ of the receiver, once a resync exchange is answered (R378). -/
  answer : Option (Word × Word × BitVec 16)
  deriving DecidableEq, Repr

/-- A queue register (R231, R233) with its parked readers and writers in order of arrival. -/
structure QueueReg where
  dest : BitVec 16
  cls : BitVec 5
  mode : BitVec 2
  entries : List Dword
  readers : List SlotNo
  writers : List SlotNo
  deriving DecidableEq, Repr

/-! ### Engines -/

/-- An entry of a matrix queue: the record's copy, the slot and mode of its MCMD, the captured SEED and DRAW, its progress
(R274, R284, R286) and whether its term has fired and it occupies the array (R285). -/
structure MatCmd where
  id : Nat
  record : BitVec 512
  slot : SlotNo
  mode : Mode
  part : BitVec 6
  seed : Dword
  draw : Dword
  fired : Bool
  started : Bool
  kstep : Nat
  row : Nat
  done : Bool
  /-- First core cycle in which the array can have made the next k-step or row, or written the tile of a command whose array work
  has ended (R277, R287). -/
  busyTo : Nat := 0
  /-- The core whose rows of an STSPR have all been sent, while its closing message waits for room (R221, R290). -/
  owed : Option Nat := none
  deriving DecidableEq, Repr

/-- A matrix queue: its entries, status register, row-to-core map and performance counters (R274, R291, R293). A map entry
is none where it is disabled. -/
structure MatQueue where
  entries : List MatCmd
  fcause : BitVec 8
  kstep : BitVec 8
  row : BitVec 4
  opnd : BitVec 3
  doneCount : BitVec 8
  nc : Bool
  sat : Bool
  nv : Bool
  ovf : Bool
  uf : Bool
  nx : Bool
  state : BitVec 2
  map : Vector (Option (BitVec 16)) 16
  mksteps : Dword
  mstallc : Dword
  deriving DecidableEq, Repr

/-- What a copy command does: bytes to bytes, or dwords into a queue register (R306, R308). -/
inductive CopyKind where
  | bytes
  | stream (q : BitVec 3)
  deriving DecidableEq, Repr

/-- A command of the copy engine; CPY and CPYS are one row (R303 to R309). -/
structure CopyCmd where
  kind : CopyKind
  src : Dword
  dst : Dword
  rowBytes : Nat
  rows : Nat
  sstride : Dword
  dstride : Dword
  fe : Bool
  counter : Option (BitVec 5)
  term : Option (BitVec 4)
  slot : SlotNo
  mode : Mode
  part : BitVec 6
  fired : Bool
  released : Bool
  prog : Nat
  deriving DecidableEq, Repr

/-- CPSTAT less DEPTH and HELD, which the queue gives (R311). -/
structure CopyStat where
  fcause : BitVec 8
  prog : BitVec 24
  doneCount : BitVec 8
  slot : BitVec 4
  fault : Bool
  deriving DecidableEq, Repr

/-- A collective command: its descriptor, its op and port, its slot and the number of its use (R317 to R319). -/
structure CollCmd where
  desc : BitVec 512
  op : BitVec 3
  port : BitVec 2
  slot : SlotNo
  job : Nat
  group : BitVec 8
  use : Nat
  fired : Bool
  deriving DecidableEq, Repr

/-- A condition of an event term (R314). -/
structure TermCond where
  en : Bool
  cnt : BitVec 5
  thr : Word
  deriving DecidableEq, Repr

/-- An event term (R314). -/
structure Term where
  valid : Bool
  oneshot : Bool
  outen : Bool
  outcnt : BitVec 5
  incr : BitVec 16
  conds : Vector TermCond 4
  deriving DecidableEq, Repr

/-- A work item, with the mark of one that arrived by levelling (R324) and its cell of the list region, which is hidden
(R323). -/
structure WorkItem where
  lo : Dword
  hi : Dword
  levelled : Bool
  cell : Option Nat
  deriving DecidableEq, Repr

/-- A core's work list: WLCFG, the items from the bottom up, its owning job, the counts its neighbours reported and the
panel time of its next balancing interval (R323 to R325). -/
structure WorkList where
  base : BitVec 21
  sizelog : BitVec 4
  thresh : BitVec 8
  interval : BitVec 4
  bal : Bool
  en : Bool
  job : Option Nat
  items : List WorkItem
  /-- The bottom pointer of the ring: the cell of the oldest item that has one (R323). -/
  bottom : Nat
  reported : List (Nat × Nat)
  nextAt : Nat
  /-- Items shipped and not yet placed or put back (R325, R326). -/
  inFlight : Nat
  deriving DecidableEq, Repr

/-- A partition's row of registers on a core (R228, R332, R350). -/
structure PartRow where
  ovfslot : BitVec 5
  ovfvec : BitVec 17
  fnHead : Word
  fnCounter : BitVec 5
  fnSizelog : BitVec 4
  fnEn : Bool
  fnBase : BitVec 21
  deriving DecidableEq, Repr

/-- A handover, a save or a restore on a core (R354, R358). -/
structure Handover where
  cmd : HandoverCmd
  /-- Slots still to be captured. -/
  toCapture : List SlotNo
  captured : List SlotNo
  /-- Banks of the share still to be exchanged: their ready bits are clear. -/
  banks : List Nat
  /-- The shared state has been exchanged. -/
  started : Bool
  /-- Incoming slots not yet released, and whether the pending notices have been delivered (R361). -/
  toRelease : List SlotNo
  noticed : Bool
  /-- Bytes written into the outgoing area (R356). -/
  prog : Nat
  result : Nat
  /-- Notices for the incoming context that came meanwhile (R361). -/
  notices : List Notice
  deriving DecidableEq, Repr

/-- A record of the resend log: the message and its channel record (R373). -/
structure LogRec where
  idx : BitVec 6
  msg : Msg
  deriving DecidableEq, Repr

/-- What the mirror engine of a core keeps for a recoverable job: mirrored ranges, the D and P flags by line offset, the
resend log, and the fields of RSTAT (R367, R372, R373). -/
structure Mirror where
  job : Nat
  /-- The mirror allowance A of the core when its job launched, in bytes (R365). -/
  allow : Nat
  ranges : List (Nat × Nat)
  dirty : List Nat
  prev : List Nat
  log : List LogRec
  nrec : BitVec 16
  lcause : BitVec 8
  reexec : Bool
  unprot : Bool
  /-- No sideboard space is free for the core's copies (R382). -/
  noSpace : Bool
  streamed : Bool
  deriving DecidableEq, Repr

/-- A job's group ports on a core: the group-table index of each valid port, and how many uses the core has arrived at
and seen complete (R210, R211, R319). -/
structure Ports where
  job : Nat
  port : Vector (Option (BitVec 8)) 4
  arrived : Vector Nat 4
  completed : Vector Nat 4
  /-- Whether an RBAR is among the arrivals of the core's current use of gp0 (R370). -/
  rbar : Bool
  collUses : Vector Nat 4
  deriving DecidableEq, Repr

/-- A core (R16, R160, R426): a grid core, an edge core or a processor of a root chiplet. -/
structure Core where
  slots : Vector Slot 16
  /-- Clock cycles since reset; the cycle count of fetch duty (R30) and the opportunity count (R29), which a bench takes
  from its leader (R124). -/
  t : Nat
  p : Nat
  o : Nat
  lastIssuer : Nat
  lastOf : List (Nat × Nat)
  near : List NearLine
  buffer : List BufLine
  plb : List PlbEntry
  names : List (BitVec 6 × Nat)
  waits : List FillWait
  c : Vector Word 32
  bars : Vector (Option BarUse) 32
  ports : List Ports
  classes : Vector ClassEntry 32
  held : List HeldMsg
  /-- Partition and source pairs that the interface refuses until a RETRY (R221). -/
  refusing : List (BitVec 6 × Name)
  /-- Messages that hold an entry of the outgoing buffer (R221). -/
  sent : List Msg
  /-- Messages refused and kept in order, with the panel time of their resend (R221). -/
  retained : List (Nat × Msg)
  channels : Vector Channel 64
  /-- Flow-tracked messages sent and not yet acknowledged as deposited: partition, receiver and class of each (R370). -/
  undeposited : List (BitVec 6 × Name × BitVec 5)
  q : Vector QueueReg 8
  mq : Vector MatQueue 2
  tiles : Vector (BitVec 8192) 32
  /-- Tiles with an uncorrectable error (R296). -/
  badTiles : List Nat
  lastTaken : BitVec 1
  nextCmd : Nat
  /-- The slots whose requests the core's port of the special-function unit holds, oldest first (R264). -/
  sfuPort : List SlotNo
  copies : List CopyCmd
  cpstat : CopyStat
  colls : List CollCmd
  terms : Vector Term 16
  /-- Counters that terms which have fired increment in the core's next cycle (R315). -/
  outs : List (BitVec 5)
  wl : WorkList
  fduty : BitVec 5
  hold : Word
  panelId : BitVec 6
  rows : List (Nat × PartRow)
  handovers : List Handover
  mirrors : List Mirror
  /-- The core has stopped after a loss (R376), or its clock has stopped (R407). -/
  isolated : Bool
  asleep : Bool
  deriving DecidableEq, Repr

/-! ### Work -/

/-- How far a job has come (R39, R46, R48, R405). -/
inductive Phase where
  /-- Since when its dependences are resolved, if they are (R39, R46). -/
  | waiting (since : Option Nat)
  /-- Claimed and written on its cores; no SLOTGO has been sent (R39, R40). -/
  | loading
  | running
  | ending (status : Nat) (cause : BitVec 8)
  | done
  deriving DecidableEq, Repr

/-- A job (R33, R440): its launch record, the queue and sequence number it came by, its region and what runs of it. -/
structure Job where
  queue : Nat
  seq : Nat
  part : BitVec 6
  record : BitVec 512
  context : BitVec 16
  prio : BitVec 3
  super : Bool
  recov : Bool
  recording : Bool
  replay : Bool
  slotMask : BitVec 16
  row0 : Nat
  col0 : Nat
  rows : Nat
  cols : Nat
  phase : Phase
  /-- Target region that the dispatcher reserves for a job that has waited (R46). -/
  target : Option (Nat × Nat)
  /-- Slots of its target region that are reserved for it: core and slot (R46). -/
  reserved : List (Nat × Nat) := []
  /-- Held by heat: the chiplets that hold it (R411). -/
  heat : List Nat
  /-- To park at its next gp0 use, parked, and the deadline of its parking (R405, R406). -/
  shed : Bool
  parked : Bool
  shedAt : Nat
  /-- Panel time of its launch (R43). -/
  start : Nat
  /-- Round recorded in the launch engine's round table (R371). -/
  round : Nat
  /-- Cores under recovery for the job; no commit completes while there are any (R376). -/
  recovering : List Nat
  logBytes : Nat
  /-- Trace recording or replay: the area, the next index of each core, and whether recording stopped (R387, R388). -/
  traceBase : Dword
  traceLen : Nat
  traceAt : List (Nat × Nat)
  truncated : Bool
  deriving DecidableEq, Repr

/-- A tree of a group: the parent of each member but the root (R208, R211). -/
structure Tree where
  root : Nat
  weight : Nat
  depth : Nat
  parent : List (Nat × Nat)
  deriving DecidableEq, Repr

/-- A group-table entry in use (R208). -/
structure Group where
  part : BitVec 6
  index : BitVec 8
  job : Nat
  seq : Nat
  members : List Nat
  trees : List Tree
  deriving DecidableEq, Repr

/-- A use of a group's barrier: the members whose arrival has been gathered so far, and what the arrivals were (R211,
R370); `phase` counts the phases of a recoverable commit (R371). -/
structure GroupUse where
  job : Nat
  group : BitVec 8
  use : Nat
  gathered : List Nat
  rbar : Bool
  phase : Nat
  acks : List Nat
  deriving DecidableEq, Repr

/-- A use of a collective: partial results by unit and node, the members at which it has completed, and whether it has
been abandoned (R319, R321, R322). -/
structure CollUse where
  key : UseKey
  parts : List (Nat × Nat × VReg)
  completed : List Nat
  dead : Bool
  deriving DecidableEq, Repr

/-! ### The layout -/

/-- An entry of the capacity record (R418). -/
structure CapEntry where
  avail : Bool
  xrow : Bool
  benchOk : Bool
  banks : Nat
  slots : Nat
  mirror : Nat
  deriving DecidableEq, Repr

/-- The layout (R422): grade, partitions, capacity-record entries that differ from a full core, remap entries
(R420) and detour entries (R421) that differ from the identity and from none, and the ports' routes and masks (R457). -/
structure Layout where
  /-- A bank that nothing has written: its entries read zero (R420, R425). -/
  blank : Bool
  grade : BitVec 8
  seq : Nat
  parts : List (Nat × PartEntry)
  caps : List (Nat × CapEntry)
  remap : List (Nat × BitVec 16)
  /-- 64 MiB steps of each LLC slice's pinned region, at most 4; 4 where none is listed (R138; log 10). -/
  pinned : List (Nat × Nat)
  detours : List (Nat × Nat × Word)
  names : List (Nat × Nat)
  routes : List (Nat × BitVec 48)
  allow : List (Nat × BitVec 64)
  /-- The optical ports in use (R457). -/
  ports : BitVec 48
  deriving DecidableEq, Repr

/-- The columns c of a chiplet's logical grid, which the grade fixes: 10 on grade C, else 11 (R1, R12). -/
def Layout.cols (l : Layout) : Nat := if l.grade = 0x43 then 10 else 11

/-- The commit register (R423) and the bank flip under way. -/
structure Commit where
  seq : Word
  busy : Bool
  active : BitVec 1
  flipped : Bool
  /-- Panel time of the mesh tick at which the routers switch banks (R423). -/
  tickAt : Nat
  deriving DecidableEq, Repr

/-! ### The host side -/

/-- A work queue: its ownership entry (R436) and its registers (R437, R438). -/
structure WorkQueue where
  en : Bool
  super : Bool
  serial : Bool
  part : BitVec 6
  wqbase : Dword
  wcbase : Dword
  enabled : Bool
  sizelog : BitVec 4
  vector : BitVec 11
  err : BitVec 8
  submit : Dword
  consumed : Dword
  completed : Dword
  cpos : Dword
  chead : Dword
  /-- Sequence numbers completed beyond COMPLETED. -/
  doneSeqs : List Nat
  deriving DecidableEq, Repr

/-- States of a TDISP interface (R433). -/
inductive Tdisp where
  | unlocked | locked | run | error
  deriving DecidableEq, Repr

/-- A virtual function and its partition's host side (R432, R433, R445, R455): fault queue, spill store, event records
that wait, domain set, domain rights. -/
structure Vf where
  tdisp : Tdisp
  fqbase : Dword
  fqcfg : Dword
  fqpos : Dword
  fqhead : Dword
  /-- Notices that wait in the fault queue, each with the core it is for (R360). -/
  spill : List (Nat × Dword)
  spillLost : Bool
  waiting : List (BitVec 256)
  snap : Dword
  /-- The domain set (R449), and the rights of domains (R141). -/
  domainSet : List Nat
  domains : List (Nat × BitVec 6)
  key : Nat
  /-- Save areas of contexts: context and core (`areaKey`), and the area (R360). -/
  areas : List (Nat × Dword)
  deriving DecidableEq, Repr

/-! ### Power and recovery -/

/-- A sense point (R391), with the panel time since which RISE holds. -/
structure Sense where
  mintime : Dword
  minv : BitVec 16
  curv : BitVec 16
  reff : Word
  rbase : Word
  stepx : BitVec 16
  degr : Bool
  riseSince : Option Nat
  deriving DecidableEq, Repr

/-- A supply zone (R390): phases failed, tripped, and its supply back. -/
structure Zone where
  failed : Nat
  tripped : Bool
  deriving DecidableEq, Repr

/-- A compute chiplet's thermal state (R411). -/
structure Chip where
  clamped : Bool
  off : Bool
  /-- The temperature read last, in °C, and the panel times since which it has been at TCRIT or above, and below TCRIT − 5 (R411). -/
  temp : Option Int
  hotSince : Option Nat
  coolSince : Option Nat
  cache : List ChipLine
  deriving DecidableEq, Repr

/-- The power block (R399) and the curve (R396). -/
structure Power where
  pcap : Nat
  fallback : Nat
  curvecap : Nat
  pfixed : Nat
  curveen : Bool
  nomfreq : Word
  vlo : BitVec 16
  vhi : BitVec 16
  vfrac : BitVec 17
  shedlvl : Nat
  sheddl : BitVec 16
  zcap : BitVec 16
  tcrit : BitVec 8
  tshut : BitVec 8
  trestart : BitVec 8
  fnote : BitVec 9
  lastframe : BitVec 128
  lastseq : BitVec 16
  lost : Bool
  curveerr : Bool
  gaps : BitVec 16
  dnote : BitVec 9
  curve : Vector Dword 16
  accepted : Bool
  lastAt : Nat
  /-- What each root's telemetry port last sent back, and the panel time of its next echo (R393). -/
  echo : Vector (BitVec 16) 2
  echoAt : Vector Nat 2
  nextTick : Nat
  deriving DecidableEq, Repr

/-- A recovery (R376): what was lost, when, which cores and jobs it concerns, how many re-powers were tried, whether the lost
part has its power back, whether its cores are tested and restored, and the lost slots that stood in a bench (R130). -/
structure Recovery where
  loss : Loss
  t0 : Nat
  cores : List Nat
  jobs : List Nat
  attempts : Nat
  up : Bool
  tested : Bool
  restored : Bool
  benched : List (Nat × SlotNo) := []
  /-- The ranks lost: core and job (R380). -/
  ranks : List (Nat × Nat) := []
  deriving DecidableEq, Repr

/-- A copy of a rank in the sideboard (R364): slots, core state and mirrored words with full/empty bit and scope, tagged
with its round. -/
structure Copy where
  job : Nat
  core : Nat
  staging : Bool
  round : Nat
  slots : List (SlotNo × Slot)
  counters : List (Nat × Word)
  bars : List (Nat × Option BarUse)
  queues : List (Nat × QueueReg)
  classes : List (Nat × ClassEntry)
  channels : List (Nat × Channel)
  row : Option PartRow
  ranges : List (Nat × Nat)
  cells : List Host.Cell
  full : List (Nat × Bool × BitVec 2)
  deriving DecidableEq, Repr

/-- What a save keeps of a context beside the bytes whose place in the save area the spec gives: its slots and the core's
state as they stood (R355; log 14). -/
structure SavedContext where
  part : BitVec 6
  context : BitVec 16
  core : Nat
  area : Dword
  slots : List (SlotNo × Slot)
  /-- Slots whose barrier wait has ended meanwhile, and whether its round counts (R212). -/
  ended : List (SlotNo × Bool)
  state : Core
  deriving DecidableEq, Repr

/-- A record of the retirement log (R429). -/
structure RetireRec where
  commit : BitVec 8
  crc : BitVec 32
  time : Dword
  seq : BitVec 32
  cause : BitVec 8
  kind : BitVec 8
  index : BitVec 8
  die : BitVec 16
  prow : BitVec 4
  pcol : BitVec 4
  deriving DecidableEq, Repr

/-- A record of the flash journal (R424). -/
structure JournalRec where
  prepared : Bool
  seq : Nat
  layout : Option Layout
  /-- The layout's CRC-32 (R424). -/
  crc : BitVec 32
  committed : Bool
  deriving DecidableEq, Repr

/-- A remap asked of the security core (R382, R424, R427, R479): the chiplet, the management core that asked (none for a
recovery, or after its core's reset), where its mailbox lies, its counter, the reason of a refusal or 0, and how far it has
come: waiting for its commit, being committed, or to be answered with the committed layout's number. -/
structure LayoutReq where
  chip : Nat
  recovery : Bool
  source : Option Nat
  mail : Nat
  counter : BitVec 5
  reason : Nat
  stage : Nat
  lseq : Nat
  /-- The table that the security core has accepted from a mailbox (R479): row and column, physical row and column. -/
  table : Option (List (Nat × Nat × Nat × Nat)) := none
  deriving DecidableEq, Repr

/-- An optical port (R456, R457). -/
structure Port where
  up : Bool
  expected : BitVec 16
  nextSeq : BitVec 16
  acked : BitVec 16
  window : List (BitVec 2048)
  /-- Messages in the window, each with the number of its frames up to the message's last one (R221). -/
  riders : List (Nat × Msg)
  replays : Nat
  nakSent : Bool
  /-- NAK frames sent (R456). -/
  naks : List (BitVec 2048)
  discards : Nat
  /-- Flits of a message whose last frame has not come (R456). -/
  rx : List Byte
  /-- Trained, but pairs move to it only once the old ports' frames are acknowledged (R457). -/
  rising : Bool
  /-- Panel time of the last progress of the replay window (R456). -/
  progressAt : Nat
  deriving DecidableEq, Repr

/-- The kinds of dies (R11). -/
inductive DieKind where
  | compute | edge | link | root
  deriving DecidableEq, Repr

/-- A die's measurement report (R452): what the panel knows of it. The places of its fields in 512 bytes are not given, and the
signature is not modelled (log 16). -/
structure Report where
  die : Nat
  kind : DieKind
  /-- Digests of the firmware images the die runs, its fuse state, the digest of the retirement log, the layout's SEQ. -/
  firmware : List (BitVec 256)
  fuses : List (Nat × Nat)
  retired : BitVec 256
  seq : Word
  nonce : BitVec 256
  deriving DecidableEq, Repr

/-- An answer to GET_MEASUREMENTS from a root: the reports of one measurement block, or ERROR InvalidRequest (R453). -/
inductive Answer where
  | block (root idx : Nat) (reports : List Report)
  | invalidRequest (root idx : Nat)
  deriving DecidableEq, Repr

/-- An entry of the management error log: its kind and its values. -/
structure LogEntry where
  cause : BitVec 8
  core : Nat
  slot : Nat
  value : Dword
  deriving DecidableEq, Repr

/-- A step that waits to happen, and the path it must keep order on: plane, source and destination (R176). -/
structure Due where
  path : Option (Bool × Nat × Nat)
  ev : Event
  deriving DecidableEq, Repr

/-- The panel. -/
structure State where
  /-- Memory: bytes by the model's physical address (see `Machine/Ops`), strictly rising, no listed zero byte. -/
  mem : List Host.Cell
  /-- Full words of local stores by address of the word, with their publication scope (R153). -/
  full : List (Nat × BitVec 2)
  /-- Publication scope of empty words, where it is not zero. -/
  scopes : List (Nat × BitVec 2)
  /-- Uncorrectable words and granules, and words with a corrected single-bit error, by address (R158). -/
  bad : List Nat
  soft : List Nat
  /-- The management counter of single-bit errors corrected on read (R158). -/
  corrected : Nat
  cores : List (Nat × Core)
  chips : List (Nat × Chip)
  xlate : List (Nat × List XlateEntry)
  /-- Panel time (R23). -/
  ptime : Nat
  /-- Model: number of the next free value. -/
  tick : Nat
  /-- Model: the core and slot whose instruction executes, and what the step that is no instruction acts on. -/
  curCore : Nat
  curSlot : SlotNo
  arg : Arg
  /-- Model: the instruction under way took a trap or an upcall (R129, R341). -/
  trapped : Bool
  due : List Due
  /-- Model: what the outside world does, in order. -/
  inputs : List Event
  layout : Layout
  shadow : Layout
  commit : Commit
  jobs : List (Nat × Job)
  nextJob : Nat
  groups : List Group
  uses : List GroupUse
  collUses : List CollUse
  queues : List (Nat × WorkQueue)
  lastQueue : Vector Nat 2
  /-- The queues whose next record each launch engine is reading, at most four (R439). -/
  reading : Vector (List Nat) 2
  vfs : List (Nat × Vf)
  partlink : Vector (BitVec 64) 2
  frames : List (Nat × Dword)
  /-- Stack and frame of the level-4 table, which the translation units hold (R136): none until trusted firmware writes it
  (log 20). -/
  root : Option (Nat × Nat)
  /-- MSI-X vectors raised: function and vector. -/
  msix : List (Nat × Nat)
  power : Power
  senses : List (Nat × Sense)
  zones : List (Nat × Zone)
  /-- Losses whose recovery has not begun yet, with the panel time t0 of each (R376). -/
  losses : List (Loss × Nat)
  recoveries : List Recovery
  copies : List Copy
  contexts : List SavedContext
  /-- Dead cores known at manufacture: chiplet, physical row, physical column (R479). -/
  fuses : List (Nat × Nat × Nat)
  /-- The retirement log in each flash half (R429). -/
  retired : List RetireRec
  otherHalf : List RetireRec
  flashSeq : BitVec 32
  journal : List JournalRec
  bootHalted : Bool
  requests : List LayoutReq
  /-- Answers to GET_MEASUREMENTS (R453). -/
  reports : List Answer
  dieCounters : List (Nat × Nat)
  rollback : List (Nat × Nat)
  watchdogs : Vector Nat 8
  firmware : List (Nat × FirmwareLoad)
  /-- The 2 MiB groups of the firmware region (R427), and the root whose security core is the active one (R426). -/
  fwGroups : List Nat
  security : BitVec 1
  portStates : List (Nat × Port)
  errlog : List LogEntry
  /-- Control-space registers and firmware words without a field of their own, by address. -/
  control : List (Nat × Dword)
  deriving DecidableEq, Repr

/-! ### Reset

Registers of a slot have no reset value before the slot's first start (R41 gives them at start): the model holds zero
there (DESIGN CHOICE, log 2). -/

/-- A slot that has not started. -/
def Slot.reset : Slot where
  g := Vector.replicate 32 0
  v := Vector.replicate 16 0
  k := Vector.replicate 8 0
  pc := 0
  lastPc := none
  loops := { lcnt0 := 0, lbeg0 := 0, lend0 := 0, lcnt1 := 0, lbeg1 := 0, lend1 := 0 }
  mons := Vector.replicate 4 { armed := false, triggered := false, line := 0 }
  st := { partition := 0, slotNo := 0, bend := 0, brole := 0, ovf := false, upc := false, exl := false, tie := false,
          pmode := .user, mode := .user }
  fp := { rmode := 0, fflags := 0, seed := 0, draw := 0 }
  cnt := { round := 0, instret := 0, cycleOff := 0, tcmp := BitVec.allOnes 64 }
  vec := { uepc := 0, ucause := 0, uaddr := 0, upvec := 0, uscr := 0, epc := 0, ecause := 0, eaddr := 0, tvec := 0,
           escr := 0 }
  run := .off
  ilen := 4
  readyAt := 0
  rejoinAt := none
  yields := []
  yieldEnd := 0
  taking := none
  pending := []
  deferred := none
  phint := none
  outstanding := 0
  job := none
  bench := none
  parked := false
  capture := false

/-- A class entry after a scrub (R223). -/
def ClassEntry.reset : ClassEntry where
  base := 0
  head := 0
  tail := 0
  source := 0
  expseq := 0
  dups := 0
  drops := 0
  queue := 0
  counter := 0
  cnten := false
  flow := false
  fe := false
  wrap := false
  sizelog := 0
  mode := 0
  freed := 0
  probed := false
  bad := false

/-- A channel record not in use (R234). -/
def Channel.reset : Channel where
  part := 0
  s := 0
  c := 0
  k := 0
  dest := 0
  cls := 0
  seq := 0
  probe := 0
  stall := false
  broken := false
  valid := false
  waiters := []
  probes := 0
  lastReturn := 0
  catching := none
  resync := false
  resend := []
  answer := none

/-- An unbound queue register (R231). -/
def QueueReg.reset : QueueReg where
  dest := 0
  cls := 0
  mode := 0
  entries := []
  readers := []
  writers := []

/-- An idle matrix queue; every map entry is disabled (R291, R293). -/
def MatQueue.reset : MatQueue where
  entries := []
  fcause := 0
  kstep := 0
  row := 0
  opnd := 0
  doneCount := 0
  nc := false
  sat := false
  nv := false
  ovf := false
  uf := false
  nx := false
  state := 0
  map := Vector.replicate 16 none
  mksteps := 0
  mstallc := 0

/-- An invalid event term (R313). -/
def Term.reset : Term where
  valid := false
  oneshot := false
  outen := false
  outcnt := 0
  incr := 0
  conds := Vector.replicate 4 { en := false, cnt := 0, thr := 0 }

/-- A work list after reset (R323). -/
def WorkList.reset : WorkList where
  base := 0
  sizelog := 0
  thresh := 8
  interval := 3
  bal := false
  en := false
  job := none
  items := []
  bottom := 0
  reported := []
  nextAt := 0
  inFlight := 0

/-- A partition's row of a core after reset (R332, R350). -/
def PartRow.reset : PartRow where
  ovfslot := 0
  ovfvec := 0
  fnHead := 0
  fnCounter := 0
  fnSizelog := 0
  fnEn := false
  fnBase := 0

/-- A core after reset: FDUTY 16 (R31), HOLD 4,096 (R332), the highest slot taken to have issued last (R26). Tiles zero
(DESIGN CHOICE, log 2), panel id zero (DESIGN CHOICE, log 10). The array takes from Q0 first: R285 gives no start (DESIGN
CHOICE, log 54). -/
def Core.reset : Core where
  slots := Vector.replicate 16 Slot.reset
  t := 0
  p := 0
  o := 0
  lastIssuer := 15
  lastOf := []
  near := []
  buffer := []
  plb := []
  names := []
  waits := []
  c := Vector.replicate 32 0
  bars := Vector.replicate 32 none
  ports := []
  classes := Vector.replicate 32 ClassEntry.reset
  held := []
  refusing := []
  sent := []
  retained := []
  channels := Vector.replicate 64 Channel.reset
  undeposited := []
  q := Vector.replicate 8 QueueReg.reset
  mq := Vector.replicate 2 MatQueue.reset
  tiles := Vector.replicate 32 0
  badTiles := []
  lastTaken := 1
  nextCmd := 0
  sfuPort := []
  copies := []
  cpstat := { fcause := 0, prog := 0, doneCount := 0, slot := 0, fault := false }
  colls := []
  terms := Vector.replicate 16 Term.reset
  outs := []
  wl := WorkList.reset
  fduty := 16
  hold := 4096
  panelId := 0
  rows := []
  handovers := []
  mirrors := []
  isolated := false
  asleep := false

/-- A chiplet after reset. -/
def Chip.reset : Chip where
  clamped := false
  off := false
  cache := []
  temp := none
  hotSince := none
  coolSince := none

/-- A zone after reset. -/
def Zone.reset : Zone where
  failed := 0
  tripped := false

/-- A sense point after reset (R391). -/
def Sense.reset : Sense where
  mintime := 0
  minv := 0xFFFF
  curv := 0
  reff := 0
  rbase := 0
  stepx := 0
  degr := false
  riseSince := none

/-- A work queue after reset (R436 to R438). -/
def WorkQueue.reset : WorkQueue where
  en := false
  super := false
  serial := false
  part := 0
  wqbase := 0
  wcbase := 0
  enabled := false
  sizelog := 0
  vector := 0
  err := 0
  submit := 0
  consumed := 0
  completed := 0
  cpos := 0
  chead := 0
  doneSeqs := []

/-- A virtual function after reset: CONFIG_UNLOCKED (R433, R445). -/
def Vf.reset : Vf where
  tdisp := .unlocked
  fqbase := 0
  fqcfg := 0
  fqpos := 0
  fqhead := 0
  spill := []
  spillLost := false
  waiting := []
  snap := 0
  domainSet := []
  domains := []
  key := 0
  areas := []

/-- The power block after reset (R399). PFIXED has no reset value: zero (DESIGN CHOICE, log 11). -/
def Power.reset : Power where
  pcap := 36000
  fallback := 18000
  curvecap := 36000
  pfixed := 0
  curveen := false
  nomfreq := 50000
  vlo := 44000
  vhi := 46000
  vfrac := 49152
  shedlvl := 8
  sheddl := 1000
  zcap := 792
  tcrit := 105
  tshut := 120
  trestart := 85
  fnote := 0
  lastframe := 0
  lastseq := 0
  lost := false
  curveerr := false
  gaps := 0
  dnote := 0
  curve := Vector.replicate 16 0
  accepted := false
  lastAt := 0
  echo := Vector.replicate 2 0
  echoAt := Vector.replicate 2 50000
  nextTick := 10000

/-- An optical port after reset. -/
def Port.reset : Port where
  up := false
  expected := 0
  nextSeq := 0
  acked := 0
  window := []
  riders := []
  replays := 0
  nakSent := false
  naks := []
  discards := 0
  rx := []
  rising := false
  progressAt := 0

/-- The layout at reset: nothing has been written into the routers' banks (R420, R425); the grade is A (DESIGN CHOICE, log 10). -/
def Layout.reset : Layout where
  blank := true
  grade := 0x41
  seq := 0
  parts := []
  caps := []
  remap := []
  pinned := []
  detours := []
  names := []
  routes := []
  allow := []
  ports := 0

/-- The panel right after reset. -/
def State.reset : State where
  mem := []
  full := []
  scopes := []
  bad := []
  soft := []
  corrected := 0
  cores := []
  chips := []
  xlate := []
  ptime := 0
  tick := 0
  curCore := 0
  curSlot := 0
  arg := .none
  trapped := false
  due := []
  inputs := []
  layout := Layout.reset
  shadow := Layout.reset
  commit := { seq := 0, busy := false, active := 0, flipped := false, tickAt := 0 }
  jobs := []
  nextJob := 0
  groups := []
  uses := []
  collUses := []
  queues := []
  lastQueue := Vector.replicate 2 0
  reading := Vector.replicate 2 []
  vfs := []
  partlink := Vector.replicate 2 0
  frames := []
  root := none
  msix := []
  power := Power.reset
  senses := []
  zones := []
  losses := []
  recoveries := []
  copies := []
  contexts := []
  fuses := []
  retired := []
  otherHalf := []
  flashSeq := 0
  journal := [{ prepared := false, seq := 0, layout := some Layout.reset, crc := Config.layoutCrc 0, committed := true }]
  bootHalted := false
  requests := []
  reports := []
  dieCounters := []
  rollback := []
  watchdogs := Vector.replicate 8 0
  firmware := []
  fwGroups := []
  security := 0
  portStates := []
  errlog := []
  control := []

end Sys2Proof.Machine
end

