-- ==== Sys2Proof/Machine/Memory.lean ====
section
/-!
DEFINITION. Memory: one list of bytes over every home of data (R18), addressed by the model's physical address, with the
full/empty fields of local-store words (R153) and the marks of uncorrectable data (R158).

The address space of the list: HBM stacks from 0, 2^36 bytes apart; the pinned regions of the LLC slices from 2^41; local
stores from 2^48, 2 MiB a core; instruction stores from 2^49, 256 KiB a core; host memory from 2^64.
-/
namespace Sys2Proof.Machine

/-- A byte of memory: zero where nothing is listed (log 1). -/
def Memory.get (m : List Host.Cell) (a : Nat) : Byte := (lookupNat a m).getD 0

/-- Memory with one byte written: writing zero removes the entry. -/
def Memory.set (m : List Host.Cell) (a : Nat) (b : Byte) : List Host.Cell :=
  if b = 0 then eraseNat a m else insertNat a b m

/-- The keys of a list of pairs rise strictly above a bound. -/
def risingFrom {α : Type} : Option Nat → List (Nat × α) → Bool
  | _, [] => true
  | lo, (k, _) :: rest =>
    (match lo with
      | none => true
      | some l => decide (l < k)) && risingFrom (some k) rest

/-- The canonical form of memory: addresses strictly rising and no zero byte listed. -/
def Memory.wf (m : List Host.Cell) : Bool := risingFrom none m && m.all (fun c => c.2 != 0)

/-- `n` bytes from address `a`, lowest first. -/
def Memory.bytes (m : List Host.Cell) (a : Nat) : Nat → List Byte
  | 0 => []
  | n + 1 => Memory.get m a :: Memory.bytes m (a + 1) n

/-- Memory with bytes written from address `a` upward. -/
def Memory.setBytes (m : List Host.Cell) (a : Nat) : List Byte → List Host.Cell
  | [] => m
  | b :: bs => Memory.setBytes (Memory.set m a b) (a + 1) bs

/-- The little-endian number in `n` bytes from address `a` (R3). -/
def Memory.read (m : List Host.Cell) (a n : Nat) : Nat := ofBytes (Memory.bytes m a n)

/-- Base of the pinned regions of the LLC. -/
def llcBase : Nat := 2 ^ 41
/-- Base of the local stores. -/
def localBase : Nat := 2 ^ 48
/-- Base of the instruction stores. -/
def istoreBase : Nat := 2 ^ 49
/-- Base of host memory. -/
def hostBase : Nat := 2 ^ 64

/-- Physical address of a byte of HBM (R138). -/
def hbmAddr (stack frame off : Nat) : Nat := stack * 2 ^ 36 + frame * 2 ^ 12 + off

/-- Physical address of a byte of an LLC slice's pinned region (R138). -/
def llcAddr (slice frame off : Nat) : Nat := llcBase + slice * 2 ^ 29 + frame * 2 ^ 12 + off

/-- Physical address of byte `off` of a core's instruction store (R35). -/
def istoreAddr (n off : Nat) : Nat := istoreBase + n * 2 ^ 18 + off

/-- Physical address of offset `o` of a share whose banks are `banks`, on core `n`: line `o >> 6` lies in bank
`(o >> 6) mod B` at line `(o >> 6) div B` (R133). -/
def localAddr (n : Nat) (banks : List Nat) (o : Nat) : Nat :=
  localBase + n * 2 ^ 21 + (banks.getD (o / 64 % banks.length) 0) * 2 ^ 17 + o / 64 / banks.length * 64 + o % 64

/-- Whether a physical address lies in a local store. -/
def isLocal (a : Nat) : Bool := decide (localBase ≤ a) && decide (a < istoreBase)

/-- The core whose local store holds a physical address. -/
def localCore (a : Nat) : Nat := (a - localBase) / 2 ^ 21

/-- The start of the check-code unit that holds an address: an 8-byte word of local store, a 32-byte granule elsewhere
(R158). -/
def granuleOf (a : Nat) : Nat := if isLocal a then a / 8 * 8 else a / 32 * 32

/-- Bytes of a check-code unit (R158). -/
def granuleSize (a : Nat) : Nat := if isLocal a then 8 else 32

/-- The lines of `n` bytes from `a`. -/
def linesOf (a n : Nat) : List Nat :=
  if n = 0 then [] else (List.range ((a + n - 1) / 64 - a / 64 + 1)).map (fun i => (a / 64 + i) * 64)

/-- The check-code units that `n` bytes from `a` touch. -/
def granulesOf (a n : Nat) : List Nat :=
  if n = 0 then []
  else
    let z := granuleSize a
    (List.range ((a + n - 1) / z - a / z + 1)).map (fun i => (a / z + i) * z)

/-- The first byte among `n` from `a` that lies in an uncorrectable unit (R159). -/
def State.badIn (s : State) (a : Nat) : Nat → Option Nat
  | 0 => none
  | n + 1 => if s.bad.contains (granuleOf a) then some a else s.badIn (a + 1) n

/-- The single-bit errors among `n` bytes from `a`, corrected as they are read and counted (R158). -/
def State.countSoft (s : State) (a n : Nat) : State :=
  if s.soft = [] then s else { s with corrected := s.corrected + ((granulesOf a n).filter s.soft.contains).length }

/-- Read `n` bytes as a little-endian number. -/
def State.peek (s : State) (a n : Nat) : Nat := Memory.read s.mem a n

/-- Whether a word of local store is full (R153). -/
def State.isFull (s : State) (w : Nat) : Bool := (lookupNat w s.full).isSome

/-- The publication scope of a word (R153). -/
def State.scopeAt (s : State) (w : Nat) : BitVec 2 :=
  match lookupNat w s.full with
  | some sc => sc
  | none => (lookupNat w s.scopes).getD 0

/-- A word set full at a scope (R153). -/
def State.setFull (s : State) (w : Nat) (sc : BitVec 2) : State :=
  { s with full := insertNat w sc s.full, scopes := eraseNat w s.scopes }

/-- A word emptied with its scope kept, as LDF.C empties it (R155). -/
def State.setEmpty (s : State) (w : Nat) : State :=
  let sc := s.scopeAt w
  { s with full := eraseNat w s.full, scopes := if sc = 0 then eraseNat w s.scopes else insertNat w sc s.scopes }

/-- A word emptied with its scope zero, as FECLR and a scrub leave it (R153, R155). -/
def State.clearWord (s : State) (w : Nat) : State :=
  { s with full := eraseNat w s.full, scopes := eraseNat w s.scopes }

/-- A word's full/empty bit and scope, set as a restore sets them (R153, R358, R377). -/
def State.putWord (s : State) (w : Nat) (isFull : Bool) (sc : BitVec 2) : State :=
  if isFull then s.setFull w sc
  else if sc = 0 then s.clearWord w
  else { s.clearWord w with scopes := insertNat w sc (s.clearWord w).scopes }

/-- Store bytes inside one line or less, as the home performs a store: a unit covered whole gets fresh check bits, which ends
a single-bit error in it too, and a store that covers part of an uncorrectable unit is discarded there (R158, R159). Answers the state and whether something was
discarded. -/
def State.store (s : State) (a : Nat) (bs : List Byte) : State × Bool :=
  let n := bs.length
  let z := granuleSize a
  let covered := fun (u : Nat) => decide (a ≤ u) && decide (u + z ≤ a + n)
  let units := (granulesOf a n).filter s.bad.contains
  let whole := units.filter covered
  let soft := if s.soft = [] then [] else s.soft.filter (fun u => !((granulesOf a n).filter covered).contains u)
  let torn := units.filter (fun u => !covered u)
  if torn = [] then
    ({ s with mem := Memory.setBytes s.mem a bs, bad := s.bad.filter (fun u => !whole.contains u), soft := soft }, false)
  else
    let put := fun (m : List Host.Cell) (i : Nat) =>
      if torn.contains (granuleOf (a + i)) then m else Memory.set m (a + i) (bs.getD i 0)
    ({ s with mem := (List.range n).foldl put s.mem, bad := s.bad.filter (fun u => !whole.contains u), soft := soft }, true)

end Sys2Proof.Machine
end

