-- ==== Sys2Proof/Machine/Ops.lean ====
section
/-!
DEFINITION. The shared operations: access to cores, slots and registers, the layout's answers about a core and a
partition, taking an exception and returning from one (R335 to R342), the completion of an instruction with the
hardware-loop end action (R118), and steps that wait to happen.
-/
namespace Sys2Proof.Machine

/-! ### Cores, slots and registers -/

/-- Core `n`. -/
def State.core (s : State) (n : Nat) : Core := (lookupNat n s.cores).getD Core.reset

/-- Core `n` replaced. -/
def State.setCore (s : State) (n : Nat) (c : Core) : State := { s with cores := insertNat n c s.cores }

/-- Core `n` changed. -/
def State.modCore (s : State) (n : Nat) (f : Core → Core) : State := s.setCore n (f (s.core n))

/-- Slot `i` of a core. -/
def Core.slot (c : Core) (i : SlotNo) : Slot := c.slots.get i

/-- Slot `i` of a core replaced. -/
def Core.setSlot (c : Core) (i : SlotNo) (sl : Slot) : Core := { c with slots := c.slots.set i sl }

/-- Slot `i` of core `n`. -/
def State.slot (s : State) (n : Nat) (i : SlotNo) : Slot := (s.core n).slot i

/-- Slot `i` of core `n` replaced. -/
def State.setSlot (s : State) (n : Nat) (i : SlotNo) (sl : Slot) : State := s.setCore n ((s.core n).setSlot i sl)

/-- Slot `i` of core `n` changed. -/
def State.modSlot (s : State) (n : Nat) (i : SlotNo) (f : Slot → Slot) : State := s.setSlot n i (f (s.slot n i))

/-- The slot whose instruction executes. -/
def State.me (s : State) : Slot := s.slot s.curCore s.curSlot

/-- The core whose slot executes. -/
def State.here (s : State) : Core := s.core s.curCore

/-- The executing slot changed. -/
def State.modMe (s : State) (f : Slot → Slot) : State := s.modSlot s.curCore s.curSlot f

/-- The executing slot's core changed. -/
def State.modHere (s : State) (f : Core → Core) : State := s.modCore s.curCore f

/-- A general register of a slot; g0 reads zero (R17, R55). -/
def Slot.getG (sl : Slot) (r : BitVec 5) : Dword := if r = 0 then 0 else sl.g.get r.toFin

/-- A general register of a slot written; a write to g0 is discarded (R17, R55). -/
def Slot.setG (sl : Slot) (r : BitVec 5) (x : Dword) : Slot :=
  if r = 0 then sl else { sl with g := sl.g.set r.toFin x }

/-- A vector register of a slot. -/
def Slot.getV (sl : Slot) (r : BitVec 4) : VReg := sl.v.get r.toFin

/-- A vector register of a slot written. -/
def Slot.setV (sl : Slot) (r : BitVec 4) (x : VReg) : Slot := { sl with v := sl.v.set r.toFin x }

/-- A mask register of a slot; k0 reads all ones (R17). -/
def Slot.getK (sl : Slot) (r : BitVec 3) : Dword := if r = 0 then BitVec.allOnes 64 else sl.k.get r.toFin

/-- A mask register of a slot written; a write to k0 is discarded (R17). -/
def Slot.setK (sl : Slot) (r : BitVec 3) (x : Dword) : Slot :=
  if r = 0 then sl else { sl with k := sl.k.set r.toFin x }

/-- A general register of the executing slot. -/
def State.getG (s : State) (r : BitVec 5) : Dword := s.me.getG r

/-- A general register of the executing slot written. -/
def State.setG (s : State) (r : BitVec 5) (x : Dword) : State := s.modMe (fun sl => sl.setG r x)

/-- A vector register of the executing slot. -/
def State.getV (s : State) (r : BitVec 4) : VReg := s.me.getV r

/-- A vector register of the executing slot written. -/
def State.setV (s : State) (r : BitVec 4) (x : VReg) : State := s.modMe (fun sl => sl.setV r x)

/-- A mask register of the executing slot. -/
def State.getK (s : State) (r : BitVec 3) : Dword := s.me.getK r

/-- A mask register of the executing slot written. -/
def State.setK (s : State) (r : BitVec 3) (x : Dword) : State := s.modMe (fun sl => sl.setK r x)

/-- Sticky flags raised in the executing slot (R84). -/
def State.orFlags (s : State) (f : BitVec 5) : State :=
  s.modMe (fun sl => { sl with fp := { sl.fp with fflags := sl.fp.fflags ||| f } })

/-! ### The layout -/

/-- What kind of processor a logical core number names (R12, R160, R503). -/
inductive CoreKind where
  | grid
  | edge (e : Nat) (i : Nat)
  | launch (k : Nat)
  | management (idx : Nat)
  | security (k : Nat)
  | none
  deriving DecidableEq, Repr

/-- Logical columns of the grid: 20 chiplets of c columns (R12). -/
def State.gridCols (s : State) : Nat := 20 * s.layout.cols

/-- The kind of processor number `n` names. -/
def State.kindOf (s : State) (n : Nat) : CoreKind :=
  if n < 240 * s.gridCols then .grid
  else if 0xF000 ≤ n ∧ n ≤ 0xF1FF then .edge ((n - 0xF000) / 16) ((n - 0xF000) % 16)
  else if 0xF200 ≤ n ∧ n ≤ 0xF201 then .launch (n - 0xF200)
  else if 0xF300 ≤ n ∧ n ≤ 0xF307 then .management (n - 0xF300)
  else if 0xF310 ≤ n ∧ n ≤ 0xF311 then .security (n - 0xF310)
  else .none

/-- Logical row of a grid core (R12). -/
def State.rowOf (s : State) (n : Nat) : Nat := n / s.gridCols
/-- Logical column of a grid core (R12). -/
def State.colOf (s : State) (n : Nat) : Nat := n % s.gridCols
/-- Chiplet column x of a grid core (R12). -/
def State.chipX (s : State) (n : Nat) : Nat := s.colOf n / s.layout.cols
/-- Chiplet row y of a grid core (R12). -/
def State.chipY (s : State) (n : Nat) : Nat := s.rowOf n / 12
/-- Number of a grid core's chiplet, row-major. -/
def State.chipOf (s : State) (n : Nat) : Nat := s.chipY n * 20 + s.chipX n
/-- Supply zone of chiplet (x, y) (R14). -/
def zoneOf (x y : Nat) : Nat := y / 4 * 10 + x / 2
/-- Supply zone of a grid core (R14). -/
def State.zoneOfCore (s : State) (n : Nat) : Nat := zoneOf (s.chipX n) (s.chipY n)

/-- The compute chiplet that memory-edge chiplet `e` is joined to (R15). -/
def edgeAt (e : Nat) : Nat × Nat :=
  let p := 5 * (e % 8) / 2 + 1
  match e / 8 with
  | 0 => (p, 0)
  | 1 => (19, p)
  | 2 => (19 - p, 19)
  | _ => (0, 19 - p)

/-- |a − b| of naturals. -/
def absDiff (a b : Nat) : Nat := (a - b) + (b - a)

/-- Distance from chiplet (x, y) to memory-edge chiplet `e` (R15). -/
def edgeDistance (x y e : Nat) : Nat := absDiff x (edgeAt e).1 + absDiff y (edgeAt e).2

/-- The memory-edge chiplet nearest to chiplet (x, y), ties to the lower number (R15). -/
def nearestEdge (x y : Nat) : Nat :=
  (List.range 32).foldl (fun best e => if edgeDistance x y e < edgeDistance x y best then e else best) 0

/-- A core that nothing backs (R418). -/
def CapEntry.none : CapEntry := { avail := false, xrow := false, benchOk := false, banks := 0, slots := 0, mirror := 0 }

/-- The capacity-record entry of a grid core; a full core where none is listed, and an unavailable one in a layout that nothing
has written (R418, R425). -/
def State.capOf (s : State) (n : Nat) : CapEntry :=
  (lookupNat n s.layout.caps).getD
    (if s.layout.blank then CapEntry.none
     else { avail := true, xrow := false, benchOk := true, banks := 16, slots := 16, mirror := 18 })

/-- The partition-table entry of partition `p`. -/
def State.partEntry (s : State) (p : BitVec 6) : Option PartEntry := lookupNat p.toNat s.layout.parts

/-- Whether core `n` lies in a partition's region: its zones, or its edge cores (R33, R160). -/
def State.inRegion (s : State) (p : BitVec 6) (n : Nat) : Bool :=
  match s.partEntry p with
  | none => false
  | some e =>
    match s.kindOf n with
    | .grid => (s.capOf n).avail && e.zones.getLsbD (s.zoneOfCore n)
    | .edge _ _ => e.edges.contains n
    | _ => false

/-- Live slots of a core: all but a retired slot 15; four of an edge core or a security core (R24, R160, R426). -/
def State.liveSlots (s : State) (n : Nat) : Nat :=
  match s.kindOf n with
  | .grid => (s.capOf n).slots
  | .edge _ _ => 4
  | .security _ => 4
  | .management _ => 16
  | _ => 0

/-- Whether partition `p` owns slot number `i` on core `n` (R34): an edge core is owned whole (R160). -/
def State.ownsSlot (s : State) (p : BitVec 6) (n : Nat) (i : Nat) : Bool :=
  s.inRegion p n && decide (i < s.liveSlots n) &&
    (match s.kindOf n, s.partEntry p with
     | .edge _ _, _ => true
     | _, some e => e.slots.getLsbD i
     | _, none => false)

/-- Banks of the share of a requester on core `n`, in ascending order (R132, R133). A requester that acts for no
partition has a share on its own processor only, which is all of its store (R426). -/
def State.shareBanks (s : State) (n : Nat) (who : Option (BitVec 6)) : List Nat :=
  match s.kindOf n, who with
  | .grid, some p =>
    if s.inRegion p n then
      match s.partEntry p with
      | some e => (List.range 16).filter (fun b => e.banks.getLsbD b && decide (b < (s.capOf n).banks))
      | none => []
    else []
  | .edge _ _, some p => if s.inRegion p n then [0, 1] else []
  | .management _, none => List.range 16
  | .security _, none => [0, 1]
  | _, _ => []

/-- Bytes of a requester's share on core `n` (R132). -/
def State.shareSize (s : State) (n : Nat) (who : Option (BitVec 6)) : Nat := (s.shareBanks n who).length * 0x20000

/-- Base and size of the instruction-store slice of a requester on core `n`: the whole store where its partition owns every live
slot of a grid core, none where it owns no slot of it (R35). -/
def State.slice (s : State) (n : Nat) (who : Option (BitVec 6)) : Nat × Nat :=
  match s.kindOf n, who with
  | .grid, some p =>
    match s.partEntry p with
    | some e =>
      if !s.inRegion p n then (0, 0)
      else if (List.range (s.liveSlots n)).all (s.ownsSlot p n) then (0, 0x20000)
      else if (List.range (s.liveSlots n)).any (s.ownsSlot p n) then (e.sliceBase, e.sliceSize)
      else (0, 0)
    | none => (0, 0)
  | .edge _ _, some p => if s.inRegion p n then (0, 0x8000) else (0, 0)
  | .management _, none => (0, 0x20000)
  | .security _, none => (0, 0x40000)
  | _, _ => (0, 0)

/-- The root chiplet whose physical function serves a partition: the one whose PARTLINK names it (R432). -/
def State.rootOf (s : State) (p : BitVec 6) : Option Nat :=
  ([0, 1] : List Nat).find? (fun k => (if k = 0 then s.partlink[0] else s.partlink[1]).getLsbD p.toNat)

/-- Whether a virtual function serves a partition: VF p of the physical function whose PARTLINK has bit p. A request to VF p of the
other one, or to VF p where neither mask has the bit, acts on no partition (R432; log 57). -/
def State.linked (s : State) (p : BitVec 6) : Bool := (s.rootOf p).isSome

/-- The Requester ID that a host-bound request of a partition carries: the physical function and the index of its virtual function
(R432). -/
def State.requester (s : State) (p : BitVec 6) : Option (Nat × Nat) := (s.rootOf p).map (fun k => (k, p.toNat))

/-- Slots of a partition on a core. -/
def State.partSlots (s : State) (p : BitVec 6) (n : Nat) : List Nat :=
  (List.range 16).filter (fun i => s.ownsSlot p n i)

/-- Partitions of the layout with slots on core `n`. -/
def State.partsOn (s : State) (n : Nat) : List (BitVec 6) :=
  (s.layout.parts.map (fun e => BitVec.ofNat 6 e.1)).filter (fun p => s.partSlots p n != [])

/-- Whom a slot acts for: its partition, or no partition in management mode (R138, R329). -/
def Slot.who (sl : Slot) : Option (BitVec 6) :=
  if sl.st.mode = .management then none else some sl.st.partition

/-- Whether a core is one on which a major of grid cores only is legal (R160, R426). -/
def State.isGrid (s : State) (n : Nat) : Bool := s.kindOf n == .grid

/-- Whether a core has neither near cache nor chiplet cache: an edge core or a processor of a root chiplet (R163). -/
def State.uncachedCore (s : State) (n : Nat) : Bool := !s.isGrid n

/-- The memory-plane node of a core's own mesh position. -/
def State.pathNode (_s : State) : Node → Nat
  | .core n => n
  | .hbm e => 0x20000 + e
  | .control => 0x30000
  | .host k => 0x30001 + k

/-! ### Jobs -/

/-- A job by its number. -/
def State.job? (s : State) (j : Nat) : Option Job := lookupNat j s.jobs

/-- A job changed. -/
def State.modJob (s : State) (j : Nat) (f : Job → Job) : State :=
  match s.job? j with
  | some jb => { s with jobs := insertNat j (f jb) s.jobs }
  | none => s

/-- The executing slot's job. -/
def State.myJob (s : State) : Option Job :=
  match s.me.job with
  | some j => s.job? j
  | none => none

/-- Whether the job's slot mask includes slot number `i`. A thread without a job is that of a processor of a root chiplet,
which owns its whole core. -/
def State.maskHas (s : State) (i : Nat) : Bool :=
  match s.myJob with
  | some j => j.slotMask.getLsbD i
  | none => s.me.st.mode == .management

/-- Whether the executing slot's job owns counter or barrier `n` (R203). -/
def State.ownsCounter (s : State) (n : Nat) : Bool :=
  (match s.kindOf s.curCore with
   | .edge _ _ => decide (n < 8)
   | _ => true) && s.maskHas (n / 2)

/-- Whether the executing slot's job owns queue register `n` (R231, R160). -/
def State.ownsQueue (s : State) (n : Nat) : Bool :=
  (match s.kindOf s.curCore with
   | .edge _ _ => decide (n < 2)
   | _ => true) && (s.maskHas (2 * n) || s.maskHas (2 * n + 1))

/-- Whether the executing slot's job owns event term `n` (R313, R160). -/
def State.ownsTerm (s : State) (n : Nat) : Bool :=
  (match s.kindOf s.curCore with
   | .edge _ _ => decide (n < 4)
   | _ => true) && s.maskHas n

/-- Whether the executing slot's job was launched recoverable. -/
def State.recoverable (s : State) : Bool :=
  match s.myJob with
  | some j => j.recov
  | none => false

/-- The cores of a job's region (R33). -/
def State.jobCores (s : State) (j : Job) : List Nat :=
  (List.range (j.rows * j.cols)).map (fun r => (j.row0 + r / j.cols) * s.gridCols + (j.col0 + r % j.cols))

/-- A job's rank on core `n` (R36). -/
def State.rankOf (s : State) (j : Job) (n : Nat) : Nat :=
  (s.rowOf n - j.row0) * j.cols + (s.colOf n - j.col0)

/-- Slot numbers of a mask, ascending. -/
def maskSlots (m : BitVec 16) : List SlotNo :=
  (List.finRange 16).filter (fun i => m.getLsbD i.val)

/-- The slot index: mask bits set below the slot's own bit (R37). -/
def slotIndex (m : BitVec 16) (i : SlotNo) : Nat :=
  ((List.range i.val).filter (fun b => m.getLsbD b)).length

/-! ### Requesters that are gone, cores that are lost -/

/-- A number that names no core: requests whose requester is gone are answered to it (R376, R428). -/
def nobody : Nat := 0xFFFF

/-- Whether a lost part includes core `n` (R374). -/
def State.covers (s : State) (l : Loss) (n : Nat) : Bool :=
  match l with
  | .zone z => s.isGrid n && s.zoneOfCore n == z
  | .chiplet h => s.isGrid n && s.chipOf n == h
  | .core m => m == n

/-- Whether core `n` has stopped with a lost part whose recovery has not begun yet: nothing of it runs, and what is on its way
to it waits (R376, R497). -/
def State.dying (s : State) (n : Nat) : Bool := !(s.core n).isolated && s.losses.any (fun l => s.covers l.1 n)

/-- Whether a core is lost or under recovery, until its recovery's release (R354, R376). -/
def State.underRecovery (s : State) (n : Nat) : Bool :=
  s.recoveries.any (fun r => r.cores.contains n) || (s.core n).isolated || s.dying n

/-- Whether an isolated core is to be restored by a recovery (R376, R380). -/
def State.awaits (s : State) (n : Nat) : Bool := (s.core n).isolated && s.recoveries.any (fun r => r.cores.contains n)

/-- Whether a job is running. -/
def State.runs (s : State) (j : Nat) : Bool :=
  match s.job? j with
  | some job => job.phase == .running
  | none => false

/-- The jobs of a partition that a recovery found on an isolated core (R374, R380). -/
def State.lostJobs (s : State) (n : Nat) (p : BitVec 6) : List Nat :=
  ((s.recoveries.flatMap Recovery.ranks).filter (fun x => x.1 == n)).map Prod.snd |>.filter (fun j =>
    match s.job? j with
    | some job => job.part == p
    | none => false)

/-- Whether an isolated core will be restored for a partition: no job of the partition that was lost there has ended (R380). -/
def State.comesBack (s : State) (target : Nat) (p : BitVec 6) : Bool :=
  s.awaits target && (s.lostJobs target p == [] || (s.lostJobs target p).any s.runs)

/-- Whether a request of a slot to an isolated core goes unanswered until the core is restored: neither the slot's job nor the
job of its partition that was lost there has ended (R380). -/
def State.unanswered (s : State) (target core : Nat) (slot : SlotNo) : Bool :=
  s.comesBack target (s.slot core slot).st.partition && (match (s.slot core slot).job with
    | some j => s.runs j
    | none => true)

/-! ### Steps that wait to happen -/

/-- A step put at the end of those that wait, on an ordered path (R176) or on none. -/
def State.send (s : State) (path : Option (Bool × Nat × Nat)) (kind : Instr) (arg : Arg) : State :=
  { s with due := s.due ++ [{ path := path, ev := { kind := kind, arg := arg } }] }

/-! ### The outgoing buffer -/

/-- The logical core number of a name. -/
def nameCore (x : Name) : Nat := x.toNat % 2 ^ 16

/-- Entries of the outgoing buffer and of the inbox allotted to each partition of a core (R221). -/
def State.allotment (s : State) (n : Nat) : Nat := 16 / max 1 (s.partsOn n).length

/-- Whether a step on its way is a message of partition `p` that left core `n` and holds an entry of its outgoing buffer until it
is accepted, beside those of `Core.sent`: RED, ISTW, SLOTGO and SLOTHALT, an STSPR row (R215, R221). -/
def Due.holdsEntry (d : Due) (n : Nat) (p : BitVec 6) : Bool :=
  match d.ev.arg with
  | .red m => m.core == n && m.part == p
  | .code m => m.core == n && m.part == p
  | .slotMsg m => m.core == n && m.part == p && !m.launch
  | .msg m => d.ev.kind == .stsprRowArrival && nameCore m.source == n && m.part == p
  | _ => false

/-- Entries of the outgoing buffer that a partition's messages occupy (R221). -/
def State.outgoing (s : State) (n : Nat) (p : BitVec 6) : Nat :=
  ((s.core n).sent.filter (fun m => m.part == p)).length + ((s.core n).retained.filter (fun r => r.2.part == p)).length +
    (s.due.filter (fun d => d.holdsEntry n p)).length

/-- Whether the outgoing buffer of core `n` takes another message of a partition (R221). -/
def State.outRoom (s : State) (n : Nat) (p : BitVec 6) : Bool := decide (s.outgoing n p < s.allotment n)

/-- Whether a handover of a partition is under way on a core: its arrivals are held (R240). -/
def Core.handing (c : Core) (p : BitVec 6) : Bool := c.handovers.any (fun h => h.cmd.part == p)

/-- Whether arrivals for a partition at a core are held: its state or its banks are being exchanged there (R240, R358). -/
def State.holdsFor (s : State) (n : Nat) (p : BitVec 6) : Bool :=
  (s.core n).handovers.any (fun h => h.cmd.part == p && h.cmd.inArea != 0 && (h.toCapture.isEmpty || h.started))

/-- Whether a message on its way waits at its destination for a handover there: a RED while the banks are exchanged, and kinds 1 to
4 and STSPR rows until the handover is over (R240, R358). -/
def State.heldBack (s : State) (d : Due) : Bool :=
  match d.ev.arg with
  | .red m => (match m.node with
      | .core n => s.holdsFor n m.part
      | _ => false)
  | .msg m => (d.ev.kind == .channelReturnArrival || d.ev.kind == .channelProbeArrival || d.ev.kind == .chsyncRequestArrival ||
      d.ev.kind == .chsyncReplyArrival || d.ev.kind == .stsprRowArrival) && (s.core (nameCore m.dest)).handing m.part
  | _ => false

/-- Whether nothing that left core `src` for core `dst` on the message plane is still on its way, but for what a
handover at `dst` holds back, nor retained at its source for partition `p`: what leaves now for `dst` comes behind it (R176,
R221). -/
def State.pairClear (s : State) (src dst : Nat) (p : BitVec 6) : Bool :=
  src == dst || (!s.due.any (fun d => d.path == some (true, src, dst) && !s.heldBack d) &&
    !(s.core src).retained.any (fun r => r.2.part == p && nameCore r.2.dest == dst))

/-! ### Posted writes, the log, counters -/

/-- Whether a store that slot `i` of core `n` has posted to any of `k` bytes from place `p` has not been performed yet (R148). -/
def State.ownWrite (s : State) (n : Nat) (i : SlotNo) (p k : Nat) : Bool :=
  s.due.any (fun d => match d.ev.arg with
    | .remote r => r.core == n && r.slot == i && (match r.op with
      | .write a m _ _ => (List.range k).any (fun b => decide (a ≤ p + b) && m.getLsbD (p + b - a))
      | _ => false)
    | _ => false)

/-- Whether a RED that slot `i` of core `n` has posted to any of `k` bytes, given by place or by address, has not been
performed yet (R166, R191). -/
def State.ownRed (s : State) (n : Nat) (i : SlotNo) (phys : Option Nat) (va k : Nat) : Bool :=
  s.due.any (fun d => match d.ev.arg with
    | .red m => m.core == n && m.slot == i &&
      ((match phys with
        | some p => decide (m.addr < p + k) && decide (p < m.addr + m.bytes)
        | none => false) ||
       (decide (m.va.toNat < va + k) && decide (va < m.va.toNat + m.bytes)))
    | _ => false)

/-- What a `Wait.ordered` waits for (R148, R166). -/
def State.ownPosted (s : State) (n : Nat) (i : SlotNo) (own : Bool) (phys : Option Nat) (va k : Nat) : Bool :=
  (own && (match phys with
    | some p => s.ownWrite n i p k
    | none => false)) || s.ownRed n i phys va k

/-- A part is lost now, and its recovery begins (R374, R376). -/
def State.lose (s : State) (l : Loss) : State :=
  ({ s with losses := s.losses ++ [(l, s.ptime)] }).send none .recoveryBegin (.loss l)

/-- An entry of the management error log. -/
def State.log (s : State) (cause : BitVec 8) (core slot : Nat) (value : Dword) : State :=
  { s with errlog := s.errlog ++ [{ cause := cause, core := core, slot := slot, value := value }] }

/-- A free value: the model's counter goes on. -/
def State.nextTick (s : State) : State := { s with tick := s.tick + 1 }

/-! ### Waiting and rejoining -/

/-- A slot leaves the rotation (R27). -/
def State.parkSlot (s : State) (n : Nat) (i : SlotNo) (w : Wait) : State :=
  s.modSlot n i (fun sl => { sl with run := .waiting w })

/-- The executing slot leaves the rotation in an instruction of `len` bytes (R27). -/
def State.parkAs (s : State) (len : Nat) (w : Wait) : State :=
  s.modMe (fun sl => { sl with ilen := len, run := .waiting w })

/-- The executing slot leaves the rotation in an instruction of four bytes (R27). -/
def State.park (s : State) (w : Wait) : State := s.parkAs 4 w

/-- What a slot waits for, if it waits. -/
def Slot.wait? (sl : Slot) : Option Wait :=
  match sl.run with
  | .waiting w => some w
  | _ => none

/-- Whether a waiting slot stays in the ring, not ready, instead of leaving the rotation: an access to the self window that
comes after the slot's own writes to the same bytes (R92, R108, R165). -/
def Slot.inRing (sl : Slot) : Bool :=
  match sl.wait? with
  | some (.ordered own _ _ _) => own
  | _ => false

/-- Barrier waits that end while their slots are saved: such a slot of job `j`, captured on core `n`, goes on after its
instruction once it is restored, its round counted where `w` says so (R212). -/
def State.endSaved (s : State) (n j : Nat) (w : Wait → Option Bool) : State :=
  { s with contexts := s.contexts.map (fun x =>
      if x.core = n then
        { x with ended := x.ended ++ x.slots.filterMap (fun e =>
            if e.2.job = some j ∧ !(x.ended.any (fun d => d.1 == e.1)) then
              (e.2.wait?.bind w).map (fun r => (e.1, r))
            else none) }
      else x) }

/-- The slots of a job captured on core `n` and not restored, one whose barrier wait has ended meanwhile as it will go on (R212,
R355). -/
def State.savedSlots (s : State) (n j : Nat) : List Slot :=
  s.contexts.flatMap (fun x =>
    if x.core = n then
      (x.slots.filter (fun e => e.2.job == some j)).map (fun e =>
        if x.ended.any (fun d => d.1 == e.1) then { e.2 with run := .running } else e.2)
    else [])

/-- A slot removed from every list of waiters of its core: its wait is abandoned or withdrawn (R156, R212). -/
def Core.withdraw (c : Core) (i : SlotNo) : Core :=
  { c with
    waits := c.waits.filter (fun w => !(w.own && w.slot == i)),
    channels := c.channels.map (fun ch => { ch with waiters := ch.waiters.filter (fun x => x != i) }),
    q := c.q.map (fun r => { r with readers := r.readers.filter (fun x => x != i),
                                    writers := r.writers.filter (fun x => x != i) }) }

/-- A full/empty request of a slot withdrawn from the wait tables of other cores (R156). -/
def State.withdrawRemote (s : State) (n : Nat) (i : SlotNo) : State :=
  { s with cores := s.cores.map (fun e =>
      (e.1, { e.2 with waits := e.2.waits.filter (fun w => w.own || !(w.core == n && w.slot == i)) })) }

/-! ### The end of an instruction -/

/-- The end action of a completed instruction at address `a` whose sequential successor is `next`, on one level (R118):
the level's registers and where the PC goes; `none` where the level does not end there. -/
def endLevel (cnt : Word) (beg fin : BitVec 17) (a : Dword) : Option (Word × Option Dword) :=
  if cnt ≠ 0 ∧ a = fin.setWidth 64 then
    if 1 < cnt.toNat then some (cnt - 1, some (beg.setWidth 64)) else some (0, none)
  else none

/-- The hardware-loop end action (R118): the inner level first, then, if it ends, the outer level. -/
def endAction (l : Loops) (a next : Dword) : Loops × Dword :=
  match endLevel l.lcnt1 l.lbeg1 l.lend1 a with
  | some (cnt1, some beg) => ({ l with lcnt1 := cnt1 }, beg)
  | some (cnt1, none) =>
    match endLevel l.lcnt0 l.lbeg0 l.lend0 a with
    | some (cnt0, some beg) => ({ l with lcnt1 := cnt1, lcnt0 := cnt0 }, beg)
    | some (cnt0, none) => ({ l with lcnt1 := cnt1, lcnt0 := cnt0 }, next)
    | none => ({ l with lcnt1 := cnt1 }, next)
  | none =>
    if l.lcnt1 ≠ 0 then (l, next)
    else
      match endLevel l.lcnt0 l.lbeg0 l.lend0 a with
      | some (cnt0, some beg) => ({ l with lcnt0 := cnt0 }, beg)
      | some (cnt0, none) => ({ l with lcnt0 := cnt0 }, next)
      | none => (l, next)

/-- A slot whose instruction has completed without a control transfer and goes on at `next`, or where the end action says,
INSTRET counted (R118, R332). -/
def Slot.finishTo (sl : Slot) (next : Dword) : Slot :=
  let r := endAction sl.loops sl.pc next
  { sl with loops := r.1, pc := r.2, lastPc := some sl.pc, cnt := { sl.cnt with instret := sl.cnt.instret + 1 },
            bench := sl.bench.map (fun b => { b with done := b.done + 1 }) }

/-- A slot whose instruction has completed in sequence. -/
def Slot.finish (sl : Slot) : Slot := sl.finishTo (sl.pc + BitVec.ofNat 64 sl.ilen)

/-- A slot whose instruction has completed with a control transfer: no end action (R118). -/
def Slot.jump (sl : Slot) (t : Dword) : Slot :=
  { sl with pc := t, lastPc := some sl.pc, cnt := { sl.cnt with instret := sl.cnt.instret + 1 },
            bench := sl.bench.map (fun b => { b with done := b.done + 1 }) }

/-- The executing slot's instruction of `len` bytes has completed in sequence. -/
def State.finish (s : State) (len : Nat) : State := s.modMe (fun sl => { sl with ilen := len }.finish)

/-- The executing slot's instruction has completed with a control transfer to `t`. -/
def State.jump (s : State) (t : Dword) : State := s.modMe (fun sl => sl.jump t)

/-- A waiting slot's instruction completes and the slot will rejoin (R27). -/
def State.completeSlot (s : State) (n : Nat) (i : SlotNo) : State :=
  s.modSlot n i (fun sl => { sl.finish with run := .waiting .rejoin })

/-! ### Ending a job -/

/-- Every slot of a job named for capture, as SLOTHALT stops a slot (R335, R342, R347). -/
def State.haltJobSlots (s : State) (j : Nat) : State :=
  { s with cores := s.cores.map (fun e =>
      (e.1, { e.2 with slots := e.2.slots.map (fun sl =>
        if sl.job = some j ∧ sl.run ≠ .off ∧ sl.run ≠ .halted then { sl with capture := true } else sl) })) }

/-- A job that ends with a status and a cause (R443): its slots stop, and it completes once they have. -/
def State.endJob (s : State) (j : Nat) (status : Nat) (cause : BitVec 8) : State :=
  match s.job? j with
  | none => s
  | some jb =>
    match jb.phase with
    | .running | .loading | .waiting _ =>
      (s.modJob j (fun x => { x with phase := .ending status cause, parked := false })).haltJobSlots j
    | _ => s

/-! ### Exceptions -/

/-- The upcall causes (R336). -/
def upcallCause (c : BitVec 8) : Bool :=
  c == 0x09 || c == 0x11 || c == 0x12 || c == 0x39 || c == 0x51 || c == 0x61

/-- A management core that an event stops: its slots issue nothing further, and the security core resets it, once (R428). -/
def State.stopRoot (s : State) (n : Nat) : State :=
  let s1 := s.modCore n (fun c => { c with
    asleep := true, slots := c.slots.map (fun sl => if sl.run = .off then sl else { sl with run := .halted }) })
  if s.due.any (fun d => d.ev.kind == .watchdogExpiry && d.ev.arg == .core n) then s1
  else s1.send none .watchdogExpiry (.core n)

/-- The double fault: logged, never delivered to the slot; every slot of the job stops as SLOTHALT stops one, this one too,
and the job ends with DOUBLE_FAULT (R342). On a management core all slots stop at once, and the security core resets and reloads
the core instead, which the watchdog's step does (R428). -/
def State.doubleFault (s : State) (n : Nat) (i : SlotNo) (status : Nat) (cause : BitVec 8) (ret : Dword)
    (addr : Dword) : State :=
  let s1 := (s.log cause n i.val addr).log cause n i.val ret
  let s2 := s1.modSlot n i (fun sl => { sl with run := .waiting .stopping })
  match s.kindOf n with
  | .management _ => s1.stopRoot n
  | _ =>
    match (s.slot n i).job with
    | some j => s2.endJob j status (if status = 10 then cause else 0)
    | none => s2

/-- The executing slot has entered a handler or stopped: its instruction did not complete. -/
def State.markTrapped (s : State) (n : Nat) (i : SlotNo) : State :=
  if n = s.curCore ∧ i = s.curSlot then { s with trapped := true } else s

/-- TAKING A TRAP (R335): the double fault, the unhandled trap, or the entry to TVEC with EPC, ECAUSE, EADDR, PMODE, MODE
and EXL set. -/
def State.trapEntry (s : State) (n : Nat) (i : SlotNo) (cause : BitVec 8) (addr ret : Dword) : State :=
  let sl := s.slot n i
  if sl.st.exl then (s.doubleFault n i 5 0x0C ret addr).markTrapped n i
  else if sl.vec.tvec.getLsbD 0 = false then (s.doubleFault n i 10 cause ret addr).markTrapped n i
  else
    (s.setSlot n i { sl with
      vec := { sl.vec with epc := ret, ecause := cause, eaddr := addr },
      st := { sl.st with pmode := sl.st.mode, exl := true,
                         mode := if sl.st.mode = .user then .supervisor else sl.st.mode },
      pc := (sl.vec.tvec &&& 0x1FFFE).setWidth 64,
      lastPc := none,
      turnOn := none,
      run := .running }).markTrapped n i

/-- The overflow vector of the slot's partition on its core (R228, R332). -/
def State.ovfVector (s : State) (n : Nat) (p : BitVec 6) : BitVec 17 :=
  match lookupNat p.toNat (s.core n).rows with
  | some r => r.ovfvec
  | none => 0

/-- TAKING AN UPCALL (R336): UEPC, UCAUSE, UADDR, UPC and the PC; no register of the thread is touched. -/
def State.upcallEntry (s : State) (n : Nat) (i : SlotNo) (cause : BitVec 8) (addr ret : Dword) : State :=
  let sl := s.slot n i
  let vec := if cause = 0x39 then s.ovfVector n sl.st.partition else sl.vec.upvec
  (s.setSlot n i { sl with
    vec := { sl.vec with uepc := ret, ucause := cause,
                         uaddr := if cause = 0x09 ∨ cause = 0x39 then 0 else addr },
    st := { sl.st with upc := true, ovf := sl.st.ovf || cause == 0x39 },
    pc := (vec &&& 0x1FFFE).setWidth 64,
    lastPc := none,
    turnOn := none,
    run := .running }).markTrapped n i

/-- A cause delivered to a slot: as an upcall where R336 makes it one, held pending while an upcall runs, or as a trap. -/
def State.deliver (s : State) (n : Nat) (i : SlotNo) (cause : BitVec 8) (addr ret : Dword) : State :=
  let sl := s.slot n i
  if upcallCause cause ∧ sl.st.mode = .user ∧ sl.vec.upvec.getLsbD 0 = true then
    if sl.st.upc then
      if cause = 0x11 ∨ cause = 0x12 then s.trapEntry n i cause addr ret
      else s.modSlot n i (fun x => { x with pending := x.pending ++ [(cause, addr)] })
    else s.upcallEntry n i cause addr ret
  else s.trapEntry n i cause addr ret

/-- A precise fault of the executing instruction: the return offset is its own address (R341). -/
def State.fault (s : State) (cause : BitVec 8) (addr : Dword) : State :=
  s.deliver s.curCore s.curSlot cause addr s.me.pc

/-- A precise fault that comes with an answer to a waiting slot: the slot's wait ends, and it takes the fault at its next
turn, with the return offset of its instruction (R27, R341). -/
def State.answerFault (s : State) (n : Nat) (i : SlotNo) (cause : BitVec 8) (addr : Dword) : State :=
  s.modSlot n i (fun sl => { sl with run := .waiting .rejoin, taking := some (cause, addr, sl.pc) })

/-- A precise fault of a slot whose wait is over: it takes the fault at its next turn (R341). -/
def State.turnFault (s : State) (n : Nat) (i : SlotNo) (cause : BitVec 8) (addr : Dword) : State :=
  s.modSlot n i (fun sl => { sl with run := .running, taking := some (cause, addr, sl.pc) })

/-- The fault that an answer brought is taken, at the slot's turn (R341). -/
def State.takeAnswer (s : State) (n : Nat) (i : SlotNo) (f : BitVec 8 × Dword × Dword) : State :=
  (s.modSlot n i (fun sl => { sl with taking := none })).deliver n i f.1 f.2.1 f.2.2

/-- A cause that will be taken at a later instruction boundary of a slot (R341). -/
def State.pend (s : State) (n : Nat) (i : SlotNo) (cause : BitVec 8) (addr : Dword) : State :=
  s.modSlot n i (fun sl => { sl with pending := sl.pending ++ [(cause, addr)] })

/-- Whether slot `i` of core `n` has been captured by a handover of a partition whose shared state is not exchanged yet: the
slot's engine commands still run, and it lies in its saved context (R299, R310, R322, R327, R358). -/
def State.savedAway (s : State) (n : Nat) (i : SlotNo) (p : BitVec 6) : Bool :=
  (s.core n).handovers.any (fun h => h.cmd.part == p && h.cmd.save && !h.started && h.captured.contains i)

/-- A cause given to a captured slot in its saved context: it is taken once the slot is restored (R295, R358). -/
def State.pendSaved (s : State) (n : Nat) (i : SlotNo) (p : BitVec 6) (cause : BitVec 8) (addr : Dword) : State :=
  { s with contexts := s.contexts.map (fun x =>
      if x.core = n ∧ x.part = p ∧
          (s.core n).handovers.any (fun h => h.cmd.part == p && h.cmd.ctxOut == x.context) then
        { x with slots := x.slots.map (fun e =>
            if e.1 = i then (e.1, { e.2 with pending := e.2.pending ++ [(cause, addr)] }) else e) }
      else x) }

/-- A deferred fault kept for the slot's next instruction that waits for its outstanding writes; the first one stays
(R159, R341). EADDR has bit 63 set. -/
def State.defer (s : State) (n : Nat) (i : SlotNo) (cause : BitVec 8) (addr : Dword) : State :=
  s.modSlot n i (fun sl =>
    { sl with deferred := match sl.deferred with
        | some d => some d
        | none => some (cause, (addr &&& 0x00FFFFFFFFFFFFFF) ||| 0x8000000000000000) })

/-- Whether a target lies inside the executing slot's slice (R109). -/
def State.inSlice (s : State) (t : Dword) : Bool := decide (t.toNat < (s.slice s.curCore s.me.who).2)

/-- A taken control transfer, or the fault of one outside the slice (R109, R112). -/
def State.transfer (s : State) (t : Dword) : State := if s.inSlice t then s.jump t else s.fault 0x07 t

/-- Whether a return offset can be returned to: even and inside the slice (R337). -/
def State.returnable (s : State) (t : Dword) : Bool := decide (t.toNat % 2 = 0) && s.inSlice t

/-- Whether a core is a processor of a root chiplet (R426). -/
def State.onRoot (s : State) (n : Nat) : Bool :=
  match s.kindOf n with
  | .management _ => true
  | .security _ => true
  | _ => false

/-- RETURNING FROM A TRAP (R337): PC := EPC, MODE := PMODE, EXL := 0. On a processor of a root chiplet, whose slots run in no
mode but management (R329, R426), MODE stays (DEDUCED, log 54). -/
def State.trapReturn (s : State) : State :=
  let t := s.me.vec.epc
  if s.returnable t then
    s.modMe (fun sl => { sl.jump t with
      st := { sl.st with mode := if s.onRoot s.curCore then sl.st.mode else sl.st.pmode, exl := false } })
  else s.fault 0x07 t

/-- RETURNING FROM AN UPCALL (R337): PC := UEPC, UPC := 0, OVF := 0. -/
def State.upcallReturn (s : State) : State :=
  let t := s.me.vec.uepc
  if s.returnable t then
    s.modMe (fun sl => { sl.jump t with st := { sl.st with upc := false, ovf := false } })
  else s.fault 0x07 t

/-- EADDR of a cause for which the spec states no address and no value: a free value (log 22). -/
def State.noAddr (s : State) : Dword := Config.freeDword s.tick

/-- A privileged operation outside its mode (0x02). -/
def State.privilege (s : State) : State := s.fault 0x02 s.noAddr

/-- Whether the executing slot is in user mode. -/
def State.inUser (s : State) : Bool := s.me.st.mode == .user

/-- A halfword of a requester's instruction-store slice (R35). -/
def State.codeHalf (s : State) (n : Nat) (who : Option (BitVec 6)) (off : Nat) : Nat :=
  s.peek (istoreAddr n ((s.slice n who).1 + off)) 2

/-- Length of the instruction at an offset of the executing slot's slice, from bit 0 of its halfword (R50, R117). In a bench the
spec does not say whose instruction store LOOP and LBRK take the length from: the model takes each member's own (DESIGN CHOICE,
log 54). -/
def State.lenAt (s : State) (off : Dword) : Nat :=
  if s.codeHalf s.curCore s.me.who off.toNat % 2 = 0 then 2 else 4

end Sys2Proof.Machine
end

