-- ==== Sys2Proof/WellFormed.lean ====
section
/-!
DEFINITION. Which instructions the encoding rules allow (R51, R53, R57, R58, R246, R331, R402): the limits that a
field's own width does not state. Everything else of the syntax is well-formed.
-/
namespace Sys2Proof

/-- Vector integer types, codes 0 to 7 (R73). -/
def intTy (ty : BitVec 5) : Bool := decide (ty.toNat ≤ 7)

/-- Vector float types F16, BF16 and F32, codes 8 to 10 (R73). -/
def floatTy (ty : BitVec 5) : Bool := decide (8 ≤ ty.toNat) && decide (ty.toNat ≤ 10)

/-- The types that every vector instruction but VCVT may take, codes 0 to 10 (R73, R246). -/
def arithTy (ty : BitVec 5) : Bool := decide (ty.toNat ≤ 10)

/-- The types VCVT takes, codes 0 to 10 and 12 to 19 (R73, R246). -/
def convTy (ty : BitVec 5) : Bool :=
  decide (ty.toNat ≤ 10) || (decide (12 ≤ ty.toNat) && decide (ty.toNat ≤ 19))

/-- The width in bits of an element of a vector type (R73); 8 for a reserved code, which no instruction carries. -/
def widthOf (ty : BitVec 5) : Nat :=
  match ty.toNat with
  | 2 | 3 | 8 | 9 => 16
  | 4 | 5 | 10 => 32
  | 6 | 7 => 64
  | 15 | 16 => 6
  | 17 | 18 | 19 => 4
  | _ => 8

/-- The lanes of a vector type in a 512-bit register (R73): 64 for the 6-bit types (R72). -/
def lanesOf (ty : BitVec 5) : Nat :=
  if widthOf ty = 6 then 64 else 512 / widthOf ty

/-- The assigned control-register numbers (R332). -/
def crNumbers : List Nat :=
  [0x000, 0x001, 0x002, 0x003, 0x004, 0x005, 0x006, 0x007, 0x008, 0x009,
   0x010, 0x011, 0x012, 0x013, 0x014, 0x015, 0x018, 0x019, 0x01A, 0x01B,
   0x020, 0x021, 0x022, 0x023, 0x024, 0x028, 0x029, 0x02A, 0x02B, 0x02C]
  ++ [0x100, 0x101, 0x102, 0x103, 0x104, 0x105, 0x106, 0x108, 0x109, 0x10A, 0x10B, 0x10C, 0x10D, 0x10E, 0x10F,
      0x110, 0x111, 0x112, 0x118, 0x119, 0x11A, 0x11B]

/-- The limits on an instruction's fields: an encoding outside them is illegal (R53). The steps that have no encoding
are all well-formed. -/
def Instr.wf : Instr → Bool
  | .bfx _ _ pos ln => decide (pos.toNat + (ln.toNat + 1) ≤ 64)
  | .bfi _ _ pos ln => decide (pos.toNat + (ln.toNat + 1) ≤ 64)
  | .loop _ off => decide (2 ≤ off.toNat)
  | .loopi off _ => decide (2 ≤ off.toNat)
  | .bench num => num != 0
  | .benchF num => num != 0
  | .ldx _ _ _ sz gr _ => sz != 3 || gr == 0
  | .vgth _ _ _ _ sz _ => decide (2 ≤ sz.toNat)
  | .vsct _ _ _ _ sz _ => decide (2 ≤ sz.toNat)
  | .ldaq _ _ sc _ _ => decide (sc.toNat ≤ 4)
  | .strl _ _ sc _ _ => decide (sc.toNat ≤ 4)
  | .fence sc => decide (sc.toNat ≤ 4)
  | .fenceAcq sc => decide (sc.toNat ≤ 4)
  | .fenceRel sc => decide (sc.toNat ≤ 4)
  | .pref ln _ _ => decide (ln.toNat ≤ 2)
  | .amoAdd _ _ _ _ _ sc => decide (sc.toNat ≤ 4)
  | .amoAnd _ _ _ _ _ sc => decide (sc.toNat ≤ 4)
  | .amoOr _ _ _ _ _ sc => decide (sc.toNat ≤ 4)
  | .amoXor _ _ _ _ _ sc => decide (sc.toNat ≤ 4)
  | .amoMinS _ _ _ _ _ sc => decide (sc.toNat ≤ 4)
  | .amoMinN _ _ _ _ _ sc => decide (sc.toNat ≤ 4)
  | .amoMaxS _ _ _ _ _ sc => decide (sc.toNat ≤ 4)
  | .amoMaxN _ _ _ _ _ sc => decide (sc.toNat ≤ 4)
  | .amoSwap _ _ _ _ _ sc => decide (sc.toNat ≤ 4)
  | .amoCas _ _ _ _ _ sc => decide (sc.toNat ≤ 4)
  | .amoFaddF32 _ _ _ _ sc => decide (sc.toNat ≤ 4)
  | .amoFaddBf16x2 _ _ _ _ sc => decide (sc.toNat ≤ 4)
  | .amoFmaxF32 _ _ _ _ sc => decide (sc.toNat ≤ 4)
  | .redAdd _ _ _ _ sc => decide (sc.toNat ≤ 4)
  | .redAnd _ _ _ _ sc => decide (sc.toNat ≤ 4)
  | .redOr _ _ _ _ sc => decide (sc.toNat ≤ 4)
  | .redXor _ _ _ _ sc => decide (sc.toNat ≤ 4)
  | .redMinS _ _ _ _ sc => decide (sc.toNat ≤ 4)
  | .redMinN _ _ _ _ sc => decide (sc.toNat ≤ 4)
  | .redMaxS _ _ _ _ sc => decide (sc.toNat ≤ 4)
  | .redMaxN _ _ _ _ sc => decide (sc.toNat ≤ 4)
  | .redFaddF32 _ _ _ sc => decide (sc.toNat ≤ 4)
  | .redFaddBf16x2 _ _ _ sc => decide (sc.toNat ≤ 4)
  | .redFmaxF32 _ _ _ sc => decide (sc.toNat ≤ 4)
  | .send d _ _ num => decide (d.toNat + num.toNat ≤ 31)
  | .vadd _ _ _ _ ty sc => arithTy ty && (sc == 0 || intTy ty)
  | .vsub _ _ _ _ ty sc => arithTy ty && (sc == 0 || intTy ty)
  | .vmul _ _ _ _ ty sc => arithTy ty && (sc == 0 || intTy ty)
  | .vmulh _ _ _ _ ty => intTy ty
  | .vmin _ _ _ _ ty => arithTy ty
  | .vmax _ _ _ _ ty => arithTy ty
  | .vabs _ _ _ ty sc => arithTy ty && (sc == 0 || intTy ty)
  | .vneg _ _ _ ty sc => arithTy ty && (sc == 0 || intTy ty)
  | .vfma _ _ _ _ ty => floatTy ty
  | .vfms _ _ _ _ ty => floatTy ty
  | .vfnma _ _ _ _ ty => floatTy ty
  | .vdot _ _ _ _ ty => decide (ty.toNat ≤ 3) || ty == 8 || ty == 9
  | .vand _ _ _ _ ty => arithTy ty
  | .vor _ _ _ _ ty => arithTy ty
  | .vxor _ _ _ _ ty => arithTy ty
  | .vnot _ _ _ ty => arithTy ty
  | .vshl _ _ _ _ ty => intTy ty
  | .vshr _ _ _ _ ty => intTy ty
  | .vsar _ _ _ _ ty => intTy ty
  | .vcmp _ _ _ _ ty pos => decide (pos.toNat ≤ 6) && arithTy ty && (pos != 6 || floatTy ty)
  | .vsel _ _ _ _ ty => arithTy ty
  | .vmov _ _ _ ty => arithTy ty
  | .vcvt _ _ row _ _ ty fl => convTy ty && convTy fl && row != 7
  | .vperm _ _ _ _ ty => arithTy ty
  | .vshuf _ _ _ _ ty => arithTy ty
  | .vbcst _ _ ty => arithTy ty
  | .vins _ _ ln ty => arithTy ty && decide (ln.toNat < lanesOf ty)
  | .vext _ _ ln ty => arithTy ty && decide (ln.toNat < lanesOf ty)
  | .vli _ imm md => md != 3 || decide (imm.toNat < 256)
  | .vred _ _ _ ty off => decide (off.toNat ≤ 5) && arithTy ty && (decide (off.toNat < 3) || intTy ty)
  | .vcls _ _ _ ty => floatTy ty
  | .vscale _ _ _ _ ty => floatTy ty
  | .vrcp _ _ _ ty => floatTy ty
  | .vrsq _ _ _ ty => floatTy ty
  | .vexp2 _ _ _ ty => floatTy ty
  | .vlog2 _ _ _ ty => floatTy ty
  | .vtanh _ _ _ ty => floatTy ty
  | .vsigm _ _ _ ty => floatTy ty
  | .vsin _ _ _ ty => floatTy ty
  | .vcos _ _ _ ty => floatTy ty
  | .cpy _ _ _ num _ cc => cc == 1 || num == 0
  | .cpys _ _ _ num cc => cc == 1 || num == 0
  | .cpy2d _ num _ cc => cc == 1 || num == 0
  | .coll _ off _ => decide (off.toNat ≤ 4)
  | .crr _ imm => crNumbers.contains imm.toNat
  | .crw _ _ imm => crNumbers.contains imm.toNat
  | .phint sh => decide (sh.toNat ≤ 4) || sh == 31
  | .compactForm form => form != .cMov 0 0
  | .add .. | .sub .. | .and .. | .or .. | .xor .. | .andn .. => true
  | .mul .. | .mulhS .. | .mulhN .. | .divS .. | .divN .. | .remS .. => true
  | .remN .. | .minS .. | .minN .. | .maxS .. | .maxN .. | .seq .. => true
  | .sne .. | .sltS .. | .sltN .. | .shl .. | .shr .. | .sar .. => true
  | .rol .. | .addw .. | .subw .. | .mulw .. | .addi .. | .andi .. => true
  | .ori .. | .xori .. | .sltiS .. | .sltiN .. | .shli .. | .shri .. => true
  | .sari .. | .lih .. | .lit .. | .clz .. | .ctz .. | .popc .. => true
  | .brev .. | .bswap .. | .sel .. | .lea .. | .slice .. | .beq .. => true
  | .bne .. | .blt .. | .bge .. | .bltn .. | .bgen .. | .jal .. => true
  | .jalr .. | .lbrk .. | .split .. | .bxch .. | .benchFormationTimeout .. | .ldS8 .. => true
  | .ldN8 .. | .ldS16 .. | .ldN16 .. | .ldS32 .. | .ldN32 .. | .ld64 .. => true
  | .st8 .. | .st16 .. | .st32 .. | .st64 .. | .stx .. | .vld .. => true
  | .vst .. | .vlds .. | .vsts .. | .ldf .. | .ldfC .. | .stf .. => true
  | .feclr .. | .ncinv .. | .cinv .. | .redArrival .. | .hostAtomicCompletion .. | .marm .. => true
  | .mwait .. | .mdisarm .. | .mdisarmAll .. | .mwaitTimeout .. | .bar .. | .bara .. => true
  | .barw .. | .gbar .. | .groupArrivalMessage .. | .groupCompletionMessage .. | .cwait .. | .cwaitTimeout .. => true
  | .cadd .. | .cset .. | .crd .. | .sendm .. | .sendl .. | .mrecv .. => true
  | .messageArrival .. | .heldMessageDeposit .. | .holdTimeout .. | .messageRefusal .. | .refusalResend .. | .nlook .. => true
  | .ninv .. | .nameTableWalk .. | .qget .. | .qput .. | .vqget .. | .vqput .. => true
  | .qstat .. | .clsw .. | .chfree .. | .chsync .. | .channelReturnArrival .. | .channelProbe .. => true
  | .channelProbeArrival .. | .chsyncRequestArrival .. | .chsyncReplyArrival .. | .chsyncTimeout .. | .flowDepositAck .. | .qcfgWrite .. => true
  | .kand .. | .kor .. | .kxor .. | .knot .. | .kmovKK .. | .kpop .. => true
  | .kmovKG .. | .kmovGK .. | .specialFunctionResult .. | .mcmd .. | .mresume .. | .mabort .. => true
  | .mstat .. | .mmap .. | .mmov .. | .mmovw .. | .matrixCommandStart .. | .matrixKstep .. => true
  | .matrixCommandComplete .. | .matrixStateError .. | .stsprRowArrival .. | .stsprClosingArrival .. | .copyPiece .. | .copyComplete .. => true
  | .collUnitTransfer .. | .collUseComplete .. | .collBadData .. | .ecfg .. | .etrig .. | .termFire .. => true
  | .wpush .. | .wpop .. | .wquiet .. | .wlvl .. | .levellingInterval .. | .workItemsArrival .. => true
  | .workItemsReturn .. | .wquietQuiescent .. | .wlcfgWrite .. | .trap .. | .eret .. | .upret .. => true
  | .yield .. | .halt .. | .asyncCauseEntry .. | .timerInterrupt .. | .slotRejoin .. | .fncfgWrite .. => true
  | .slotgo .. | .slothalt .. | .istw .. | .plbinv .. | .csave .. | .crest .. => true
  | .slotgoArrival .. | .slothaltArrival .. | .istwArrival .. | .plbinvAck .. | .completionNoticeArrival .. | .noticeReturn .. => true
  | .handoverCommand .. | .slotCapture .. | .bankExchange .. | .handoverComplete .. | .rbar .. | .miradd .. => true
  | .mirdel .. | .rstat .. | .roundStream .. | .mirrorStreamComplete .. | .commitPoint .. | .roundCommit .. => true
  | .recoveryBegin .. | .repowerAttempt .. | .powerGood .. | .selfTestComplete .. | .recoveryRestore .. | .resendLogRewind .. => true
  | .resyncRetry .. | .recoveryRelease .. | .containmentEvent .. | .pcapw .. | .shedw .. | .shedDeadlineExpiry .. => true
  | .coreRetention .. | .budgetTick .. | .telemetryFrame .. | .frameLossTimeout .. | .telemetryEcho .. | .currentStepSample .. => true
  | .riseHeld .. | .senseClr .. | .degrClear .. | .zoneTrip .. | .phaseFailure .. | .thermalClamp .. => true
  | .thermalPark .. | .thermalShutdown .. | .clampLift .. | .thermalRestart .. | .registerWrite .. | .remoteRequest .. => true
  | .remoteReply .. | .writeAck .. | .plbWalk .. | .translationWalk .. | .writeThroughDrain .. | .waitTableRefusal .. => true
  | .feclrComplete .. | .jobLaunch .. | .placementWaitExpiry .. | .jobComplete .. | .launchRecordRead .. | .submit .. => true
  | .wqcfg .. | .queueOwnershipWrite .. | .partlink .. | .notify .. | .fqhead .. | .faultPostArrival .. => true
  | .snapctl .. | .lockInterface .. | .startInterface .. | .stopInterface .. | .functionLevelReset .. | .tdispViolation .. => true
  | .getMeasurements .. | .hostAtomicop .. | .opticalFrameReceive .. | .opticalReplayTimeout .. | .opticalPortUp .. | .layoutbell .. => true
  | .layoutReply .. | .commit .. | .meshTick .. | .busyClear .. | .journalReconcile .. | .retirementAppend .. => true
  | .bootLogRead .. | .watchdogExpiry .. | .wdog .. | .firmwareImageLoad .. | .illegalInstruction .. | .fetchFault .. => true
  | .unexplainedStepDrop .. | .thermalRepowerDeadline .. | .panelPowerLoss .. | .hostMemoryRequest .. | .scrubberPass .. | .mwaitTcmpInterrupt .. => true
  | .frameTableWrite .. => true

/-- Whether a compact form is well-formed: every one but C.MOV g8, g8, the halfword 0x0000 (R51, R59). -/
def Compact.wf (f : Compact) : Bool := f != .cMov 0 0

end Sys2Proof
end

