-- ==== Sys2Proof/Machine/Flags.lean ====
section
/-!
DEFINITION. Number formats, rounding, conversions, the floating-point flags and the random stream (R72 to R91), and the
exact sums and products that the vector unit, the matrix unit and the atomics round (R245, R250, R281). A finite float is
an exact real (-1)^neg × mant × 2^exp.
-/
namespace Sys2Proof.Machine

/-! ### Flags (R83, R84) -/

/-- Invalid operation. -/
def flagNV : BitVec 5 := 16
/-- Division by zero. -/
def flagDZ : BitVec 5 := 8
/-- Overflow. -/
def flagOF : BitVec 5 := 4
/-- Underflow. -/
def flagUF : BitVec 5 := 2
/-- Inexact. -/
def flagNX : BitVec 5 := 1

/-! ### Formats (R74 to R79) -/

/-- What the codes above the largest finite magnitude mean (R75): infinity and NaNs, one NaN, or there are none. -/
inductive Special where
  | ieee (signalling : Bool)
  | oneNan
  | none
  deriving DecidableEq, Repr

/-- A float format: exponent and fraction bits, bias, the magnitude code of the largest finite value, what lies above it,
the canonical NaN, and the unused low bits of its container (R72, R75, R76). -/
structure Fmt where
  ebits : Nat
  mbits : Nat
  bias : Nat
  maxMag : Nat
  special : Special
  nan : Nat
  pad : Nat
  deriving DecidableEq, Repr

/-- F32 (R75). -/
def fmtF32 : Fmt := ⟨8, 23, 127, 0x7F7FFFFF, .ieee true, 0x7FC00000, 0⟩
/-- F19 in its 32-bit container (R72, R75). -/
def fmtF19 : Fmt := ⟨8, 10, 127, 0x3FBFF, .ieee true, 0x3FE00, 13⟩
/-- F16 (R75). -/
def fmtF16 : Fmt := ⟨5, 10, 15, 0x7BFF, .ieee true, 0x7E00, 0⟩
/-- BF16 (R75). -/
def fmtBF16 : Fmt := ⟨8, 7, 127, 0x7F7F, .ieee true, 0x7FC0, 0⟩
/-- E5M2 (R75): every NaN is quiet (R76). -/
def fmtE5M2 : Fmt := ⟨5, 2, 15, 0x7B, .ieee false, 0x7F, 0⟩
/-- E4M3 (R75). -/
def fmtE4M3 : Fmt := ⟨4, 3, 7, 0x7E, .oneNan, 0x7F, 0⟩
/-- E3M4 (R75). -/
def fmtE3M4 : Fmt := ⟨3, 4, 3, 0x7F, .none, 0, 0⟩
/-- E3M2 (R75). -/
def fmtE3M2 : Fmt := ⟨3, 2, 3, 0x1F, .none, 0, 0⟩
/-- E2M3 (R75). -/
def fmtE2M3 : Fmt := ⟨2, 3, 1, 0x1F, .none, 0, 0⟩
/-- E2M1 (R75). -/
def fmtE2M1 : Fmt := ⟨2, 1, 1, 0x7, .none, 0, 0⟩

/-- The value of a float encoding. -/
inductive FVal where
  | nan (signalling : Bool)
  | inf (neg : Bool)
  | fin (neg : Bool) (mant : Nat) (exp : Int)
  deriving DecidableEq, Repr

/-- The value an encoding stands for (R74 to R76). -/
def Fmt.decode (f : Fmt) (x : Nat) : FVal :=
  let y := x / 2 ^ f.pad
  let mag := y % 2 ^ (f.ebits + f.mbits)
  let neg := decide (y / 2 ^ (f.ebits + f.mbits) % 2 = 1)
  let e := mag / 2 ^ f.mbits
  let m := mag % 2 ^ f.mbits
  if f.maxMag < mag then
    match f.special with
    | .ieee sig => if mag = f.maxMag + 1 then .inf neg else .nan (sig && decide (m < 2 ^ (f.mbits - 1)))
    | _ => .nan false
  else if e = 0 then .fin neg m (1 - (f.bias : Int) - f.mbits)
  else .fin neg (2 ^ f.mbits + m) ((e : Int) - f.bias - f.mbits)

/-- A magnitude code with a sign, in its container. -/
def Fmt.pack (f : Fmt) (neg : Bool) (mag : Nat) : Nat :=
  (mag + if neg then 2 ^ (f.ebits + f.mbits) else 0) * 2 ^ f.pad

/-- The canonical NaN of a format, sign clear (R76). -/
def Fmt.nanCode (f : Fmt) : Nat := f.pack false f.nan

/-- The largest finite value of a sign. -/
def Fmt.maxCode (f : Fmt) (neg : Bool) : Nat := f.pack neg f.maxMag

/-- Infinity of a format that has one. -/
def Fmt.infCode (f : Fmt) (neg : Bool) : Nat := f.pack neg (f.maxMag + 1)

/-! ### Rounding (R80 to R82) -/

/-- Whether the magnitude `n + rem / 2^k` of a value rounds up, or becomes odd (R80); `rand` is its random word (R88). -/
def roundsUp (mode rand : Nat) (neg : Bool) (n rem k : Nat) : Bool :=
  match mode with
  | 0 => decide (2 ^ k < 2 * rem) || (decide (2 * rem = 2 ^ k) && decide (n % 2 = 1))
  | 2 => neg && decide (0 < rem)
  | 3 => !neg && decide (0 < rem)
  | 4 => decide (2 ^ k ≤ 2 * rem)
  | 5 => decide (rand < rem * 2 ^ 32 / 2 ^ k)
  | _ => false

/-- `mant × 2^shift` rounded to an integer in a mode, and whether it was inexact (R81). -/
def roundMag (mode rand : Nat) (neg : Bool) (mant : Nat) (shift : Int) : Nat × Bool :=
  if 0 ≤ shift then (mant * 2 ^ shift.toNat, false)
  else
    let k := (-shift).toNat
    let n := mant / 2 ^ k
    let rem := mant % 2 ^ k
    let n1 := if roundsUp mode rand neg n rem k then n + 1 else n
    let n2 := if mode = 6 ∧ 0 < rem then n1 ||| 1 else n1
    (n2, decide (0 < rem))

/-- The result of an overflow, by mode, sign and .sat (R82). -/
def Fmt.overflow (f : Fmt) (mode : Nat) (neg sat : Bool) : Nat :=
  let toInf := mode = 0 ∨ mode = 4 ∨ mode = 5 ∨ (mode = 2 ∧ neg) ∨ (mode = 3 ∧ !neg)
  if sat ∨ ¬ toInf then f.maxCode neg
  else
    match f.special with
    | .ieee _ => f.infCode neg
    | .oneNan => f.nanCode
    | .none => f.maxCode neg

/-- round(x, fmt, mode) of R81 for x = (-1)^neg × mant × 2^exp, with its flags. -/
def Fmt.round (f : Fmt) (mode rand : Nat) (sat neg : Bool) (mant : Nat) (exp : Int) : Nat × BitVec 5 :=
  if mant = 0 then (f.pack neg 0, 0)
  else
    let emin : Int := 1 - f.bias
    let log : Int := (mant.log2 : Int) + exp
    let q : Int := max log emin - f.mbits
    let r := roundMag mode rand neg mant (exp - q)
    let mag := ((q + f.mbits + f.bias - 1).toNat) * 2 ^ f.mbits + r.1
    if f.maxMag < mag then (f.overflow mode neg sat, flagOF ||| flagNX)
    else
      (f.pack neg mag,
        (if r.2 then flagNX else 0) ||| (if r.2 ∧ log < emin then flagUF else 0))

/-! ### Exact products and sums (R245, R281) -/

/-- The negation of a value. -/
def FVal.neg : FVal → FVal
  | .nan s => .nan s
  | .inf n => .inf (!n)
  | .fin n m e => .fin (!n) m e

/-- Whether a value is a NaN. -/
def FVal.isNan : FVal → Bool
  | .nan _ => true
  | _ => false

/-- Whether a value is a signalling NaN. -/
def FVal.isSig : FVal → Bool
  | .nan s => s
  | _ => false

/-- The exact product, and whether it is the invalid 0 × ∞. -/
def FVal.mul : FVal → FVal → FVal × Bool
  | .nan s, .nan t => (.nan (s || t), false)
  | .nan s, _ => (.nan s, false)
  | _, .nan s => (.nan s, false)
  | .inf a, .inf b => (.inf (a != b), false)
  | .inf a, .fin b m _ => if m = 0 then (.nan false, true) else (.inf (a != b), false)
  | .fin b m _, .inf a => if m = 0 then (.nan false, true) else (.inf (a != b), false)
  | .fin a m e, .fin b k g => (.fin (a != b) (m * k) (e + g), false)

/-- An exact running sum: its integer multiple of 2^exp, whether a NaN, +∞, −∞ has been met, whether every term so far is
a zero of one sign, and that sign. -/
structure Sum where
  num : Int
  exp : Int
  nan : Bool
  pinf : Bool
  ninf : Bool
  zeros : Bool
  any : Bool
  sign : Bool
  deriving DecidableEq, Repr

/-- The empty sum. -/
def Sum.zero : Sum := ⟨0, 0, false, false, false, true, false, false⟩

/-- A term added. -/
def Sum.add (t : Sum) : FVal → Sum
  | .nan _ => { t with nan := true, zeros := false }
  | .inf neg => if neg then { t with ninf := true, zeros := false } else { t with pinf := true, zeros := false }
  | .fin neg m e =>
    let v : Int := if neg then -(m : Int) else m
    let s1 := if m = 0 then { t with zeros := t.zeros && (!t.any || t.sign == neg), sign := neg }
      else
        if t.num = 0 then { t with num := v, exp := e, zeros := false }
        else if t.exp ≤ e then { t with num := t.num + v * 2 ^ (e - t.exp).toNat, zeros := false }
        else { t with num := t.num * 2 ^ (t.exp - e).toNat + v, exp := e, zeros := false }
    { s1 with any := true }

/-- The exact sum of terms as a value, and whether it is the invalid ∞ − ∞; an exact zero takes the sign R81 gives it
(`rdn`: the mode is RDN). -/
def Sum.value (t : Sum) (rdn : Bool) : FVal × Bool :=
  let inv := t.pinf && t.ninf
  if t.nan || inv then (.nan false, inv)
  else if t.pinf then (.inf false, false)
  else if t.ninf then (.inf true, false)
  else if t.num = 0 then (.fin (if t.zeros && t.any then t.sign else rdn) 0 0, false)
  else (.fin (decide (t.num < 0)) t.num.natAbs t.exp, false)

/-- The exact sum of terms. -/
def sumOf (ts : List FVal) (rdn : Bool) : FVal × Bool := (ts.foldl Sum.add Sum.zero).value rdn

/-- A value of an operation rounded once into a format, with its flags; a NaN is the canonical one (R76, R245). -/
def Fmt.result (f : Fmt) (mode rand : Nat) : FVal → Nat × BitVec 5
  | .nan _ => (f.nanCode, 0)
  | .inf neg => (f.infCode neg, 0)
  | .fin neg m e => f.round mode rand false neg m e

/-- The sum of products and addends, one rounding: NV for a signalling operand, for 0 × ∞ and for ∞ − ∞ (R245, R251,
R252). -/
def Fmt.dot (f : Fmt) (mode rand : Nat) (products : List (FVal × FVal)) (addends : List FVal) : Nat × BitVec 5 :=
  let ps := products.map (fun p => FVal.mul p.1 p.2)
  let sig := addends.any FVal.isSig || products.any (fun p => p.1.isSig || p.2.isSig)
  let r := sumOf (ps.map Prod.fst ++ addends) (mode == 2)
  let out := f.result mode rand r.1
  (out.1, out.2 ||| (if sig || r.2 || ps.any Prod.snd then flagNV else 0))

/-- Float addition (R250). -/
def Fmt.add (f : Fmt) (mode rand a b : Nat) : Nat × BitVec 5 := f.dot mode rand [] [f.decode a, f.decode b]

/-- Float subtraction (R250): a NaN stays one whatever its sign. -/
def Fmt.sub (f : Fmt) (mode rand a b : Nat) : Nat × BitVec 5 := f.dot mode rand [] [f.decode a, (f.decode b).neg]

/-- Float multiplication (R250). -/
def Fmt.mul (f : Fmt) (mode rand a b : Nat) : Nat × BitVec 5 := f.dot mode rand [(f.decode a, f.decode b)] []

/-- Compare finite values or infinities as reals: a < b. -/
def FVal.lt : FVal → FVal → Bool
  | .inf a, .inf b => a && !b
  | .inf a, .fin _ _ _ => a
  | .fin _ _ _, .inf b => !b
  | .fin a m e, .fin b k g =>
    let lo := min e g
    let x : Int := (if a then -(m : Int) else m) * 2 ^ (e - lo).toNat
    let y : Int := (if b then -(k : Int) else k) * 2 ^ (g - lo).toNat
    decide (x < y)
  | _, _ => false

/-- The sign of a number. -/
def FVal.sign : FVal → Bool
  | .nan _ => false
  | .inf n => n
  | .fin n _ _ => n

/-- The order of minimumNumber: as reals, and −0 below +0 (R250). -/
def FVal.below (a b : FVal) : Bool := a.lt b || (!b.lt a && a.sign && !b.sign)

/-- minimumNumber, or maximumNumber, of IEEE 754-2019 (R250). -/
def Fmt.minMax (f : Fmt) (big : Bool) (a b : Nat) : Nat × BitVec 5 :=
  let x := f.decode a
  let y := f.decode b
  let fl := if x.isSig || y.isSig then flagNV else 0
  if x.isNan && y.isNan then (f.nanCode, fl)
  else if x.isNan then (b, fl)
  else if y.isNan then (a, fl)
  else if (if big then y.below x else x.below y) then (a, fl)
  else (b, fl)

/-! ### Element types and conversions (R73, R78, R87) -/

/-- What an element is: an integer of a width, or a float. -/
inductive ElemTy where
  | int (signed : Bool) (w : Nat)
  | flt (f : Fmt)
  deriving DecidableEq, Repr

/-- The vector types by code (R73). -/
def vecTy (ty : BitVec 5) : ElemTy :=
  match ty.toNat with
  | 0 => .int true 8
  | 1 => .int false 8
  | 2 => .int true 16
  | 3 => .int false 16
  | 4 => .int true 32
  | 5 => .int false 32
  | 6 => .int true 64
  | 7 => .int false 64
  | 8 => .flt fmtF16
  | 9 => .flt fmtBF16
  | 10 => .flt fmtF32
  | 12 => .flt fmtE5M2
  | 13 => .flt fmtE4M3
  | 14 => .flt fmtE3M4
  | 15 => .flt fmtE3M2
  | 16 => .flt fmtE2M3
  | 17 => .flt fmtE2M1
  | 18 => .int true 4
  | _ => .int false 4

/-- The float format of a vector float type. -/
def vecFmt (ty : BitVec 5) : Fmt :=
  match vecTy ty with
  | .flt f => f
  | .int _ _ => fmtF32

/-- The integer an encoding of `w` bits stands for, signed or unsigned. -/
def intOf (signed : Bool) (w x : Nat) : Int :=
  let y := x % 2 ^ w
  if signed ∧ 2 ^ (w - 1) ≤ y then (y : Int) - 2 ^ w else y

/-- The `w` low bits of an integer. -/
def codeOf (w : Nat) (v : Int) : Nat := (v % (2 ^ w : Int)).toNat

/-- Least value of an integer type. -/
def intMin (signed : Bool) (w : Nat) : Int := if signed then -(2 ^ (w - 1) : Int) else 0

/-- Greatest value of an integer type. -/
def intMax (signed : Bool) (w : Nat) : Int := if signed then 2 ^ (w - 1) - 1 else 2 ^ w - 1

/-- An integer clamped to a type's range. -/
def clampInt (signed : Bool) (w : Nat) (v : Int) : Int := max (intMin signed w) (min v (intMax signed w))

/-- A finite value rounded to an integer type: out of range it saturates with NV (R81, R87). R81 gives an integer format no
smallest exponent: an inexact magnitude below 1 sets NX and never UF (DESIGN CHOICE, log 49). -/
def roundInt (signed : Bool) (w mode rand : Nat) (neg : Bool) (mant : Nat) (exp : Int) : Nat × BitVec 5 :=
  let r := roundMag mode rand neg mant exp
  let v : Int := if neg then -(r.1 : Int) else r.1
  let c := clampInt signed w v
  if c ≠ v then (codeOf w c, flagNV) else (codeOf w v, if r.2 then flagNX else 0)

/-- A conversion (R87): the encoding in the destination type and the flags. An infinity that is converted with .sat to its own
type gives the largest finite magnitude, as R87's table has it, though R256 calls such a conversion unchanged; a destination
F19, which R87's table does not list, takes infinities and NaNs as F32's row does (DESIGN CHOICE, log 49). -/
def convert (src dst : ElemTy) (mode rand : Nat) (sat : Bool) (x : Nat) : Nat × BitVec 5 :=
  match src, dst with
  | .int sg w, .int dg k =>
    let v := intOf sg w x
    (codeOf k (if sat then clampInt dg k v else v), 0)
  | .int sg w, .flt f =>
    let v := intOf sg w x
    f.round mode rand sat (decide (v < 0)) v.natAbs 0
  | .flt g, .int dg k =>
    match g.decode x with
    | .nan _ => (0, flagNV)
    | .inf neg => (codeOf k (if neg then intMin dg k else intMax dg k), flagNV)
    | .fin neg m e => roundInt dg k mode rand neg m e
  | .flt g, .flt f =>
    match g.decode x with
    | .nan sig =>
      match f.special with
      | .none => (0, flagNV)
      | _ => (f.nanCode, if sig then flagNV else 0)
    | .inf neg =>
      match f.special with
      | .ieee _ => (if sat then f.maxCode neg else f.infCode neg, 0)
      | .oneNan => if sat then (f.maxCode neg, 0) else (f.nanCode, flagNV)
      | .none => (f.maxCode neg, flagNV)
    | .fin neg m e => f.round mode rand sat neg m e

/-! ### The random stream (R88) -/

/-- H(SEED, DRAW, i) of R88. -/
def randHash (seed draw : Dword) (i : Nat) : Dword :=
  let mix := fun (x : Dword) => (x ^^^ (x >>> 32)) * 0xD6E8FEB86659FD93
  let x0 := seed ^^^ (draw * 0x9E3779B97F4A7C15) ^^^ (BitVec.ofNat 64 i * 0xD1B54A32D192ED03)
  let x2 := mix (mix x0)
  x2 ^^^ (x2 >>> 32)

/-- The random word of element `i` (R88). -/
def randWord (seed draw : Dword) (i : Nat) : Nat := (randHash seed draw i).toNat % 2 ^ 32

/-! ### Lanes (R72, R242) -/

/-- Lane `i` of width `w` of a vector register. -/
def lane (w i : Nat) (v : VReg) : Nat := v.toNat / 2 ^ (w * i) % 2 ^ w

/-- The number whose lanes of width `w` are the list, lane 0 lowest. -/
def joinLanes (w : Nat) : List Nat → Nat
  | [] => 0
  | x :: xs => x % 2 ^ w + 2 ^ w * joinLanes w xs

/-- A vector register from its lanes; bits above the last lane are zero. -/
def ofLanes (w : Nat) (xs : List Nat) : VReg := BitVec.ofNat 512 (joinLanes w xs)

/-- A masked lane map: enabled lanes take the function's result and flags, the others keep the old value (R242,
R244). -/
def mapLanes (w n : Nat) (mask : Dword) (old : VReg) (f : Nat → Nat × BitVec 5) : VReg × BitVec 5 :=
  let rs := (List.range n).map (fun i => if mask.getLsbD i then f i else (lane w i old, 0))
  (ofLanes w (rs.map Prod.fst), rs.foldl (fun fl r => fl ||| r.2) 0)

end Sys2Proof.Machine
end

