-- ==== Sys2Proof/Decode.lean ====
section
/-!
DEFINITION. The decoder, total on any bytes and rejecting by name, and the encoder, both written from the encoding
tables (R50 to R59). Bit 0 is the least significant bit of the first halfword (R50).
-/
namespace Sys2Proof

/-- Why bytes are no instruction (R51, R53). -/
inductive DecodeError where
  /-- The bytes end before the instruction does (R52). -/
  | truncated
  /-- A major opcode that R51 reserves. -/
  | reservedMajor
  /-- A function, condition or selector code that R56 does not assign. -/
  | unassigned
  /-- A nonzero bit in a field the instruction does not use (R53). -/
  | nonzeroField
  /-- A field value outside the limits of R53, R57 and R58. -/
  | badField
  /-- The halfword 0x0000 or the word 0xFFFF_FFFF (R51). -/
  | illegal
  deriving DecidableEq, Repr

/-- bits(w, lo + n - 1, lo) as a number. -/
def fld (w lo n : Nat) : Nat := w / 2 ^ lo % 2 ^ n

/-- Major 0x01 (R56): ADD, SUB, AND, OR, XOR, ANDN, MUL, MULH_S, MULH_N, DIV_S, DIV_N, REM_S, REM_N, MIN_S, MIN_N, MAX_S, MAX_N, SEQ, SNE, SLT_S, SLT_N, SHL, SHR, SAR, ROL,. -/
def decodeMajor01 (w : Nat) : Except DecodeError Instr :=
  match fld w 22 10 with
  | 0 => .ok (.add (bitsOf w 7 5) (bitsOf w 12 5) (bitsOf w 17 5))
  | 1 => .ok (.sub (bitsOf w 7 5) (bitsOf w 12 5) (bitsOf w 17 5))
  | 2 => .ok (.and (bitsOf w 7 5) (bitsOf w 12 5) (bitsOf w 17 5))
  | 3 => .ok (.or (bitsOf w 7 5) (bitsOf w 12 5) (bitsOf w 17 5))
  | 4 => .ok (.xor (bitsOf w 7 5) (bitsOf w 12 5) (bitsOf w 17 5))
  | 5 => .ok (.andn (bitsOf w 7 5) (bitsOf w 12 5) (bitsOf w 17 5))
  | 6 => .ok (.mul (bitsOf w 7 5) (bitsOf w 12 5) (bitsOf w 17 5))
  | 7 => .ok (.mulhS (bitsOf w 7 5) (bitsOf w 12 5) (bitsOf w 17 5))
  | 8 => .ok (.mulhN (bitsOf w 7 5) (bitsOf w 12 5) (bitsOf w 17 5))
  | 9 => .ok (.divS (bitsOf w 7 5) (bitsOf w 12 5) (bitsOf w 17 5))
  | 10 => .ok (.divN (bitsOf w 7 5) (bitsOf w 12 5) (bitsOf w 17 5))
  | 11 => .ok (.remS (bitsOf w 7 5) (bitsOf w 12 5) (bitsOf w 17 5))
  | 12 => .ok (.remN (bitsOf w 7 5) (bitsOf w 12 5) (bitsOf w 17 5))
  | 13 => .ok (.minS (bitsOf w 7 5) (bitsOf w 12 5) (bitsOf w 17 5))
  | 14 => .ok (.minN (bitsOf w 7 5) (bitsOf w 12 5) (bitsOf w 17 5))
  | 15 => .ok (.maxS (bitsOf w 7 5) (bitsOf w 12 5) (bitsOf w 17 5))
  | 16 => .ok (.maxN (bitsOf w 7 5) (bitsOf w 12 5) (bitsOf w 17 5))
  | 17 => .ok (.seq (bitsOf w 7 5) (bitsOf w 12 5) (bitsOf w 17 5))
  | 18 => .ok (.sne (bitsOf w 7 5) (bitsOf w 12 5) (bitsOf w 17 5))
  | 19 => .ok (.sltS (bitsOf w 7 5) (bitsOf w 12 5) (bitsOf w 17 5))
  | 20 => .ok (.sltN (bitsOf w 7 5) (bitsOf w 12 5) (bitsOf w 17 5))
  | 21 => .ok (.shl (bitsOf w 7 5) (bitsOf w 12 5) (bitsOf w 17 5))
  | 22 => .ok (.shr (bitsOf w 7 5) (bitsOf w 12 5) (bitsOf w 17 5))
  | 23 => .ok (.sar (bitsOf w 7 5) (bitsOf w 12 5) (bitsOf w 17 5))
  | 24 => .ok (.rol (bitsOf w 7 5) (bitsOf w 12 5) (bitsOf w 17 5))
  | 25 => .ok (.addw (bitsOf w 7 5) (bitsOf w 12 5) (bitsOf w 17 5))
  | 26 => .ok (.subw (bitsOf w 7 5) (bitsOf w 12 5) (bitsOf w 17 5))
  | 27 => .ok (.mulw (bitsOf w 7 5) (bitsOf w 12 5) (bitsOf w 17 5))
  | _ => .error .unassigned

/-- Major 0x02 (R56): ADDI, ANDI, ORI, XORI, SLTI_S, SLTI_N, SHLI, SHRI, SARI. -/
def decodeMajor02 (w : Nat) : Except DecodeError Instr :=
  match fld w 17 3 with
  | 0 => .ok (.addi (bitsOf w 7 5) (bitsOf w 12 5) (bitsOf w 20 12))
  | 1 => .ok (.andi (bitsOf w 7 5) (bitsOf w 12 5) (bitsOf w 20 12))
  | 2 => .ok (.ori (bitsOf w 7 5) (bitsOf w 12 5) (bitsOf w 20 12))
  | 3 => .ok (.xori (bitsOf w 7 5) (bitsOf w 12 5) (bitsOf w 20 12))
  | 4 => .ok (.sltiS (bitsOf w 7 5) (bitsOf w 12 5) (bitsOf w 20 12))
  | 5 => .ok (.sltiN (bitsOf w 7 5) (bitsOf w 12 5) (bitsOf w 20 12))
  | 7 =>
    match fld w 26 6 with
    | 0 => .ok (.shli (bitsOf w 7 5) (bitsOf w 12 5) (bitsOf w 20 6))
    | 16 => .ok (.shri (bitsOf w 7 5) (bitsOf w 12 5) (bitsOf w 20 6))
    | 32 => .ok (.sari (bitsOf w 7 5) (bitsOf w 12 5) (bitsOf w 20 6))
    | _ => .error .unassigned
  | _ => .error .unassigned

/-- Major 0x03 (R56): LIH. -/
def decodeMajor03 (w : Nat) : Except DecodeError Instr :=
  .ok (.lih (bitsOf w 7 5) (bitsOf w 12 20))

/-- Major 0x04 (R56): LIT. -/
def decodeMajor04 (w : Nat) : Except DecodeError Instr :=
  .ok (.lit (bitsOf w 7 5) (bitsOf w 12 20))

/-- Major 0x05 (R56): CLZ, CTZ, POPC, BREV, BSWAP. -/
def decodeMajor05 (w : Nat) : Except DecodeError Instr :=
  match fld w 17 15 with
  | 0 => .ok (.clz (bitsOf w 7 5) (bitsOf w 12 5))
  | 32 => .ok (.ctz (bitsOf w 7 5) (bitsOf w 12 5))
  | 64 => .ok (.popc (bitsOf w 7 5) (bitsOf w 12 5))
  | 96 => .ok (.brev (bitsOf w 7 5) (bitsOf w 12 5))
  | 128 => .ok (.bswap (bitsOf w 7 5) (bitsOf w 12 5))
  | _ => .error .unassigned

/-- Major 0x06 (R56): SEL, BFX, BFI, LEA. -/
def decodeMajor06 (w : Nat) : Except DecodeError Instr :=
  match fld w 29 3 with
  | 0 =>
    if fld w 27 2 = 0 then .ok (.sel (bitsOf w 7 5) (bitsOf w 12 5) (bitsOf w 17 5) (bitsOf w 22 5))
    else .error .nonzeroField
  | 2 => .ok (.bfx (bitsOf w 7 5) (bitsOf w 12 5) (bitsOf w 17 6) (bitsOf w 23 6))
  | 4 => .ok (.bfi (bitsOf w 7 5) (bitsOf w 12 5) (bitsOf w 17 6) (bitsOf w 23 6))
  | 6 =>
    if fld w 25 4 = 0 then .ok (.lea (bitsOf w 7 5) (bitsOf w 12 5) (bitsOf w 17 5) (bitsOf w 22 3))
    else .error .nonzeroField
  | _ => .error .unassigned

/-- Major 0x07 (R56): SLICE. -/
def decodeMajor07 (w : Nat) : Except DecodeError Instr :=
  if fld w 24 8 = 0 then .ok (.slice (bitsOf w 7 5) (bitsOf w 12 5) (bitsOf w 17 5) (bitsOf w 22 2))
  else .error .nonzeroField

/-- Major 0x08 (R56): BEQ, BNE, BLT, BGE, BLTN, BGEN. -/
def decodeMajor08 (w : Nat) : Except DecodeError Instr :=
  match fld w 17 3 with
  | 0 => .ok (.beq (bitsOf w 7 5) (bitsOf w 12 5) (bitsOf w 20 12))
  | 1 => .ok (.bne (bitsOf w 7 5) (bitsOf w 12 5) (bitsOf w 20 12))
  | 2 => .ok (.blt (bitsOf w 7 5) (bitsOf w 12 5) (bitsOf w 20 12))
  | 3 => .ok (.bge (bitsOf w 7 5) (bitsOf w 12 5) (bitsOf w 20 12))
  | 4 => .ok (.bltn (bitsOf w 7 5) (bitsOf w 12 5) (bitsOf w 20 12))
  | 5 => .ok (.bgen (bitsOf w 7 5) (bitsOf w 12 5) (bitsOf w 20 12))
  | _ => .error .unassigned

/-- Major 0x09 (R56): JAL. -/
def decodeMajor09 (w : Nat) : Except DecodeError Instr :=
  .ok (.jal (bitsOf w 7 5) (bitsOf w 12 20))

/-- Major 0x0A (R56): JALR. -/
def decodeMajor0A (w : Nat) : Except DecodeError Instr :=
  if fld w 17 3 = 0 then .ok (.jalr (bitsOf w 7 5) (bitsOf w 12 5) (bitsOf w 20 12))
  else .error .nonzeroField

/-- Major 0x0B (R56): LOOP, LOOPI, LBRK, BENCH, BENCH_F, SPLIT, BXCH. -/
def decodeMajor0B (w : Nat) : Except DecodeError Instr :=
  match fld w 7 1 with
  | 0 =>
    match fld w 8 3 with
    | 0 => .ok (.loop (bitsOf w 11 5) (bitsOf w 16 16))
    | 1 =>
      if fld w 11 21 = 0 then .ok (.lbrk)
      else .error .nonzeroField
    | 2 =>
      if fld w 14 18 = 0 then .ok (.bench (bitsOf w 11 3))
      else .error .nonzeroField
    | 3 =>
      if fld w 14 18 = 0 then .ok (.benchF (bitsOf w 11 3))
      else .error .nonzeroField
    | 4 =>
      if fld w 11 21 = 0 then .ok (.split)
      else .error .nonzeroField
    | 5 =>
      if fld w 20 12 = 0 then .ok (.bxch (bitsOf w 11 4) (bitsOf w 15 4) (bitsOf w 19 1))
      else .error .nonzeroField
    | _ => .error .unassigned
  | 1 => .ok (.loopi (bitsOf w 8 8) (bitsOf w 16 16))
  | _ => .error .unassigned

/-- Major 0x0C (R56): LD_S8, LD_N8, LD_S16, LD_N16, LD_S32, LD_N32, LD_64. -/
def decodeMajor0C (w : Nat) : Except DecodeError Instr :=
  match fld w 17 3 with
  | 0 => .ok (.ldS8 (bitsOf w 7 5) (bitsOf w 12 5) (bitsOf w 20 12))
  | 1 => .ok (.ldN8 (bitsOf w 7 5) (bitsOf w 12 5) (bitsOf w 20 12))
  | 2 => .ok (.ldS16 (bitsOf w 7 5) (bitsOf w 12 5) (bitsOf w 20 12))
  | 3 => .ok (.ldN16 (bitsOf w 7 5) (bitsOf w 12 5) (bitsOf w 20 12))
  | 4 => .ok (.ldS32 (bitsOf w 7 5) (bitsOf w 12 5) (bitsOf w 20 12))
  | 5 => .ok (.ldN32 (bitsOf w 7 5) (bitsOf w 12 5) (bitsOf w 20 12))
  | 6 => .ok (.ld64 (bitsOf w 7 5) (bitsOf w 12 5) (bitsOf w 20 12))
  | _ => .error .unassigned

/-- Major 0x0D (R56): ST_8, ST_16, ST_32, ST_64. -/
def decodeMajor0D (w : Nat) : Except DecodeError Instr :=
  match fld w 17 3 with
  | 0 => .ok (.st8 (bitsOf w 7 5) (bitsOf w 12 5) (bitsOf w 20 12))
  | 1 => .ok (.st16 (bitsOf w 7 5) (bitsOf w 12 5) (bitsOf w 20 12))
  | 2 => .ok (.st32 (bitsOf w 7 5) (bitsOf w 12 5) (bitsOf w 20 12))
  | 3 => .ok (.st64 (bitsOf w 7 5) (bitsOf w 12 5) (bitsOf w 20 12))
  | _ => .error .unassigned

/-- Major 0x0E (R56): LDX, STX. -/
def decodeMajor0E (w : Nat) : Except DecodeError Instr :=
  match fld w 25 3 with
  | 0 =>
    if fld w 31 1 = 0 then .ok (.ldx (bitsOf w 7 5) (bitsOf w 12 5) (bitsOf w 17 5) (bitsOf w 22 2) (bitsOf w 24 1) (bitsOf w 28 3))
    else .error .nonzeroField
  | 4 =>
    if fld w 24 1 = 0 ∧ fld w 31 1 = 0 then .ok (.stx (bitsOf w 7 5) (bitsOf w 12 5) (bitsOf w 17 5) (bitsOf w 22 2) (bitsOf w 28 3))
    else .error .nonzeroField
  | _ => .error .unassigned

/-- Major 0x0F (R56): VLD, VST, VLDS, VSTS. -/
def decodeMajor0F (w : Nat) : Except DecodeError Instr :=
  match fld w 19 2 with
  | 0 => .ok (.vld (bitsOf w 7 4) (bitsOf w 11 5) (bitsOf w 16 3) (bitsOf w 21 2) (bitsOf w 23 9))
  | 1 => .ok (.vst (bitsOf w 7 4) (bitsOf w 11 5) (bitsOf w 16 3) (bitsOf w 21 2) (bitsOf w 23 9))
  | 2 =>
    if fld w 28 4 = 0 then .ok (.vlds (bitsOf w 7 4) (bitsOf w 11 5) (bitsOf w 16 3) (bitsOf w 21 2) (bitsOf w 23 5))
    else .error .nonzeroField
  | 3 =>
    if fld w 28 4 = 0 then .ok (.vsts (bitsOf w 7 4) (bitsOf w 11 5) (bitsOf w 16 3) (bitsOf w 21 2) (bitsOf w 23 5))
    else .error .nonzeroField
  | _ => .error .unassigned

/-- Major 0x10 (R56): VGTH, VSCT. -/
def decodeMajor10 (w : Nat) : Except DecodeError Instr :=
  match fld w 25 1 with
  | 0 =>
    if fld w 28 4 = 0 then .ok (.vgth (bitsOf w 7 4) (bitsOf w 11 5) (bitsOf w 16 4) (bitsOf w 20 3) (bitsOf w 23 2) (bitsOf w 26 2))
    else .error .nonzeroField
  | 1 =>
    if fld w 28 4 = 0 then .ok (.vsct (bitsOf w 7 4) (bitsOf w 11 5) (bitsOf w 16 4) (bitsOf w 20 3) (bitsOf w 23 2) (bitsOf w 26 2))
    else .error .nonzeroField
  | _ => .error .unassigned

/-- Major 0x11 (R56): LDF, LDF_C, STF, FECLR. -/
def decodeMajor11 (w : Nat) : Except DecodeError Instr :=
  match fld w 17 3 with
  | 0 => .ok (.ldf (bitsOf w 7 5) (bitsOf w 12 5) (bitsOf w 20 12))
  | 1 => .ok (.ldfC (bitsOf w 7 5) (bitsOf w 12 5) (bitsOf w 20 12))
  | 2 => .ok (.stf (bitsOf w 7 5) (bitsOf w 12 5) (bitsOf w 20 12))
  | 3 =>
    if fld w 20 12 = 0 then .ok (.feclr (bitsOf w 7 5) (bitsOf w 12 5))
    else .error .nonzeroField
  | _ => .error .unassigned

/-- Major 0x12 (R56): LDAQ, STRL. -/
def decodeMajor12 (w : Nat) : Except DecodeError Instr :=
  match fld w 21 1 with
  | 0 => .ok (.ldaq (bitsOf w 7 5) (bitsOf w 12 5) (bitsOf w 17 3) (bitsOf w 20 1) (bitsOf w 22 10))
  | 1 => .ok (.strl (bitsOf w 7 5) (bitsOf w 12 5) (bitsOf w 17 3) (bitsOf w 20 1) (bitsOf w 22 10))
  | _ => .error .unassigned

/-- Major 0x13 (R56): FENCE, FENCE_ACQ, FENCE_REL, PREF, NCINV, CINV. -/
def decodeMajor13 (w : Nat) : Except DecodeError Instr :=
  match fld w 17 3 with
  | 0 =>
    match fld w 23 9 with
    | 0 =>
      if fld w 7 10 = 0 then .ok (.fence (bitsOf w 20 3))
      else .error .nonzeroField
    | 1 =>
      if fld w 7 10 = 0 then .ok (.fenceAcq (bitsOf w 20 3))
      else .error .nonzeroField
    | 2 =>
      if fld w 7 10 = 0 then .ok (.fenceRel (bitsOf w 20 3))
      else .error .nonzeroField
    | _ => .error .unassigned
  | 1 =>
    if fld w 9 3 = 0 then .ok (.pref (bitsOf w 7 2) (bitsOf w 12 5) (bitsOf w 20 12))
    else .error .nonzeroField
  | 2 =>
    if fld w 7 5 = 0 then .ok (.ncinv (bitsOf w 12 5) (bitsOf w 20 12))
    else .error .nonzeroField
  | 3 =>
    if fld w 7 5 = 0 then .ok (.cinv (bitsOf w 12 5) (bitsOf w 20 12))
    else .error .nonzeroField
  | _ => .error .unassigned

/-- Major 0x14 (R56): AMO_ADD, AMO_AND, AMO_OR, AMO_XOR, AMO_MIN_S, AMO_MIN_N, AMO_MAX_S, AMO_MAX_N, AMO_SWAP, AMO_CAS, AMO_FADD_F32, AMO_FADD_BF16X2, AMO_FMAX_F32. -/
def decodeMajor14 (w : Nat) : Except DecodeError Instr :=
  match fld w 22 4 with
  | 0 => .ok (.amoAdd (bitsOf w 7 5) (bitsOf w 12 5) (bitsOf w 17 5) (bitsOf w 26 1) (bitsOf w 27 2) (bitsOf w 29 3))
  | 1 => .ok (.amoAnd (bitsOf w 7 5) (bitsOf w 12 5) (bitsOf w 17 5) (bitsOf w 26 1) (bitsOf w 27 2) (bitsOf w 29 3))
  | 2 => .ok (.amoOr (bitsOf w 7 5) (bitsOf w 12 5) (bitsOf w 17 5) (bitsOf w 26 1) (bitsOf w 27 2) (bitsOf w 29 3))
  | 3 => .ok (.amoXor (bitsOf w 7 5) (bitsOf w 12 5) (bitsOf w 17 5) (bitsOf w 26 1) (bitsOf w 27 2) (bitsOf w 29 3))
  | 4 => .ok (.amoMinS (bitsOf w 7 5) (bitsOf w 12 5) (bitsOf w 17 5) (bitsOf w 26 1) (bitsOf w 27 2) (bitsOf w 29 3))
  | 5 => .ok (.amoMinN (bitsOf w 7 5) (bitsOf w 12 5) (bitsOf w 17 5) (bitsOf w 26 1) (bitsOf w 27 2) (bitsOf w 29 3))
  | 6 => .ok (.amoMaxS (bitsOf w 7 5) (bitsOf w 12 5) (bitsOf w 17 5) (bitsOf w 26 1) (bitsOf w 27 2) (bitsOf w 29 3))
  | 7 => .ok (.amoMaxN (bitsOf w 7 5) (bitsOf w 12 5) (bitsOf w 17 5) (bitsOf w 26 1) (bitsOf w 27 2) (bitsOf w 29 3))
  | 8 => .ok (.amoSwap (bitsOf w 7 5) (bitsOf w 12 5) (bitsOf w 17 5) (bitsOf w 26 1) (bitsOf w 27 2) (bitsOf w 29 3))
  | 9 => .ok (.amoCas (bitsOf w 7 5) (bitsOf w 12 5) (bitsOf w 17 5) (bitsOf w 26 1) (bitsOf w 27 2) (bitsOf w 29 3))
  | 10 =>
    if fld w 26 1 = 0 then .ok (.amoFaddF32 (bitsOf w 7 5) (bitsOf w 12 5) (bitsOf w 17 5) (bitsOf w 27 2) (bitsOf w 29 3))
    else .error .nonzeroField
  | 11 =>
    if fld w 26 1 = 0 then .ok (.amoFaddBf16x2 (bitsOf w 7 5) (bitsOf w 12 5) (bitsOf w 17 5) (bitsOf w 27 2) (bitsOf w 29 3))
    else .error .nonzeroField
  | 12 =>
    if fld w 26 1 = 0 then .ok (.amoFmaxF32 (bitsOf w 7 5) (bitsOf w 12 5) (bitsOf w 17 5) (bitsOf w 27 2) (bitsOf w 29 3))
    else .error .nonzeroField
  | _ => .error .unassigned

/-- Major 0x15 (R56): RED_ADD, RED_AND, RED_OR, RED_XOR, RED_MIN_S, RED_MIN_N, RED_MAX_S, RED_MAX_N, RED_FADD_F32, RED_FADD_BF16X2, RED_FMAX_F32. -/
def decodeMajor15 (w : Nat) : Except DecodeError Instr :=
  match fld w 22 4 with
  | 0 =>
    if fld w 7 5 = 0 ∧ fld w 27 1 = 0 then .ok (.redAdd (bitsOf w 12 5) (bitsOf w 17 5) (bitsOf w 26 1) (bitsOf w 28 1) (bitsOf w 29 3))
    else .error .nonzeroField
  | 1 =>
    if fld w 7 5 = 0 ∧ fld w 27 1 = 0 then .ok (.redAnd (bitsOf w 12 5) (bitsOf w 17 5) (bitsOf w 26 1) (bitsOf w 28 1) (bitsOf w 29 3))
    else .error .nonzeroField
  | 2 =>
    if fld w 7 5 = 0 ∧ fld w 27 1 = 0 then .ok (.redOr (bitsOf w 12 5) (bitsOf w 17 5) (bitsOf w 26 1) (bitsOf w 28 1) (bitsOf w 29 3))
    else .error .nonzeroField
  | 3 =>
    if fld w 7 5 = 0 ∧ fld w 27 1 = 0 then .ok (.redXor (bitsOf w 12 5) (bitsOf w 17 5) (bitsOf w 26 1) (bitsOf w 28 1) (bitsOf w 29 3))
    else .error .nonzeroField
  | 4 =>
    if fld w 7 5 = 0 ∧ fld w 27 1 = 0 then .ok (.redMinS (bitsOf w 12 5) (bitsOf w 17 5) (bitsOf w 26 1) (bitsOf w 28 1) (bitsOf w 29 3))
    else .error .nonzeroField
  | 5 =>
    if fld w 7 5 = 0 ∧ fld w 27 1 = 0 then .ok (.redMinN (bitsOf w 12 5) (bitsOf w 17 5) (bitsOf w 26 1) (bitsOf w 28 1) (bitsOf w 29 3))
    else .error .nonzeroField
  | 6 =>
    if fld w 7 5 = 0 ∧ fld w 27 1 = 0 then .ok (.redMaxS (bitsOf w 12 5) (bitsOf w 17 5) (bitsOf w 26 1) (bitsOf w 28 1) (bitsOf w 29 3))
    else .error .nonzeroField
  | 7 =>
    if fld w 7 5 = 0 ∧ fld w 27 1 = 0 then .ok (.redMaxN (bitsOf w 12 5) (bitsOf w 17 5) (bitsOf w 26 1) (bitsOf w 28 1) (bitsOf w 29 3))
    else .error .nonzeroField
  | 10 =>
    if fld w 7 5 = 0 ∧ fld w 26 2 = 0 then .ok (.redFaddF32 (bitsOf w 12 5) (bitsOf w 17 5) (bitsOf w 28 1) (bitsOf w 29 3))
    else .error .nonzeroField
  | 11 =>
    if fld w 7 5 = 0 ∧ fld w 26 2 = 0 then .ok (.redFaddBf16x2 (bitsOf w 12 5) (bitsOf w 17 5) (bitsOf w 28 1) (bitsOf w 29 3))
    else .error .nonzeroField
  | 12 =>
    if fld w 7 5 = 0 ∧ fld w 26 2 = 0 then .ok (.redFmaxF32 (bitsOf w 12 5) (bitsOf w 17 5) (bitsOf w 28 1) (bitsOf w 29 3))
    else .error .nonzeroField
  | _ => .error .unassigned

/-- Major 0x16 (R56): MARM, MWAIT, MDISARM, MDISARM_ALL. -/
def decodeMajor16 (w : Nat) : Except DecodeError Instr :=
  match fld w 17 3 with
  | 0 =>
    if fld w 9 3 = 0 then .ok (.marm (bitsOf w 7 2) (bitsOf w 12 5) (bitsOf w 20 12))
    else .error .nonzeroField
  | 1 =>
    if fld w 20 12 = 0 then .ok (.mwait (bitsOf w 7 5) (bitsOf w 12 5))
    else .error .nonzeroField
  | 2 =>
    match fld w 20 12 with
    | 0 =>
      if fld w 9 8 = 0 then .ok (.mdisarm (bitsOf w 7 2))
      else .error .nonzeroField
    | 1 =>
      if fld w 7 10 = 0 then .ok (.mdisarmAll)
      else .error .nonzeroField
    | _ => .error .unassigned
  | _ => .error .unassigned

/-- Major 0x17 (R56): BAR, BARA, BARW, GBAR, CWAIT, CADD, CSET, CRD. -/
def decodeMajor17 (w : Nat) : Except DecodeError Instr :=
  match fld w 27 5 with
  | 0 =>
    if fld w 7 5 = 0 ∧ fld w 16 6 = 0 then .ok (.bar (bitsOf w 12 4) (bitsOf w 22 5))
    else .error .nonzeroField
  | 1 =>
    if fld w 7 5 = 0 ∧ fld w 16 6 = 0 then .ok (.bara (bitsOf w 12 4) (bitsOf w 22 5))
    else .error .nonzeroField
  | 2 =>
    if fld w 7 15 = 0 then .ok (.barw (bitsOf w 22 5))
    else .error .nonzeroField
  | 3 =>
    if fld w 7 15 = 0 ∧ fld w 24 3 = 0 then .ok (.gbar (bitsOf w 22 2))
    else .error .nonzeroField
  | 4 => .ok (.cwait (bitsOf w 7 5) (bitsOf w 12 5) (bitsOf w 17 5) (bitsOf w 22 5))
  | 5 =>
    if fld w 7 5 = 0 ∧ fld w 17 5 = 0 then .ok (.cadd (bitsOf w 12 5) (bitsOf w 22 5))
    else .error .nonzeroField
  | 6 =>
    if fld w 7 5 = 0 ∧ fld w 17 5 = 0 then .ok (.cset (bitsOf w 12 5) (bitsOf w 22 5))
    else .error .nonzeroField
  | 7 =>
    if fld w 12 10 = 0 then .ok (.crd (bitsOf w 7 5) (bitsOf w 22 5))
    else .error .nonzeroField
  | _ => .error .unassigned

/-- Major 0x18 (R56): SEND, SENDM, SENDL, MRECV. -/
def decodeMajor18 (w : Nat) : Except DecodeError Instr :=
  match fld w 29 3 with
  | 0 =>
    if fld w 17 5 = 0 then .ok (.send (bitsOf w 7 5) (bitsOf w 12 5) (bitsOf w 22 5) (bitsOf w 27 2))
    else .error .nonzeroField
  | 2 =>
    if fld w 27 2 = 0 then .ok (.sendm (bitsOf w 7 5) (bitsOf w 12 5) (bitsOf w 17 5) (bitsOf w 22 5))
    else .error .nonzeroField
  | 4 =>
    if fld w 12 5 = 0 ∧ fld w 27 2 = 0 then .ok (.sendl (bitsOf w 7 5) (bitsOf w 17 5) (bitsOf w 22 5))
    else .error .nonzeroField
  | 6 =>
    if fld w 17 12 = 0 then .ok (.mrecv (bitsOf w 7 5) (bitsOf w 12 5))
    else .error .nonzeroField
  | _ => .error .unassigned

/-- Major 0x19 (R56): QGET, QPUT, VQGET, VQPUT, QSTAT. -/
def decodeMajor19 (w : Nat) : Except DecodeError Instr :=
  match fld w 25 7 with
  | 0 =>
    if fld w 12 10 = 0 then .ok (.qget (bitsOf w 7 5) (bitsOf w 22 3))
    else .error .nonzeroField
  | 4 =>
    if fld w 7 5 = 0 ∧ fld w 17 5 = 0 then .ok (.qput (bitsOf w 12 5) (bitsOf w 22 3))
    else .error .nonzeroField
  | 8 =>
    if fld w 11 11 = 0 then .ok (.vqget (bitsOf w 7 4) (bitsOf w 22 3))
    else .error .nonzeroField
  | 12 =>
    if fld w 7 5 = 0 ∧ fld w 16 6 = 0 then .ok (.vqput (bitsOf w 12 4) (bitsOf w 22 3))
    else .error .nonzeroField
  | 16 =>
    if fld w 12 10 = 0 then .ok (.qstat (bitsOf w 7 5) (bitsOf w 22 3))
    else .error .nonzeroField
  | _ => .error .unassigned

/-- Major 0x1A (R56): CLSW, CHFREE, CHSYNC. -/
def decodeMajor1A (w : Nat) : Except DecodeError Instr :=
  match fld w 27 5 with
  | 0 =>
    if fld w 7 5 = 0 ∧ fld w 17 5 = 0 then .ok (.clsw (bitsOf w 12 5) (bitsOf w 22 5))
    else .error .nonzeroField
  | 1 =>
    if fld w 7 5 = 0 ∧ fld w 17 5 = 0 then .ok (.chfree (bitsOf w 12 5) (bitsOf w 22 5))
    else .error .nonzeroField
  | 2 =>
    if fld w 17 10 = 0 then .ok (.chsync (bitsOf w 7 5) (bitsOf w 12 5))
    else .error .nonzeroField
  | _ => .error .unassigned

/-- Major 0x1B (R56): NLOOK, NINV. -/
def decodeMajor1B (w : Nat) : Except DecodeError Instr :=
  match fld w 17 15 with
  | 0 => .ok (.nlook (bitsOf w 7 5) (bitsOf w 12 5))
  | 1024 =>
    if fld w 7 5 = 0 then .ok (.ninv (bitsOf w 12 5))
    else .error .nonzeroField
  | _ => .error .unassigned

/-- Major 0x1C (R56): VADD, VSUB, VMUL, VMULH, VMIN, VMAX, VABS, VNEG. -/
def decodeMajor1C (w : Nat) : Except DecodeError Instr :=
  match fld w 27 4 with
  | 0 => .ok (.vadd (bitsOf w 7 4) (bitsOf w 11 4) (bitsOf w 15 4) (bitsOf w 19 3) (bitsOf w 22 5) (bitsOf w 31 1))
  | 1 => .ok (.vsub (bitsOf w 7 4) (bitsOf w 11 4) (bitsOf w 15 4) (bitsOf w 19 3) (bitsOf w 22 5) (bitsOf w 31 1))
  | 2 => .ok (.vmul (bitsOf w 7 4) (bitsOf w 11 4) (bitsOf w 15 4) (bitsOf w 19 3) (bitsOf w 22 5) (bitsOf w 31 1))
  | 3 =>
    if fld w 31 1 = 0 then .ok (.vmulh (bitsOf w 7 4) (bitsOf w 11 4) (bitsOf w 15 4) (bitsOf w 19 3) (bitsOf w 22 5))
    else .error .nonzeroField
  | 4 =>
    if fld w 31 1 = 0 then .ok (.vmin (bitsOf w 7 4) (bitsOf w 11 4) (bitsOf w 15 4) (bitsOf w 19 3) (bitsOf w 22 5))
    else .error .nonzeroField
  | 5 =>
    if fld w 31 1 = 0 then .ok (.vmax (bitsOf w 7 4) (bitsOf w 11 4) (bitsOf w 15 4) (bitsOf w 19 3) (bitsOf w 22 5))
    else .error .nonzeroField
  | 6 =>
    if fld w 15 4 = 0 then .ok (.vabs (bitsOf w 7 4) (bitsOf w 11 4) (bitsOf w 19 3) (bitsOf w 22 5) (bitsOf w 31 1))
    else .error .nonzeroField
  | 7 =>
    if fld w 15 4 = 0 then .ok (.vneg (bitsOf w 7 4) (bitsOf w 11 4) (bitsOf w 19 3) (bitsOf w 22 5) (bitsOf w 31 1))
    else .error .nonzeroField
  | _ => .error .unassigned

/-- Major 0x1D (R56): VFMA, VFMS, VFNMA, VDOT. -/
def decodeMajor1D (w : Nat) : Except DecodeError Instr :=
  match fld w 27 5 with
  | 0 => .ok (.vfma (bitsOf w 7 4) (bitsOf w 11 4) (bitsOf w 15 4) (bitsOf w 19 3) (bitsOf w 22 5))
  | 1 => .ok (.vfms (bitsOf w 7 4) (bitsOf w 11 4) (bitsOf w 15 4) (bitsOf w 19 3) (bitsOf w 22 5))
  | 2 => .ok (.vfnma (bitsOf w 7 4) (bitsOf w 11 4) (bitsOf w 15 4) (bitsOf w 19 3) (bitsOf w 22 5))
  | 3 => .ok (.vdot (bitsOf w 7 4) (bitsOf w 11 4) (bitsOf w 15 4) (bitsOf w 19 3) (bitsOf w 22 5))
  | _ => .error .unassigned

/-- Major 0x1E (R56): VAND, VOR, VXOR, VNOT, VSHL, VSHR, VSAR. -/
def decodeMajor1E (w : Nat) : Except DecodeError Instr :=
  match fld w 27 5 with
  | 0 => .ok (.vand (bitsOf w 7 4) (bitsOf w 11 4) (bitsOf w 15 4) (bitsOf w 19 3) (bitsOf w 22 5))
  | 1 => .ok (.vor (bitsOf w 7 4) (bitsOf w 11 4) (bitsOf w 15 4) (bitsOf w 19 3) (bitsOf w 22 5))
  | 2 => .ok (.vxor (bitsOf w 7 4) (bitsOf w 11 4) (bitsOf w 15 4) (bitsOf w 19 3) (bitsOf w 22 5))
  | 3 =>
    if fld w 15 4 = 0 then .ok (.vnot (bitsOf w 7 4) (bitsOf w 11 4) (bitsOf w 19 3) (bitsOf w 22 5))
    else .error .nonzeroField
  | 4 => .ok (.vshl (bitsOf w 7 4) (bitsOf w 11 4) (bitsOf w 15 4) (bitsOf w 19 3) (bitsOf w 22 5))
  | 5 => .ok (.vshr (bitsOf w 7 4) (bitsOf w 11 4) (bitsOf w 15 4) (bitsOf w 19 3) (bitsOf w 22 5))
  | 6 => .ok (.vsar (bitsOf w 7 4) (bitsOf w 11 4) (bitsOf w 15 4) (bitsOf w 19 3) (bitsOf w 22 5))
  | _ => .error .unassigned

/-- Major 0x1F (R56): VCMP. -/
def decodeMajor1F (w : Nat) : Except DecodeError Instr :=
  if fld w 10 1 = 0 then .ok (.vcmp (bitsOf w 7 3) (bitsOf w 11 4) (bitsOf w 15 4) (bitsOf w 19 3) (bitsOf w 22 5) (bitsOf w 27 5))
  else .error .nonzeroField

/-- Major 0x20 (R56): VSEL, VMOV. -/
def decodeMajor20 (w : Nat) : Except DecodeError Instr :=
  match fld w 27 5 with
  | 0 => .ok (.vsel (bitsOf w 7 4) (bitsOf w 11 4) (bitsOf w 15 4) (bitsOf w 19 3) (bitsOf w 22 5))
  | 1 =>
    if fld w 15 4 = 0 then .ok (.vmov (bitsOf w 7 4) (bitsOf w 11 4) (bitsOf w 19 3) (bitsOf w 22 5))
    else .error .nonzeroField
  | _ => .error .unassigned

/-- Major 0x21 (R56): VCVT. -/
def decodeMajor21 (w : Nat) : Except DecodeError Instr :=
  .ok (.vcvt (bitsOf w 7 4) (bitsOf w 11 4) (bitsOf w 15 3) (bitsOf w 18 1) (bitsOf w 19 3) (bitsOf w 22 5) (bitsOf w 27 5))

/-- Major 0x22 (R56): VPERM, VSHUF. -/
def decodeMajor22 (w : Nat) : Except DecodeError Instr :=
  match fld w 27 5 with
  | 0 => .ok (.vperm (bitsOf w 7 4) (bitsOf w 11 4) (bitsOf w 15 4) (bitsOf w 19 3) (bitsOf w 22 5))
  | 1 => .ok (.vshuf (bitsOf w 7 4) (bitsOf w 11 4) (bitsOf w 15 4) (bitsOf w 19 3) (bitsOf w 22 5))
  | _ => .error .unassigned

/-- Major 0x23 (R56): VBCST, VINS, VEXT, VLI. -/
def decodeMajor23 (w : Nat) : Except DecodeError Instr :=
  match fld w 30 2 with
  | 0 =>
    if fld w 11 1 = 0 ∧ fld w 17 6 = 0 ∧ fld w 28 2 = 0 then .ok (.vbcst (bitsOf w 7 4) (bitsOf w 12 5) (bitsOf w 23 5))
    else .error .nonzeroField
  | 1 =>
    if fld w 11 1 = 0 ∧ fld w 28 2 = 0 then .ok (.vins (bitsOf w 7 4) (bitsOf w 12 5) (bitsOf w 17 6) (bitsOf w 23 5))
    else .error .nonzeroField
  | 2 =>
    if fld w 16 1 = 0 ∧ fld w 28 2 = 0 then .ok (.vext (bitsOf w 7 5) (bitsOf w 12 4) (bitsOf w 17 6) (bitsOf w 23 5))
    else .error .nonzeroField
  | 3 =>
    if fld w 11 1 = 0 then .ok (.vli (bitsOf w 7 4) (bitsOf w 12 16) (bitsOf w 28 2))
    else .error .nonzeroField
  | _ => .error .unassigned

/-- Major 0x24 (R56): VRED. -/
def decodeMajor24 (w : Nat) : Except DecodeError Instr :=
  if fld w 15 4 = 0 then .ok (.vred (bitsOf w 7 4) (bitsOf w 11 4) (bitsOf w 19 3) (bitsOf w 22 5) (bitsOf w 27 5))
  else .error .nonzeroField

/-- Major 0x25 (R56): KAND, KOR, KXOR, KNOT, KMOV_K_K, KPOP, KMOV_K_G, KMOV_G_K. -/
def decodeMajor25 (w : Nat) : Except DecodeError Instr :=
  match fld w 18 14 with
  | 0 =>
    if fld w 10 1 = 0 ∧ fld w 14 1 = 0 then .ok (.kand (bitsOf w 7 3) (bitsOf w 11 3) (bitsOf w 15 3))
    else .error .nonzeroField
  | 512 =>
    if fld w 10 1 = 0 ∧ fld w 14 1 = 0 then .ok (.kor (bitsOf w 7 3) (bitsOf w 11 3) (bitsOf w 15 3))
    else .error .nonzeroField
  | 1024 =>
    if fld w 10 1 = 0 ∧ fld w 14 1 = 0 then .ok (.kxor (bitsOf w 7 3) (bitsOf w 11 3) (bitsOf w 15 3))
    else .error .nonzeroField
  | 1536 =>
    if fld w 10 1 = 0 ∧ fld w 14 4 = 0 then .ok (.knot (bitsOf w 7 3) (bitsOf w 11 3))
    else .error .nonzeroField
  | 2048 =>
    if fld w 10 1 = 0 ∧ fld w 14 4 = 0 then .ok (.kmovKK (bitsOf w 7 3) (bitsOf w 11 3))
    else .error .nonzeroField
  | 2560 =>
    if fld w 12 3 = 0 then .ok (.kpop (bitsOf w 7 5) (bitsOf w 15 3))
    else .error .nonzeroField
  | 3072 =>
    if fld w 10 1 = 0 ∧ fld w 16 2 = 0 then .ok (.kmovKG (bitsOf w 7 3) (bitsOf w 11 5))
    else .error .nonzeroField
  | 3584 =>
    if fld w 12 3 = 0 then .ok (.kmovGK (bitsOf w 7 5) (bitsOf w 15 3))
    else .error .nonzeroField
  | _ => .error .unassigned

/-- Major 0x26 (R56): VCLS, VSCALE. -/
def decodeMajor26 (w : Nat) : Except DecodeError Instr :=
  match fld w 27 5 with
  | 0 =>
    if fld w 15 4 = 0 then .ok (.vcls (bitsOf w 7 4) (bitsOf w 11 4) (bitsOf w 19 3) (bitsOf w 22 5))
    else .error .nonzeroField
  | 1 => .ok (.vscale (bitsOf w 7 4) (bitsOf w 11 4) (bitsOf w 15 4) (bitsOf w 19 3) (bitsOf w 22 5))
  | _ => .error .unassigned

/-- Major 0x28 (R56): VRCP, VRSQ, VEXP2, VLOG2, VTANH, VSIGM, VSIN, VCOS. -/
def decodeMajor28 (w : Nat) : Except DecodeError Instr :=
  match fld w 27 5 with
  | 0 =>
    if fld w 15 4 = 0 then .ok (.vrcp (bitsOf w 7 4) (bitsOf w 11 4) (bitsOf w 19 3) (bitsOf w 22 5))
    else .error .nonzeroField
  | 1 =>
    if fld w 15 4 = 0 then .ok (.vrsq (bitsOf w 7 4) (bitsOf w 11 4) (bitsOf w 19 3) (bitsOf w 22 5))
    else .error .nonzeroField
  | 2 =>
    if fld w 15 4 = 0 then .ok (.vexp2 (bitsOf w 7 4) (bitsOf w 11 4) (bitsOf w 19 3) (bitsOf w 22 5))
    else .error .nonzeroField
  | 3 =>
    if fld w 15 4 = 0 then .ok (.vlog2 (bitsOf w 7 4) (bitsOf w 11 4) (bitsOf w 19 3) (bitsOf w 22 5))
    else .error .nonzeroField
  | 4 =>
    if fld w 15 4 = 0 then .ok (.vtanh (bitsOf w 7 4) (bitsOf w 11 4) (bitsOf w 19 3) (bitsOf w 22 5))
    else .error .nonzeroField
  | 5 =>
    if fld w 15 4 = 0 then .ok (.vsigm (bitsOf w 7 4) (bitsOf w 11 4) (bitsOf w 19 3) (bitsOf w 22 5))
    else .error .nonzeroField
  | 6 =>
    if fld w 15 4 = 0 then .ok (.vsin (bitsOf w 7 4) (bitsOf w 11 4) (bitsOf w 19 3) (bitsOf w 22 5))
    else .error .nonzeroField
  | 7 =>
    if fld w 15 4 = 0 then .ok (.vcos (bitsOf w 7 4) (bitsOf w 11 4) (bitsOf w 19 3) (bitsOf w 22 5))
    else .error .nonzeroField
  | _ => .error .unassigned

/-- Major 0x2A (R56): MCMD, MRESUME, MABORT, MSTAT, MMAP. -/
def decodeMajor2A (w : Nat) : Except DecodeError Instr :=
  match fld w 23 9 with
  | 0 =>
    if fld w 7 5 = 0 ∧ fld w 17 5 = 0 then .ok (.mcmd (bitsOf w 12 5) (bitsOf w 22 1))
    else .error .nonzeroField
  | 16 =>
    if fld w 7 15 = 0 then .ok (.mresume (bitsOf w 22 1))
    else .error .nonzeroField
  | 32 =>
    if fld w 7 15 = 0 then .ok (.mabort (bitsOf w 22 1))
    else .error .nonzeroField
  | 48 =>
    if fld w 12 10 = 0 then .ok (.mstat (bitsOf w 7 5) (bitsOf w 22 1))
    else .error .nonzeroField
  | 64 =>
    if fld w 7 5 = 0 then .ok (.mmap (bitsOf w 12 5) (bitsOf w 17 5) (bitsOf w 22 1))
    else .error .nonzeroField
  | _ => .error .unassigned

/-- Major 0x2B (R56): MMOV, MMOVW. -/
def decodeMajor2B (w : Nat) : Except DecodeError Instr :=
  match fld w 21 11 with
  | 0 =>
    if fld w 11 1 = 0 then .ok (.mmov (bitsOf w 7 4) (bitsOf w 12 5) (bitsOf w 17 4))
    else .error .nonzeroField
  | 1 =>
    if fld w 11 1 = 0 then .ok (.mmovw (bitsOf w 7 4) (bitsOf w 12 5) (bitsOf w 17 4))
    else .error .nonzeroField
  | _ => .error .unassigned

/-- Major 0x2C (R56): CPY, CPYS, CPY2D, COLL. -/
def decodeMajor2C (w : Nat) : Except DecodeError Instr :=
  match fld w 27 3 with
  | 0 => .ok (.cpy (bitsOf w 7 5) (bitsOf w 12 5) (bitsOf w 17 5) (bitsOf w 22 5) (bitsOf w 30 1) (bitsOf w 31 1))
  | 1 =>
    if fld w 10 2 = 0 ∧ fld w 30 1 = 0 then .ok (.cpys (bitsOf w 7 3) (bitsOf w 12 5) (bitsOf w 17 5) (bitsOf w 22 5) (bitsOf w 31 1))
    else .error .nonzeroField
  | 2 =>
    if fld w 7 5 = 0 ∧ fld w 17 5 = 0 then .ok (.cpy2d (bitsOf w 12 5) (bitsOf w 22 5) (bitsOf w 30 1) (bitsOf w 31 1))
    else .error .nonzeroField
  | 3 =>
    if fld w 7 5 = 0 ∧ fld w 17 5 = 0 ∧ fld w 30 2 = 0 then .ok (.coll (bitsOf w 12 5) (bitsOf w 22 3) (bitsOf w 25 2))
    else .error .nonzeroField
  | _ => .error .unassigned

/-- Major 0x2D (R56): ECFG, ETRIG, WPUSH, WPOP, WQUIET, WLVL. -/
def decodeMajor2D (w : Nat) : Except DecodeError Instr :=
  match fld w 26 6 with
  | 0 =>
    if fld w 7 5 = 0 ∧ fld w 17 5 = 0 then .ok (.ecfg (bitsOf w 12 5) (bitsOf w 22 4))
    else .error .nonzeroField
  | 2 =>
    if fld w 7 15 = 0 then .ok (.etrig (bitsOf w 22 4))
    else .error .nonzeroField
  | 4 =>
    if fld w 7 5 = 0 ∧ fld w 22 4 = 0 then .ok (.wpush (bitsOf w 12 5) (bitsOf w 17 5))
    else .error .nonzeroField
  | 6 =>
    if fld w 12 5 = 0 ∧ fld w 22 4 = 0 then .ok (.wpop (bitsOf w 7 5) (bitsOf w 17 5))
    else .error .nonzeroField
  | 8 =>
    if fld w 12 10 = 0 ∧ fld w 24 2 = 0 then .ok (.wquiet (bitsOf w 7 5) (bitsOf w 22 2))
    else .error .nonzeroField
  | 10 =>
    if fld w 17 9 = 0 then .ok (.wlvl (bitsOf w 7 5) (bitsOf w 12 5))
    else .error .nonzeroField
  | _ => .error .unassigned

/-- Major 0x2E (R56): TRAP, ERET, UPRET, CRR, CRW, YIELD, HALT. -/
def decodeMajor2E (w : Nat) : Except DecodeError Instr :=
  match fld w 17 3 with
  | 0 =>
    if fld w 7 10 = 0 then .ok (.trap (bitsOf w 20 12))
    else .error .nonzeroField
  | 1 =>
    if fld w 7 10 = 0 ∧ fld w 20 12 = 0 then .ok (.eret)
    else .error .nonzeroField
  | 2 =>
    if fld w 7 10 = 0 ∧ fld w 20 12 = 0 then .ok (.upret)
    else .error .nonzeroField
  | 3 =>
    if fld w 12 5 = 0 then .ok (.crr (bitsOf w 7 5) (bitsOf w 20 12))
    else .error .nonzeroField
  | 4 => .ok (.crw (bitsOf w 7 5) (bitsOf w 12 5) (bitsOf w 20 12))
  | 5 =>
    if fld w 7 10 = 0 ∧ fld w 20 12 = 0 then .ok (.yield)
    else .error .nonzeroField
  | 6 =>
    if fld w 7 10 = 0 ∧ fld w 20 12 = 0 then .ok (.halt)
    else .error .nonzeroField
  | _ => .error .unassigned

/-- Major 0x2F (R56): SLOTGO, SLOTHALT, ISTW, PLBINV, CSAVE, CREST. -/
def decodeMajor2F (w : Nat) : Except DecodeError Instr :=
  match fld w 22 10 with
  | 0 =>
    if fld w 7 5 = 0 then .ok (.slotgo (bitsOf w 12 5) (bitsOf w 17 5))
    else .error .nonzeroField
  | 32 =>
    if fld w 7 5 = 0 ∧ fld w 17 5 = 0 then .ok (.slothalt (bitsOf w 12 5))
    else .error .nonzeroField
  | 64 =>
    if fld w 7 5 = 0 then .ok (.istw (bitsOf w 12 5) (bitsOf w 17 5))
    else .error .nonzeroField
  | 96 =>
    if fld w 7 5 = 0 ∧ fld w 17 5 = 0 then .ok (.plbinv (bitsOf w 12 5))
    else .error .nonzeroField
  | 128 =>
    if fld w 7 5 = 0 ∧ fld w 17 5 = 0 then .ok (.csave (bitsOf w 12 5))
    else .error .nonzeroField
  | 160 =>
    if fld w 7 5 = 0 ∧ fld w 17 5 = 0 then .ok (.crest (bitsOf w 12 5))
    else .error .nonzeroField
  | _ => .error .unassigned

/-- Major 0x30 (R56): RBAR, MIRADD, MIRDEL, RSTAT. -/
def decodeMajor30 (w : Nat) : Except DecodeError Instr :=
  match fld w 22 10 with
  | 0 =>
    if fld w 7 15 = 0 then .ok (.rbar)
    else .error .nonzeroField
  | 32 =>
    if fld w 7 5 = 0 then .ok (.miradd (bitsOf w 12 5) (bitsOf w 17 5))
    else .error .nonzeroField
  | 64 =>
    if fld w 7 5 = 0 then .ok (.mirdel (bitsOf w 12 5) (bitsOf w 17 5))
    else .error .nonzeroField
  | 96 =>
    if fld w 12 10 = 0 then .ok (.rstat (bitsOf w 7 5))
    else .error .nonzeroField
  | _ => .error .unassigned

/-- Major 0x31 (R56): PHINT, PCAPW, SHEDW. -/
def decodeMajor31 (w : Nat) : Except DecodeError Instr :=
  match fld w 27 5 with
  | 0 =>
    if fld w 7 15 = 0 then .ok (.phint (bitsOf w 22 5))
    else .error .nonzeroField
  | 1 =>
    if fld w 7 5 = 0 ∧ fld w 17 10 = 0 then .ok (.pcapw (bitsOf w 12 5))
    else .error .nonzeroField
  | 2 =>
    if fld w 7 5 = 0 ∧ fld w 17 10 = 0 then .ok (.shedw (bitsOf w 12 5))
    else .error .nonzeroField
  | _ => .error .unassigned

/-- A 32-bit instruction word by its major opcode, bits [6:1] (R51, R54, R56), its fields taken as they stand. -/
def decodeWordRaw (w : Nat) : Except DecodeError Instr :=
  match fld w 0 7 with
  | 3 => decodeMajor01 w
  | 5 => decodeMajor02 w
  | 7 => decodeMajor03 w
  | 9 => decodeMajor04 w
  | 11 => decodeMajor05 w
  | 13 => decodeMajor06 w
  | 15 => decodeMajor07 w
  | 17 => decodeMajor08 w
  | 19 => decodeMajor09 w
  | 21 => decodeMajor0A w
  | 23 => decodeMajor0B w
  | 25 => decodeMajor0C w
  | 27 => decodeMajor0D w
  | 29 => decodeMajor0E w
  | 31 => decodeMajor0F w
  | 33 => decodeMajor10 w
  | 35 => decodeMajor11 w
  | 37 => decodeMajor12 w
  | 39 => decodeMajor13 w
  | 41 => decodeMajor14 w
  | 43 => decodeMajor15 w
  | 45 => decodeMajor16 w
  | 47 => decodeMajor17 w
  | 49 => decodeMajor18 w
  | 51 => decodeMajor19 w
  | 53 => decodeMajor1A w
  | 55 => decodeMajor1B w
  | 57 => decodeMajor1C w
  | 59 => decodeMajor1D w
  | 61 => decodeMajor1E w
  | 63 => decodeMajor1F w
  | 65 => decodeMajor20 w
  | 67 => decodeMajor21 w
  | 69 => decodeMajor22 w
  | 71 => decodeMajor23 w
  | 73 => decodeMajor24 w
  | 75 => decodeMajor25 w
  | 77 => decodeMajor26 w
  | 81 => decodeMajor28 w
  | 85 => decodeMajor2A w
  | 87 => decodeMajor2B w
  | 89 => decodeMajor2C w
  | 91 => decodeMajor2D w
  | 93 => decodeMajor2E w
  | 95 => decodeMajor2F w
  | 97 => decodeMajor30 w
  | 99 => decodeMajor31 w
  | _ => .error .reservedMajor

/-- An instruction is accepted only inside the limits of its fields (R53). -/
def checked (i : Instr) : Except DecodeError Instr :=
  if i.wf then .ok i else .error .badField

/-- A 32-bit instruction word (R51, R53, R54). -/
def decodeWord (w : Nat) : Except DecodeError Instr :=
  if w = 0xFFFFFFFF then .error .illegal
  else
    match decodeWordRaw w with
    | .ok i => checked i
    | .error e => .error e

/-- A compact halfword by its form number, bits [4:1] (R59). -/
def decodeCompactForm (h : Nat) : Except DecodeError Compact :=
  match fld h 1 4 with
  | 0 => if fld h 11 5 = 0 then .ok (.cMov (bitsOf h 5 3) (bitsOf h 8 3)) else .error .nonzeroField
  | 1 => if fld h 11 5 = 0 then .ok (.cAdd (bitsOf h 5 3) (bitsOf h 8 3)) else .error .nonzeroField
  | 2 => if fld h 11 5 = 0 then .ok (.cSub (bitsOf h 5 3) (bitsOf h 8 3)) else .error .nonzeroField
  | 3 => .ok (.cAddi (bitsOf h 5 3) (bitsOf h 8 8))
  | 4 => .ok (.cLi (bitsOf h 5 3) (bitsOf h 8 8))
  | 5 => if fld h 11 5 = 0 then .ok (.cAnd (bitsOf h 5 3) (bitsOf h 8 3)) else .error .nonzeroField
  | 6 => if fld h 14 2 = 0 then .ok (.cShli (bitsOf h 5 3) (bitsOf h 8 6)) else .error .nonzeroField
  | 7 => if fld h 14 2 = 0 then .ok (.cShri (bitsOf h 5 3) (bitsOf h 8 6)) else .error .nonzeroField
  | 8 => .ok (.cLd64 (bitsOf h 5 3) (bitsOf h 8 3) (bitsOf h 11 5))
  | 9 => .ok (.cSt64 (bitsOf h 5 3) (bitsOf h 8 3) (bitsOf h 11 5))
  | 10 => .ok (.cLd32 (bitsOf h 5 3) (bitsOf h 8 3) (bitsOf h 11 5))
  | 11 => .ok (.cSt32 (bitsOf h 5 3) (bitsOf h 8 3) (bitsOf h 11 5))
  | 12 => .ok (.cBez (bitsOf h 5 3) (bitsOf h 8 8))
  | 13 => .ok (.cBnz (bitsOf h 5 3) (bitsOf h 8 8))
  | 14 => .ok (.cJ (bitsOf h 5 11))
  | 15 => if fld h 11 5 = 0 then .ok (.cQget (bitsOf h 5 3) (bitsOf h 8 3)) else .error .nonzeroField
  | _ => .error .unassigned

/-- A compact halfword (R51, R59). -/
def decodeCompact (h : Nat) : Except DecodeError Instr :=
  if h = 0 then .error .illegal
  else
    match decodeCompactForm h with
    | .ok f => checked (.compactForm f)
    | .error e => .error e

/-- The decoder: an instruction and the bytes after it, from the bytes at the PC. Bit 0 of the first halfword selects
the length (R50). -/
def decode : List Byte → Except DecodeError (Instr × List Byte)
  | b0 :: b1 :: rest =>
    if b0.toNat % 2 = 0 then
      match decodeCompact (b0.toNat + 256 * b1.toNat) with
      | .ok i => .ok (i, rest)
      | .error e => .error e
    else
      match rest with
      | b2 :: b3 :: rest' =>
        match decodeWord (b0.toNat + 256 * b1.toNat + 65536 * b2.toNat + 16777216 * b3.toNat) with
        | .ok i => .ok (i, rest')
        | .error e => .error e
      | _ => .error .truncated
  | _ => .error .truncated

/-- The bytes of an instruction whose bits are `w`: the halfwords little-endian, the first at the lowest address
(R50); the four bytes of the longest instruction, the bits above the instruction's own zero. -/
def tableBytes (w : Nat) : List Byte := bytesOf 4 w

/-- The instruction the decoder reads from an instruction whose bits are `w`; none where it refuses. -/
def decodeTableWord (nbits w : Nat) : Option Instr :=
  match decode (tableBytes (w % 2 ^ nbits)) with
  | .ok (i, _) => some i
  | .error _ => none

/-- The halfword of a compact form (R59). -/
def encodeCompact : Compact → Nat
  | .cMov d a => 0 + d.toNat * 2 ^ 5 + a.toNat * 2 ^ 8
  | .cAdd d a => 2 + d.toNat * 2 ^ 5 + a.toNat * 2 ^ 8
  | .cSub d a => 4 + d.toNat * 2 ^ 5 + a.toNat * 2 ^ 8
  | .cAddi d imm => 6 + d.toNat * 2 ^ 5 + imm.toNat * 2 ^ 8
  | .cLi d imm => 8 + d.toNat * 2 ^ 5 + imm.toNat * 2 ^ 8
  | .cAnd d a => 10 + d.toNat * 2 ^ 5 + a.toNat * 2 ^ 8
  | .cShli d sh => 12 + d.toNat * 2 ^ 5 + sh.toNat * 2 ^ 8
  | .cShri d sh => 14 + d.toNat * 2 ^ 5 + sh.toNat * 2 ^ 8
  | .cLd64 d a off => 16 + d.toNat * 2 ^ 5 + a.toNat * 2 ^ 8 + off.toNat * 2 ^ 11
  | .cSt64 b a off => 18 + b.toNat * 2 ^ 5 + a.toNat * 2 ^ 8 + off.toNat * 2 ^ 11
  | .cLd32 d a off => 20 + d.toNat * 2 ^ 5 + a.toNat * 2 ^ 8 + off.toNat * 2 ^ 11
  | .cSt32 b a off => 22 + b.toNat * 2 ^ 5 + a.toNat * 2 ^ 8 + off.toNat * 2 ^ 11
  | .cBez a off => 24 + a.toNat * 2 ^ 5 + off.toNat * 2 ^ 8
  | .cBnz a off => 26 + a.toNat * 2 ^ 5 + off.toNat * 2 ^ 8
  | .cJ off => 28 + off.toNat * 2 ^ 5
  | .cQget d q => 30 + d.toNat * 2 ^ 5 + q.toNat * 2 ^ 8

/-- A word from its fixed bits and its fields, each a value and the number of its lowest bit. -/
def pack (fixed : Nat) : List (Nat × Nat) → Nat
  | [] => fixed
  | (x, lo) :: fs => x * 2 ^ lo + pack fixed fs

/-- The word of a 32-bit instruction: its fixed bits and its fields at their places (R54, R56, R58); none for a step
that has no word, and for a compact form. -/
def encodeWord : Instr → Option Nat
  | .add d a b => some (pack 3 [(d.toNat, 7), (a.toNat, 12), (b.toNat, 17)])
  | .sub d a b => some (pack 4194307 [(d.toNat, 7), (a.toNat, 12), (b.toNat, 17)])
  | .and d a b => some (pack 8388611 [(d.toNat, 7), (a.toNat, 12), (b.toNat, 17)])
  | .or d a b => some (pack 12582915 [(d.toNat, 7), (a.toNat, 12), (b.toNat, 17)])
  | .xor d a b => some (pack 16777219 [(d.toNat, 7), (a.toNat, 12), (b.toNat, 17)])
  | .andn d a b => some (pack 20971523 [(d.toNat, 7), (a.toNat, 12), (b.toNat, 17)])
  | .mul d a b => some (pack 25165827 [(d.toNat, 7), (a.toNat, 12), (b.toNat, 17)])
  | .mulhS d a b => some (pack 29360131 [(d.toNat, 7), (a.toNat, 12), (b.toNat, 17)])
  | .mulhN d a b => some (pack 33554435 [(d.toNat, 7), (a.toNat, 12), (b.toNat, 17)])
  | .divS d a b => some (pack 37748739 [(d.toNat, 7), (a.toNat, 12), (b.toNat, 17)])
  | .divN d a b => some (pack 41943043 [(d.toNat, 7), (a.toNat, 12), (b.toNat, 17)])
  | .remS d a b => some (pack 46137347 [(d.toNat, 7), (a.toNat, 12), (b.toNat, 17)])
  | .remN d a b => some (pack 50331651 [(d.toNat, 7), (a.toNat, 12), (b.toNat, 17)])
  | .minS d a b => some (pack 54525955 [(d.toNat, 7), (a.toNat, 12), (b.toNat, 17)])
  | .minN d a b => some (pack 58720259 [(d.toNat, 7), (a.toNat, 12), (b.toNat, 17)])
  | .maxS d a b => some (pack 62914563 [(d.toNat, 7), (a.toNat, 12), (b.toNat, 17)])
  | .maxN d a b => some (pack 67108867 [(d.toNat, 7), (a.toNat, 12), (b.toNat, 17)])
  | .seq d a b => some (pack 71303171 [(d.toNat, 7), (a.toNat, 12), (b.toNat, 17)])
  | .sne d a b => some (pack 75497475 [(d.toNat, 7), (a.toNat, 12), (b.toNat, 17)])
  | .sltS d a b => some (pack 79691779 [(d.toNat, 7), (a.toNat, 12), (b.toNat, 17)])
  | .sltN d a b => some (pack 83886083 [(d.toNat, 7), (a.toNat, 12), (b.toNat, 17)])
  | .shl d a b => some (pack 88080387 [(d.toNat, 7), (a.toNat, 12), (b.toNat, 17)])
  | .shr d a b => some (pack 92274691 [(d.toNat, 7), (a.toNat, 12), (b.toNat, 17)])
  | .sar d a b => some (pack 96468995 [(d.toNat, 7), (a.toNat, 12), (b.toNat, 17)])
  | .rol d a b => some (pack 100663299 [(d.toNat, 7), (a.toNat, 12), (b.toNat, 17)])
  | .addw d a b => some (pack 104857603 [(d.toNat, 7), (a.toNat, 12), (b.toNat, 17)])
  | .subw d a b => some (pack 109051907 [(d.toNat, 7), (a.toNat, 12), (b.toNat, 17)])
  | .mulw d a b => some (pack 113246211 [(d.toNat, 7), (a.toNat, 12), (b.toNat, 17)])
  | .addi d a imm => some (pack 5 [(d.toNat, 7), (a.toNat, 12), (imm.toNat, 20)])
  | .andi d a imm => some (pack 131077 [(d.toNat, 7), (a.toNat, 12), (imm.toNat, 20)])
  | .ori d a imm => some (pack 262149 [(d.toNat, 7), (a.toNat, 12), (imm.toNat, 20)])
  | .xori d a imm => some (pack 393221 [(d.toNat, 7), (a.toNat, 12), (imm.toNat, 20)])
  | .sltiS d a imm => some (pack 524293 [(d.toNat, 7), (a.toNat, 12), (imm.toNat, 20)])
  | .sltiN d a imm => some (pack 655365 [(d.toNat, 7), (a.toNat, 12), (imm.toNat, 20)])
  | .shli d a sc => some (pack 917509 [(d.toNat, 7), (a.toNat, 12), (sc.toNat, 20)])
  | .shri d a sc => some (pack 1074659333 [(d.toNat, 7), (a.toNat, 12), (sc.toNat, 20)])
  | .sari d a sc => some (pack 2148401157 [(d.toNat, 7), (a.toNat, 12), (sc.toNat, 20)])
  | .lih d imm => some (pack 7 [(d.toNat, 7), (imm.toNat, 12)])
  | .lit d imm => some (pack 9 [(d.toNat, 7), (imm.toNat, 12)])
  | .clz d a => some (pack 11 [(d.toNat, 7), (a.toNat, 12)])
  | .ctz d a => some (pack 4194315 [(d.toNat, 7), (a.toNat, 12)])
  | .popc d a => some (pack 8388619 [(d.toNat, 7), (a.toNat, 12)])
  | .brev d a => some (pack 12582923 [(d.toNat, 7), (a.toNat, 12)])
  | .bswap d a => some (pack 16777227 [(d.toNat, 7), (a.toNat, 12)])
  | .sel d a b cc => some (pack 13 [(d.toNat, 7), (a.toNat, 12), (b.toNat, 17), (cc.toNat, 22)])
  | .bfx d a pos ln => some (pack 1073741837 [(d.toNat, 7), (a.toNat, 12), (pos.toNat, 17), (ln.toNat, 23)])
  | .bfi d a pos ln => some (pack 2147483661 [(d.toNat, 7), (a.toNat, 12), (pos.toNat, 17), (ln.toNat, 23)])
  | .lea d a b sc => some (pack 3221225485 [(d.toNat, 7), (a.toNat, 12), (b.toNat, 17), (sc.toNat, 22)])
  | .slice d a b num => some (pack 15 [(d.toNat, 7), (a.toNat, 12), (b.toNat, 17), (num.toNat, 22)])
  | .beq a b off => some (pack 17 [(a.toNat, 7), (b.toNat, 12), (off.toNat, 20)])
  | .bne a b off => some (pack 131089 [(a.toNat, 7), (b.toNat, 12), (off.toNat, 20)])
  | .blt a b off => some (pack 262161 [(a.toNat, 7), (b.toNat, 12), (off.toNat, 20)])
  | .bge a b off => some (pack 393233 [(a.toNat, 7), (b.toNat, 12), (off.toNat, 20)])
  | .bltn a b off => some (pack 524305 [(a.toNat, 7), (b.toNat, 12), (off.toNat, 20)])
  | .bgen a b off => some (pack 655377 [(a.toNat, 7), (b.toNat, 12), (off.toNat, 20)])
  | .jal d off => some (pack 19 [(d.toNat, 7), (off.toNat, 12)])
  | .jalr d a imm => some (pack 21 [(d.toNat, 7), (a.toNat, 12), (imm.toNat, 20)])
  | .loop a off => some (pack 23 [(a.toNat, 11), (off.toNat, 16)])
  | .loopi off cc => some (pack 151 [(off.toNat, 8), (cc.toNat, 16)])
  | .lbrk => some 279
  | .bench num => some (pack 535 [(num.toNat, 11)])
  | .benchF num => some (pack 791 [(num.toNat, 11)])
  | .split => some 1047
  | .bxch d a row => some (pack 1303 [(d.toNat, 11), (a.toNat, 15), (row.toNat, 19)])
  | .ldS8 d a imm => some (pack 25 [(d.toNat, 7), (a.toNat, 12), (imm.toNat, 20)])
  | .ldN8 d a imm => some (pack 131097 [(d.toNat, 7), (a.toNat, 12), (imm.toNat, 20)])
  | .ldS16 d a imm => some (pack 262169 [(d.toNat, 7), (a.toNat, 12), (imm.toNat, 20)])
  | .ldN16 d a imm => some (pack 393241 [(d.toNat, 7), (a.toNat, 12), (imm.toNat, 20)])
  | .ldS32 d a imm => some (pack 524313 [(d.toNat, 7), (a.toNat, 12), (imm.toNat, 20)])
  | .ldN32 d a imm => some (pack 655385 [(d.toNat, 7), (a.toNat, 12), (imm.toNat, 20)])
  | .ld64 d a imm => some (pack 786457 [(d.toNat, 7), (a.toNat, 12), (imm.toNat, 20)])
  | .st8 b a imm => some (pack 27 [(b.toNat, 7), (a.toNat, 12), (imm.toNat, 20)])
  | .st16 b a imm => some (pack 131099 [(b.toNat, 7), (a.toNat, 12), (imm.toNat, 20)])
  | .st32 b a imm => some (pack 262171 [(b.toNat, 7), (a.toNat, 12), (imm.toNat, 20)])
  | .st64 b a imm => some (pack 393243 [(b.toNat, 7), (a.toNat, 12), (imm.toNat, 20)])
  | .ldx d a b sz gr sh => some (pack 29 [(d.toNat, 7), (a.toNat, 12), (b.toNat, 17), (sz.toNat, 22), (gr.toNat, 24), (sh.toNat, 28)])
  | .stx d a b sz sh => some (pack 134217757 [(d.toNat, 7), (a.toNat, 12), (b.toNat, 17), (sz.toNat, 22), (sh.toNat, 28)])
  | .vld d a km sz off => some (pack 31 [(d.toNat, 7), (a.toNat, 11), (km.toNat, 16), (sz.toNat, 21), (off.toNat, 23)])
  | .vst d a km sz off => some (pack 524319 [(d.toNat, 7), (a.toNat, 11), (km.toNat, 16), (sz.toNat, 21), (off.toNat, 23)])
  | .vlds d a km sz b => some (pack 1048607 [(d.toNat, 7), (a.toNat, 11), (km.toNat, 16), (sz.toNat, 21), (b.toNat, 23)])
  | .vsts d a km sz b => some (pack 1572895 [(d.toNat, 7), (a.toNat, 11), (km.toNat, 16), (sz.toNat, 21), (b.toNat, 23)])
  | .vgth d a b km sz sh => some (pack 33 [(d.toNat, 7), (a.toNat, 11), (b.toNat, 16), (km.toNat, 20), (sz.toNat, 23), (sh.toNat, 26)])
  | .vsct d a b km sz sh => some (pack 33554465 [(d.toNat, 7), (a.toNat, 11), (b.toNat, 16), (km.toNat, 20), (sz.toNat, 23), (sh.toNat, 26)])
  | .ldf d a imm => some (pack 35 [(d.toNat, 7), (a.toNat, 12), (imm.toNat, 20)])
  | .ldfC d a imm => some (pack 131107 [(d.toNat, 7), (a.toNat, 12), (imm.toNat, 20)])
  | .stf b a imm => some (pack 262179 [(b.toNat, 7), (a.toNat, 12), (imm.toNat, 20)])
  | .feclr b a => some (pack 393251 [(b.toNat, 7), (a.toNat, 12)])
  | .ldaq d a sc sz off => some (pack 37 [(d.toNat, 7), (a.toNat, 12), (sc.toNat, 17), (sz.toNat, 20), (off.toNat, 22)])
  | .strl d a sc sz off => some (pack 2097189 [(d.toNat, 7), (a.toNat, 12), (sc.toNat, 17), (sz.toNat, 20), (off.toNat, 22)])
  | .fence sc => some (pack 39 [(sc.toNat, 20)])
  | .fenceAcq sc => some (pack 8388647 [(sc.toNat, 20)])
  | .fenceRel sc => some (pack 16777255 [(sc.toNat, 20)])
  | .pref ln a imm => some (pack 131111 [(ln.toNat, 7), (a.toNat, 12), (imm.toNat, 20)])
  | .ncinv a imm => some (pack 262183 [(a.toNat, 12), (imm.toNat, 20)])
  | .cinv a imm => some (pack 393255 [(a.toNat, 12), (imm.toNat, 20)])
  | .amoAdd d a b sz off sc => some (pack 41 [(d.toNat, 7), (a.toNat, 12), (b.toNat, 17), (sz.toNat, 26), (off.toNat, 27), (sc.toNat, 29)])
  | .amoAnd d a b sz off sc => some (pack 4194345 [(d.toNat, 7), (a.toNat, 12), (b.toNat, 17), (sz.toNat, 26), (off.toNat, 27), (sc.toNat, 29)])
  | .amoOr d a b sz off sc => some (pack 8388649 [(d.toNat, 7), (a.toNat, 12), (b.toNat, 17), (sz.toNat, 26), (off.toNat, 27), (sc.toNat, 29)])
  | .amoXor d a b sz off sc => some (pack 12582953 [(d.toNat, 7), (a.toNat, 12), (b.toNat, 17), (sz.toNat, 26), (off.toNat, 27), (sc.toNat, 29)])
  | .amoMinS d a b sz off sc => some (pack 16777257 [(d.toNat, 7), (a.toNat, 12), (b.toNat, 17), (sz.toNat, 26), (off.toNat, 27), (sc.toNat, 29)])
  | .amoMinN d a b sz off sc => some (pack 20971561 [(d.toNat, 7), (a.toNat, 12), (b.toNat, 17), (sz.toNat, 26), (off.toNat, 27), (sc.toNat, 29)])
  | .amoMaxS d a b sz off sc => some (pack 25165865 [(d.toNat, 7), (a.toNat, 12), (b.toNat, 17), (sz.toNat, 26), (off.toNat, 27), (sc.toNat, 29)])
  | .amoMaxN d a b sz off sc => some (pack 29360169 [(d.toNat, 7), (a.toNat, 12), (b.toNat, 17), (sz.toNat, 26), (off.toNat, 27), (sc.toNat, 29)])
  | .amoSwap d a b sz off sc => some (pack 33554473 [(d.toNat, 7), (a.toNat, 12), (b.toNat, 17), (sz.toNat, 26), (off.toNat, 27), (sc.toNat, 29)])
  | .amoCas d a b sz off sc => some (pack 37748777 [(d.toNat, 7), (a.toNat, 12), (b.toNat, 17), (sz.toNat, 26), (off.toNat, 27), (sc.toNat, 29)])
  | .amoFaddF32 d a b off sc => some (pack 41943081 [(d.toNat, 7), (a.toNat, 12), (b.toNat, 17), (off.toNat, 27), (sc.toNat, 29)])
  | .amoFaddBf16x2 d a b off sc => some (pack 46137385 [(d.toNat, 7), (a.toNat, 12), (b.toNat, 17), (off.toNat, 27), (sc.toNat, 29)])
  | .amoFmaxF32 d a b off sc => some (pack 50331689 [(d.toNat, 7), (a.toNat, 12), (b.toNat, 17), (off.toNat, 27), (sc.toNat, 29)])
  | .redAdd a b sz off sc => some (pack 43 [(a.toNat, 12), (b.toNat, 17), (sz.toNat, 26), (off.toNat, 28), (sc.toNat, 29)])
  | .redAnd a b sz off sc => some (pack 4194347 [(a.toNat, 12), (b.toNat, 17), (sz.toNat, 26), (off.toNat, 28), (sc.toNat, 29)])
  | .redOr a b sz off sc => some (pack 8388651 [(a.toNat, 12), (b.toNat, 17), (sz.toNat, 26), (off.toNat, 28), (sc.toNat, 29)])
  | .redXor a b sz off sc => some (pack 12582955 [(a.toNat, 12), (b.toNat, 17), (sz.toNat, 26), (off.toNat, 28), (sc.toNat, 29)])
  | .redMinS a b sz off sc => some (pack 16777259 [(a.toNat, 12), (b.toNat, 17), (sz.toNat, 26), (off.toNat, 28), (sc.toNat, 29)])
  | .redMinN a b sz off sc => some (pack 20971563 [(a.toNat, 12), (b.toNat, 17), (sz.toNat, 26), (off.toNat, 28), (sc.toNat, 29)])
  | .redMaxS a b sz off sc => some (pack 25165867 [(a.toNat, 12), (b.toNat, 17), (sz.toNat, 26), (off.toNat, 28), (sc.toNat, 29)])
  | .redMaxN a b sz off sc => some (pack 29360171 [(a.toNat, 12), (b.toNat, 17), (sz.toNat, 26), (off.toNat, 28), (sc.toNat, 29)])
  | .redFaddF32 a b off sc => some (pack 41943083 [(a.toNat, 12), (b.toNat, 17), (off.toNat, 28), (sc.toNat, 29)])
  | .redFaddBf16x2 a b off sc => some (pack 46137387 [(a.toNat, 12), (b.toNat, 17), (off.toNat, 28), (sc.toNat, 29)])
  | .redFmaxF32 a b off sc => some (pack 50331691 [(a.toNat, 12), (b.toNat, 17), (off.toNat, 28), (sc.toNat, 29)])
  | .marm md a imm => some (pack 45 [(md.toNat, 7), (a.toNat, 12), (imm.toNat, 20)])
  | .mwait d a => some (pack 131117 [(d.toNat, 7), (a.toNat, 12)])
  | .mdisarm md => some (pack 262189 [(md.toNat, 7)])
  | .mdisarmAll => some 1310765
  | .bar cc num => some (pack 47 [(cc.toNat, 12), (num.toNat, 22)])
  | .bara cc num => some (pack 134217775 [(cc.toNat, 12), (num.toNat, 22)])
  | .barw num => some (pack 268435503 [(num.toNat, 22)])
  | .gbar pos => some (pack 402653231 [(pos.toNat, 22)])
  | .cwait d a b num => some (pack 536870959 [(d.toNat, 7), (a.toNat, 12), (b.toNat, 17), (num.toNat, 22)])
  | .cadd a num => some (pack 671088687 [(a.toNat, 12), (num.toNat, 22)])
  | .cset a num => some (pack 805306415 [(a.toNat, 12), (num.toNat, 22)])
  | .crd d num => some (pack 939524143 [(d.toNat, 7), (num.toNat, 22)])
  | .send d a sc num => some (pack 49 [(d.toNat, 7), (a.toNat, 12), (sc.toNat, 22), (num.toNat, 27)])
  | .sendm d a b sc => some (pack 1073741873 [(d.toNat, 7), (a.toNat, 12), (b.toNat, 17), (sc.toNat, 22)])
  | .sendl d b sc => some (pack 2147483697 [(d.toNat, 7), (b.toNat, 17), (sc.toNat, 22)])
  | .mrecv d a => some (pack 3221225521 [(d.toNat, 7), (a.toNat, 12)])
  | .nlook d a => some (pack 55 [(d.toNat, 7), (a.toNat, 12)])
  | .ninv a => some (pack 134217783 [(a.toNat, 12)])
  | .qget d qn => some (pack 51 [(d.toNat, 7), (qn.toNat, 22)])
  | .qput a qn => some (pack 134217779 [(a.toNat, 12), (qn.toNat, 22)])
  | .vqget d qn => some (pack 268435507 [(d.toNat, 7), (qn.toNat, 22)])
  | .vqput a qn => some (pack 402653235 [(a.toNat, 12), (qn.toNat, 22)])
  | .qstat d qn => some (pack 536870963 [(d.toNat, 7), (qn.toNat, 22)])
  | .clsw a cc => some (pack 53 [(a.toNat, 12), (cc.toNat, 22)])
  | .chfree a cc => some (pack 134217781 [(a.toNat, 12), (cc.toNat, 22)])
  | .chsync d a => some (pack 268435509 [(d.toNat, 7), (a.toNat, 12)])
  | .vadd d a b km ty sc => some (pack 57 [(d.toNat, 7), (a.toNat, 11), (b.toNat, 15), (km.toNat, 19), (ty.toNat, 22), (sc.toNat, 31)])
  | .vsub d a b km ty sc => some (pack 134217785 [(d.toNat, 7), (a.toNat, 11), (b.toNat, 15), (km.toNat, 19), (ty.toNat, 22), (sc.toNat, 31)])
  | .vmul d a b km ty sc => some (pack 268435513 [(d.toNat, 7), (a.toNat, 11), (b.toNat, 15), (km.toNat, 19), (ty.toNat, 22), (sc.toNat, 31)])
  | .vmulh d a b km ty => some (pack 402653241 [(d.toNat, 7), (a.toNat, 11), (b.toNat, 15), (km.toNat, 19), (ty.toNat, 22)])
  | .vmin d a b km ty => some (pack 536870969 [(d.toNat, 7), (a.toNat, 11), (b.toNat, 15), (km.toNat, 19), (ty.toNat, 22)])
  | .vmax d a b km ty => some (pack 671088697 [(d.toNat, 7), (a.toNat, 11), (b.toNat, 15), (km.toNat, 19), (ty.toNat, 22)])
  | .vabs d a km ty sc => some (pack 805306425 [(d.toNat, 7), (a.toNat, 11), (km.toNat, 19), (ty.toNat, 22), (sc.toNat, 31)])
  | .vneg d a km ty sc => some (pack 939524153 [(d.toNat, 7), (a.toNat, 11), (km.toNat, 19), (ty.toNat, 22), (sc.toNat, 31)])
  | .vfma d a b km ty => some (pack 59 [(d.toNat, 7), (a.toNat, 11), (b.toNat, 15), (km.toNat, 19), (ty.toNat, 22)])
  | .vfms d a b km ty => some (pack 134217787 [(d.toNat, 7), (a.toNat, 11), (b.toNat, 15), (km.toNat, 19), (ty.toNat, 22)])
  | .vfnma d a b km ty => some (pack 268435515 [(d.toNat, 7), (a.toNat, 11), (b.toNat, 15), (km.toNat, 19), (ty.toNat, 22)])
  | .vdot d a b km ty => some (pack 402653243 [(d.toNat, 7), (a.toNat, 11), (b.toNat, 15), (km.toNat, 19), (ty.toNat, 22)])
  | .vand d a b km ty => some (pack 61 [(d.toNat, 7), (a.toNat, 11), (b.toNat, 15), (km.toNat, 19), (ty.toNat, 22)])
  | .vor d a b km ty => some (pack 134217789 [(d.toNat, 7), (a.toNat, 11), (b.toNat, 15), (km.toNat, 19), (ty.toNat, 22)])
  | .vxor d a b km ty => some (pack 268435517 [(d.toNat, 7), (a.toNat, 11), (b.toNat, 15), (km.toNat, 19), (ty.toNat, 22)])
  | .vnot d a km ty => some (pack 402653245 [(d.toNat, 7), (a.toNat, 11), (km.toNat, 19), (ty.toNat, 22)])
  | .vshl d a b km ty => some (pack 536870973 [(d.toNat, 7), (a.toNat, 11), (b.toNat, 15), (km.toNat, 19), (ty.toNat, 22)])
  | .vshr d a b km ty => some (pack 671088701 [(d.toNat, 7), (a.toNat, 11), (b.toNat, 15), (km.toNat, 19), (ty.toNat, 22)])
  | .vsar d a b km ty => some (pack 805306429 [(d.toNat, 7), (a.toNat, 11), (b.toNat, 15), (km.toNat, 19), (ty.toNat, 22)])
  | .vcmp kd a b km ty pos => some (pack 63 [(kd.toNat, 7), (a.toNat, 11), (b.toNat, 15), (km.toNat, 19), (ty.toNat, 22), (pos.toNat, 27)])
  | .vsel d a b km ty => some (pack 65 [(d.toNat, 7), (a.toNat, 11), (b.toNat, 15), (km.toNat, 19), (ty.toNat, 22)])
  | .vmov d a km ty => some (pack 134217793 [(d.toNat, 7), (a.toNat, 11), (km.toNat, 19), (ty.toNat, 22)])
  | .vcvt d a row sc km ty fl => some (pack 67 [(d.toNat, 7), (a.toNat, 11), (row.toNat, 15), (sc.toNat, 18), (km.toNat, 19), (ty.toNat, 22), (fl.toNat, 27)])
  | .vperm d a b km ty => some (pack 69 [(d.toNat, 7), (a.toNat, 11), (b.toNat, 15), (km.toNat, 19), (ty.toNat, 22)])
  | .vshuf d a b km ty => some (pack 134217797 [(d.toNat, 7), (a.toNat, 11), (b.toNat, 15), (km.toNat, 19), (ty.toNat, 22)])
  | .vbcst d gr ty => some (pack 71 [(d.toNat, 7), (gr.toNat, 12), (ty.toNat, 23)])
  | .vins d gr ln ty => some (pack 1073741895 [(d.toNat, 7), (gr.toNat, 12), (ln.toNat, 17), (ty.toNat, 23)])
  | .vext gr a ln ty => some (pack 2147483719 [(gr.toNat, 7), (a.toNat, 12), (ln.toNat, 17), (ty.toNat, 23)])
  | .vli d imm md => some (pack 3221225543 [(d.toNat, 7), (imm.toNat, 12), (md.toNat, 28)])
  | .vred d a km ty off => some (pack 73 [(d.toNat, 7), (a.toNat, 11), (km.toNat, 19), (ty.toNat, 22), (off.toNat, 27)])
  | .kand d a b => some (pack 75 [(d.toNat, 7), (a.toNat, 11), (b.toNat, 15)])
  | .kor d a b => some (pack 134217803 [(d.toNat, 7), (a.toNat, 11), (b.toNat, 15)])
  | .kxor d a b => some (pack 268435531 [(d.toNat, 7), (a.toNat, 11), (b.toNat, 15)])
  | .knot d a => some (pack 402653259 [(d.toNat, 7), (a.toNat, 11)])
  | .kmovKK d a => some (pack 536870987 [(d.toNat, 7), (a.toNat, 11)])
  | .kpop gr a => some (pack 671088715 [(gr.toNat, 7), (a.toNat, 15)])
  | .kmovKG d gr => some (pack 805306443 [(d.toNat, 7), (gr.toNat, 11)])
  | .kmovGK gr a => some (pack 939524171 [(gr.toNat, 7), (a.toNat, 15)])
  | .vcls d a km ty => some (pack 77 [(d.toNat, 7), (a.toNat, 11), (km.toNat, 19), (ty.toNat, 22)])
  | .vscale d a b km ty => some (pack 134217805 [(d.toNat, 7), (a.toNat, 11), (b.toNat, 15), (km.toNat, 19), (ty.toNat, 22)])
  | .vrcp d a km ty => some (pack 81 [(d.toNat, 7), (a.toNat, 11), (km.toNat, 19), (ty.toNat, 22)])
  | .vrsq d a km ty => some (pack 134217809 [(d.toNat, 7), (a.toNat, 11), (km.toNat, 19), (ty.toNat, 22)])
  | .vexp2 d a km ty => some (pack 268435537 [(d.toNat, 7), (a.toNat, 11), (km.toNat, 19), (ty.toNat, 22)])
  | .vlog2 d a km ty => some (pack 402653265 [(d.toNat, 7), (a.toNat, 11), (km.toNat, 19), (ty.toNat, 22)])
  | .vtanh d a km ty => some (pack 536870993 [(d.toNat, 7), (a.toNat, 11), (km.toNat, 19), (ty.toNat, 22)])
  | .vsigm d a km ty => some (pack 671088721 [(d.toNat, 7), (a.toNat, 11), (km.toNat, 19), (ty.toNat, 22)])
  | .vsin d a km ty => some (pack 805306449 [(d.toNat, 7), (a.toNat, 11), (km.toNat, 19), (ty.toNat, 22)])
  | .vcos d a km ty => some (pack 939524177 [(d.toNat, 7), (a.toNat, 11), (km.toNat, 19), (ty.toNat, 22)])
  | .mcmd a qn => some (pack 85 [(a.toNat, 12), (qn.toNat, 22)])
  | .mresume qn => some (pack 134217813 [(qn.toNat, 22)])
  | .mabort qn => some (pack 268435541 [(qn.toNat, 22)])
  | .mstat d qn => some (pack 402653269 [(d.toNat, 7), (qn.toNat, 22)])
  | .mmap a b qn => some (pack 536870997 [(a.toNat, 12), (b.toNat, 17), (qn.toNat, 22)])
  | .mmov d ty row => some (pack 87 [(d.toNat, 7), (ty.toNat, 12), (row.toNat, 17)])
  | .mmovw d ty row => some (pack 2097239 [(d.toNat, 7), (ty.toNat, 12), (row.toNat, 17)])
  | .cpy d a b num fl cc => some (pack 89 [(d.toNat, 7), (a.toNat, 12), (b.toNat, 17), (num.toNat, 22), (fl.toNat, 30), (cc.toNat, 31)])
  | .cpys qn a b num cc => some (pack 134217817 [(qn.toNat, 7), (a.toNat, 12), (b.toNat, 17), (num.toNat, 22), (cc.toNat, 31)])
  | .cpy2d a num fl cc => some (pack 268435545 [(a.toNat, 12), (num.toNat, 22), (fl.toNat, 30), (cc.toNat, 31)])
  | .coll a off pos => some (pack 402653273 [(a.toNat, 12), (off.toNat, 22), (pos.toNat, 25)])
  | .ecfg a tm => some (pack 91 [(a.toNat, 12), (tm.toNat, 22)])
  | .etrig tm => some (pack 134217819 [(tm.toNat, 22)])
  | .wpush a b => some (pack 268435547 [(a.toNat, 12), (b.toNat, 17)])
  | .wpop d b => some (pack 402653275 [(d.toNat, 7), (b.toNat, 17)])
  | .wquiet d pos => some (pack 536871003 [(d.toNat, 7), (pos.toNat, 22)])
  | .wlvl d a => some (pack 671088731 [(d.toNat, 7), (a.toNat, 12)])
  | .trap imm => some (pack 93 [(imm.toNat, 20)])
  | .eret => some 131165
  | .upret => some 262237
  | .crr d imm => some (pack 393309 [(d.toNat, 7), (imm.toNat, 20)])
  | .crw d a imm => some (pack 524381 [(d.toNat, 7), (a.toNat, 12), (imm.toNat, 20)])
  | .yield => some 655453
  | .halt => some 786525
  | .slotgo a b => some (pack 95 [(a.toNat, 12), (b.toNat, 17)])
  | .slothalt a => some (pack 134217823 [(a.toNat, 12)])
  | .istw a b => some (pack 268435551 [(a.toNat, 12), (b.toNat, 17)])
  | .plbinv a => some (pack 402653279 [(a.toNat, 12)])
  | .csave a => some (pack 536871007 [(a.toNat, 12)])
  | .crest a => some (pack 671088735 [(a.toNat, 12)])
  | .rbar => some 97
  | .miradd a b => some (pack 134217825 [(a.toNat, 12), (b.toNat, 17)])
  | .mirdel a b => some (pack 268435553 [(a.toNat, 12), (b.toNat, 17)])
  | .rstat d => some (pack 402653281 [(d.toNat, 7)])
  | .phint sh => some (pack 99 [(sh.toNat, 22)])
  | .pcapw a => some (pack 134217827 [(a.toNat, 12)])
  | .shedw a => some (pack 268435555 [(a.toNat, 12)])
  | .benchFormationTimeout .. | .redArrival .. | .hostAtomicCompletion .. | .mwaitTimeout .. => none
  | .groupArrivalMessage .. | .groupCompletionMessage .. | .cwaitTimeout .. | .messageArrival .. => none
  | .heldMessageDeposit .. | .holdTimeout .. | .messageRefusal .. | .refusalResend .. => none
  | .nameTableWalk .. | .channelReturnArrival .. | .channelProbe .. | .channelProbeArrival .. => none
  | .chsyncRequestArrival .. | .chsyncReplyArrival .. | .chsyncTimeout .. | .flowDepositAck .. => none
  | .qcfgWrite .. | .specialFunctionResult .. | .matrixCommandStart .. | .matrixKstep .. => none
  | .matrixCommandComplete .. | .matrixStateError .. | .stsprRowArrival .. | .stsprClosingArrival .. => none
  | .copyPiece .. | .copyComplete .. | .collUnitTransfer .. | .collUseComplete .. => none
  | .collBadData .. | .termFire .. | .levellingInterval .. | .workItemsArrival .. => none
  | .workItemsReturn .. | .wquietQuiescent .. | .wlcfgWrite .. | .asyncCauseEntry .. => none
  | .timerInterrupt .. | .slotRejoin .. | .fncfgWrite .. | .slotgoArrival .. => none
  | .slothaltArrival .. | .istwArrival .. | .plbinvAck .. | .completionNoticeArrival .. => none
  | .noticeReturn .. | .handoverCommand .. | .slotCapture .. | .bankExchange .. => none
  | .handoverComplete .. | .roundStream .. | .mirrorStreamComplete .. | .commitPoint .. => none
  | .roundCommit .. | .recoveryBegin .. | .repowerAttempt .. | .powerGood .. => none
  | .selfTestComplete .. | .recoveryRestore .. | .resendLogRewind .. | .resyncRetry .. => none
  | .recoveryRelease .. | .containmentEvent .. | .shedDeadlineExpiry .. | .coreRetention .. => none
  | .budgetTick .. | .telemetryFrame .. | .frameLossTimeout .. | .telemetryEcho .. => none
  | .currentStepSample .. | .riseHeld .. | .senseClr .. | .degrClear .. => none
  | .zoneTrip .. | .phaseFailure .. | .thermalClamp .. | .thermalPark .. => none
  | .thermalShutdown .. | .clampLift .. | .thermalRestart .. | .registerWrite .. => none
  | .remoteRequest .. | .remoteReply .. | .writeAck .. | .plbWalk .. => none
  | .translationWalk .. | .writeThroughDrain .. | .waitTableRefusal .. | .feclrComplete .. => none
  | .jobLaunch .. | .placementWaitExpiry .. | .jobComplete .. | .launchRecordRead .. => none
  | .submit .. | .wqcfg .. | .queueOwnershipWrite .. | .partlink .. => none
  | .notify .. | .fqhead .. | .faultPostArrival .. | .snapctl .. => none
  | .lockInterface .. | .startInterface .. | .stopInterface .. | .functionLevelReset .. => none
  | .tdispViolation .. | .getMeasurements .. | .hostAtomicop .. | .opticalFrameReceive .. => none
  | .opticalReplayTimeout .. | .opticalPortUp .. | .layoutbell .. | .layoutReply .. => none
  | .commit .. | .meshTick .. | .busyClear .. | .journalReconcile .. => none
  | .retirementAppend .. | .bootLogRead .. | .watchdogExpiry .. | .wdog .. => none
  | .firmwareImageLoad .. | .illegalInstruction .. | .compactForm .. | .fetchFault .. => none
  | .unexplainedStepDrop .. | .thermalRepowerDeadline .. | .panelPowerLoss .. | .hostMemoryRequest .. => none
  | .scrubberPass .. | .mwaitTcmpInterrupt .. | .frameTableWrite .. => none
/-- The bytes of an instruction as the instruction store holds them (R50): two of a compact form, four of another;
none of a step without an encoding. -/
def encode (i : Instr) : Option (List Byte) :=
  match i with
  | .compactForm f => some (bytesOf 2 (encodeCompact f))
  | _ =>
    match encodeWord i with
    | some w => some (bytesOf 4 w)
    | none => none

end Sys2Proof
end

