-- ==== Sys2Proof/Machine/Fetch.lean ====
section
/-!
DEFINITION. Fetching: the instruction that stands at a slot's PC in its instruction-store slice (R50 to R53), and the
choice of the slot that issues in a cycle of a core (R24 to R30).
-/
namespace Sys2Proof.Machine

/-- The instruction a slot fetches from the store of core `n`, its own or its bench leader's (R124): the decoded one, the
illegal instruction with its bits (R53), or the failed fetch (R52, R341). Where only the second halfword of a 32-bit
instruction lies past the slice, the failed fetch address is that halfword's (DESIGN CHOICE, log 46: the spec names a fetch
address and not which halfword's). -/
def State.fetchFrom (s : State) (n : Nat) (sl : Slot) : Instr :=
  let off := sl.pc.toNat
  let sc := s.slice n sl.who
  let a := istoreAddr n (sc.1 + off)
  if sc.2 < off + 2 then .fetchFault sl.pc false
  else if (s.badIn a 2).isSome then .fetchFault sl.pc true
  else
    let h := s.peek a 2
    if h % 2 = 0 then
      match decode (bytesOf 2 h) with
      | .ok (ins, _) => ins
      | .error _ => .illegalInstruction false (BitVec.ofNat 32 h)
    else if sc.2 < off + 4 then .fetchFault (sl.pc + 2) false
    else if (s.badIn (a + 2) 2).isSome then .fetchFault (sl.pc + 2) true
    else
      let w := s.peek a 4
      match decode (bytesOf 4 w) with
      | .ok (ins, _) => ins
      | .error _ => .illegalInstruction true (BitVec.ofNat 32 w)

/-- The instruction slot `i` of core `n` fetches from its own core's instruction store. -/
def State.fetch (s : State) (n : Nat) (i : SlotNo) : Instr := s.fetchFrom n (s.slot n i)

/-- Whether cycle `t` permits issue at fetch duty `d` (R30). -/
def dutyPermits (t d : Nat) : Bool := decide ((t % 16) * d / 16 < ((t % 16) + 1) * d / 16)

/-- Whether a slot is ready in cycle `t` of its core (R25): started, in the rotation, not parked, four cycles after its last
issue, and no longer held back by a YIELD (R338). -/
def Slot.readyIn (sl : Slot) (t : Nat) : Bool :=
  sl.run == .running && !sl.parked && decide (sl.readyAt ≤ t) && (sl.yields == [] || decide (sl.yieldEnd ≤ t))

/-- Whether a slot is ready in the core's present cycle (R25). -/
def Core.ready (c : Core) (i : SlotNo) : Bool := (c.slot i).readyIn c.t

/-- The slots in ring order after slot number `last` (R24, R26). -/
def ringAfter (last : Nat) : List SlotNo := (List.range 16).map (fun k => Fin.ofNat 16 (last + 1 + k))

/-- Whether a core issues in isolated mode: its live slots belong to more than one partition (R28). -/
def State.isolatedMode (s : State) (n : Nat) : Bool := decide (1 < (s.partsOn n).length)

/-- The members of a slot's bench that lie on other cores: leader first, in column order (R122, R126). -/
def benchCores (b : Bench) : List Nat := (List.range b.span).map (fun p => b.leader + p)

/-- The core whose counts of R29 and R30 core `n` uses: the leader's while a bench stands on one of its slots (R124). Where
benches of two slot numbers with different leaders stand on one core, the spec does not say whose counts it uses: the model
takes those of the bench in the lowest slot number (DESIGN CHOICE, log 46). -/
def State.countsOf (s : State) (n : Nat) : Core :=
  match (s.core n).slots.toList.findSome? (fun sl => sl.bench) with
  | some b => s.core b.leader
  | none => s.core n

/-- The partition that owns the present issue opportunity of an isolated core (R29). -/
def State.turnOwner (s : State) (n : Nat) : Option (BitVec 6) :=
  (s.partsOn n).find? (fun p => s.ownsSlot p n ((s.countsOf n).o % 16))

/-- Whether fetch duty and, on an isolated core, the present opportunity permit slot `i` of a core to issue (R29, R30). -/
def State.permits (s : State) (n : Nat) (i : SlotNo) : Bool :=
  dutyPermits (s.countsOf n).p (s.core n).fduty.toNat &&
    (!s.isolatedMode n || (match s.turnOwner n with
      | some p => s.ownsSlot p n i.val
      | none => false))

/-- Whether a slot may be chosen: alone, or as the leader of a bench whose members are all ready and permitted to issue
(R124). -/
def State.mayIssue (s : State) (n : Nat) (i : SlotNo) : Bool :=
  match (s.slot n i).bench with
  | none => (s.core n).ready i && s.permits n i
  | some b => decide (b.leader = n) && (benchCores b).all (fun m => (s.core m).ready i && s.permits m i && !s.dying m)

/-- The slot that issues in the core's present cycle, in work-conserving or in isolated mode (R26, R29); none on a core that has
stopped (R376). -/
def State.chosen (s : State) (n : Nat) : Option SlotNo :=
  let c := s.core n
  if c.isolated || c.asleep || s.dying n then none
  else
    let last := if s.isolatedMode n then
        match s.turnOwner n with
        | some p => (lookupNat p.toNat c.lastOf).getD 15
        | none => 15
      else c.lastIssuer
    (ringAfter last).find? (fun i => s.mayIssue n i)

/-- A core after a cycle: the cycle counted, and the opportunity where fetch duty permits one (R29, R30). -/
def State.tickCore (s : State) (n : Nat) : State :=
  s.modCore n (fun c =>
    { c with t := c.t + 1, p := c.p + 1, o := if dutyPermits c.p c.fduty.toNat then c.o + 1 else c.o })

/-- A slot that has issued: not ready for four cycles (R25), its own YIELD over. -/
def Slot.issued (sl : Slot) (t : Nat) : Slot := { sl with readyAt := t + 4, yields := [] }

/-- The slots of a core after slot `i` has issued: no YIELD waits for it any longer (R338). -/
def Core.noteIssue (c : Core) (i : SlotNo) : Core :=
  { c with slots := c.slots.map (fun sl =>
      if sl.yields.contains i then { sl with yields := sl.yields.filter (· != i) } else sl) }

/-- The state in which slot `i` of core `n` issues: the issuer noted (R26, R29, R338), the slot not ready for four cycles
(R25), the cycle counted. -/
def State.beginIssue (s : State) (n : Nat) (i : SlotNo) : State :=
  let sl := s.slot n i
  let s1 := s.modCore n (fun c =>
    { (c.noteIssue i).setSlot i (sl.issued c.t) with
      lastIssuer := i.val, lastOf := insertNat sl.st.partition.toNat i.val c.lastOf })
  { s1.tickCore n with curCore := n, curSlot := i, trapped := false }

/-- Whether an asynchronous cause can be taken at the slot's next boundary: an upcall cause waits while an upcall runs
(R336, R341). -/
def Slot.takeable (sl : Slot) (c : BitVec 8) : Bool :=
  !(upcallCause c && sl.st.mode == .user && sl.vec.upvec.getLsbD 0 && sl.st.upc)

/-- The asynchronous cause a slot takes next: of those that can be taken, the lowest code (R341). -/
def Slot.nextCause (sl : Slot) : Option (BitVec 8 × Dword) :=
  (sl.pending.filter (fun p => sl.takeable p.1)).foldl
    (fun best p => match best with
      | none => some p
      | some b => if p.1.toNat < b.1.toNat then some p else some b) none

end Sys2Proof.Machine
end

