-- ==== Sys2Proof/Machine/Control.lean ====
section
/-!
DEFINITION. Control flow, hardware loops and benches, majors 0x08 to 0x0B (R109 to R130), and the time limit on a bench's
formation (R123).
-/
namespace Sys2Proof.Machine

/-! ### Illegal instructions -/

/-- The illegal-instruction fault, with the instruction in EADDR (R53). -/
def State.illegal (s : State) (word : Nat) : State := s.fault 0x01 (BitVec.ofNat 64 word)

/-- The bits of an instruction of the table. -/
def wordOf (i : Instr) : Nat := (encodeWord i).getD 0

/-- Whether the executing slot stands on an edge core (R160). -/
def State.onEdge (s : State) : Bool :=
  match s.kindOf s.curCore with
  | .edge _ _ => true
  | _ => false

/-! ### Branches and jumps -/

/-- A conditional branch of `len` bytes (R112). -/
def State.branch (s : State) (len : Nat) (taken : Bool) (off : Dword) : State :=
  if taken then s.transfer (s.me.pc + off) else s.finish len

/-- A jump that writes the return address, unless the target is outside the slice (R114). -/
def State.jumpLink (s : State) (len : Nat) (d : BitVec 5) (t : Dword) : State :=
  if s.inSlice t then (s.setG d (s.me.pc + BitVec.ofNat 64 len)).jump t else s.fault 0x07 t

/-- Twice a sign-extended halfword offset. -/
def halfOff {w : Nat} (off : BitVec w) : Dword := off.signExtend 64 <<< 1

/-- BEQ (R112). -/
def execBeq (a b : BitVec 5) (off : BitVec 12) (s : State) : Host.Outcome State Fault Refusal :=
  .next (s.branch 4 (s.getG a == s.getG b) (halfOff off))
/-- BNE (R112). -/
def execBne (a b : BitVec 5) (off : BitVec 12) (s : State) : Host.Outcome State Fault Refusal :=
  .next (s.branch 4 (s.getG a != s.getG b) (halfOff off))
/-- BLT (R112). -/
def execBlt (a b : BitVec 5) (off : BitVec 12) (s : State) : Host.Outcome State Fault Refusal :=
  .next (s.branch 4 ((s.getG a).slt (s.getG b)) (halfOff off))
/-- BGE (R112). -/
def execBge (a b : BitVec 5) (off : BitVec 12) (s : State) : Host.Outcome State Fault Refusal :=
  .next (s.branch 4 (!(s.getG a).slt (s.getG b)) (halfOff off))
/-- BLTN (R112). -/
def execBltn (a b : BitVec 5) (off : BitVec 12) (s : State) : Host.Outcome State Fault Refusal :=
  .next (s.branch 4 ((s.getG a).ult (s.getG b)) (halfOff off))
/-- BGEN (R112). -/
def execBgen (a b : BitVec 5) (off : BitVec 12) (s : State) : Host.Outcome State Fault Refusal :=
  .next (s.branch 4 (!(s.getG a).ult (s.getG b)) (halfOff off))
/-- JAL (R114). -/
def execJal (d : BitVec 5) (off : BitVec 20) (s : State) : Host.Outcome State Fault Refusal :=
  .next (s.jumpLink 4 d (s.me.pc + halfOff off))
/-- JALR (R114). -/
def execJalr (d a : BitVec 5) (imm : BitVec 12) (s : State) : Host.Outcome State Fault Refusal :=
  let t := s.getG a + imm.signExtend 64
  .next (if t.getLsbD 0 then s.fault 0x03 t else s.jumpLink 4 d t)

/-! ### Hardware loops -/

/-- The length of the instruction at an offset of the own slice (R50, R117). -/
def State.after (s : State) (off : Dword) : Dword := off + BitVec.ofNat 64 (s.lenAt off)

/-- The executing slot's loop registers changed. -/
def State.modLoops (s : State) (f : Loops → Loops) : State := s.modMe (fun sl => { sl with loops := f sl.loops })

/-- LOOP and LOOPI: the level taken, or the body skipped (R117). -/
def State.startLoop (s : State) (count : Word) (off : Nat) : State :=
  let l := s.me.loops
  let lend := s.me.pc + BitVec.ofNat 64 (2 * off)
  if l.lcnt1 ≠ 0 then s.fault 0x05 s.noAddr
  else if !s.inSlice lend then s.fault 0x07 lend
  else if count = 0 then s.modMe (fun sl => { sl with ilen := 4 }.finishTo (s.after lend))
  else
    let beg : BitVec 17 := (s.me.pc + 4).setWidth 17
    let fin : BitVec 17 := lend.setWidth 17
    let l1 := if l.lcnt0 ≠ 0 then { l with lcnt1 := count, lbeg1 := beg, lend1 := fin }
              else { l with lcnt0 := count, lbeg0 := beg, lend0 := fin }
    (s.modLoops (fun _ => l1)).finish 4

/-- LOOP (R117). -/
def execLoop (a : BitVec 5) (off : BitVec 16) (s : State) : Host.Outcome State Fault Refusal :=
  .next (s.startLoop ((s.getG a).setWidth 32) off.toNat)
/-- LOOPI (R117). -/
def execLoopi (off : BitVec 8) (cc : BitVec 16) (s : State) : Host.Outcome State Fault Refusal :=
  .next (s.startLoop (cc.setWidth 32) off.toNat)

/-- LBRK: the innermost level freed, and control past its end (R121). -/
def execLbrk (s : State) : Host.Outcome State Fault Refusal :=
  let l := s.me.loops
  if l.lcnt1 ≠ 0 then
    let t := s.after (l.lend1.setWidth 64)
    .next (if s.inSlice t then (s.modLoops (fun l => { l with lcnt1 := 0 })).jump t else s.fault 0x07 t)
  else if l.lcnt0 ≠ 0 then
    let t := s.after (l.lend0.setWidth 64)
    .next (if s.inSlice t then (s.modLoops (fun l => { l with lcnt0 := 0 })).jump t else s.fault 0x07 t)
  else .next (s.fault 0x05 s.noAddr)

/-! ### Benches -/

/-- The remap entry of a logical core in the layout in force (R420): the core of its own place where none is listed, zero in a bank
that nothing has written. -/
def State.remapOf (s : State) (n : Nat) : BitVec 16 :=
  (lookupNat n s.layout.remap).getD
    (if s.layout.blank then 0 else BitVec.ofNat 16 (2 ^ 15 + s.rowOf n % 12 * 16 + s.colOf n % s.layout.cols))

/-- The physical row within its chiplet that backs a logical core (R420). -/
def State.physRow (s : State) (n : Nat) : Nat := fieldOf (s.remapOf n) 7 4

/-- The physical column within its chiplet that backs a logical core (R420). -/
def State.physCol (s : State) (n : Nat) : Nat := fieldOf (s.remapOf n) 3 0

/-! ### Routes over the mesh (R421, R502, R504) -/

/-- The router of a grid core: its row and column among the panel's routers (R504). -/
def State.routerOf (s : State) (n : Nat) : Nat × Nat := (12 * s.chipY n + s.physRow n, 12 * s.chipX n + s.physCol n)

/-- The router a flit reaches by leaving a router at a port: 0 north, 1 east, 2 south, 3 west (R421). -/
def moveBy (a : Nat × Nat) (port : Nat) : Nat × Nat :=
  match port with
  | 0 => (a.1 - 1, a.2)
  | 1 => (a.1, a.2 + 1)
  | 2 => (a.1 + 1, a.2)
  | _ => (a.1, a.2 - 1)

/-- The opposite port. -/
def oppositePort (p : Nat) : Nat := (p + 2) % 4

/-- Whether a port of a router leads to another router of the panel (R504). -/
def portInside (a : Nat × Nat) (port : Nat) : Bool :=
  match port with
  | 0 => decide (0 < a.1)
  | 1 => decide (a.2 < 239)
  | 2 => decide (a.1 < 239)
  | _ => decide (0 < a.2)

/-- The port by which a flit leaves a router for a destination: first east or west, then north or south; none once it is there
(R504). -/
def nextPort (a d : Nat × Nat) : Option Nat :=
  if a.2 < d.2 then some 1 else if d.2 < a.2 then some 3 else if a.1 < d.1 then some 2 else if d.1 < a.1 then some 0 else none

/-- The three hops of a router's detour entry for a dead port on a plane, if it holds one; entries are listed by router number,
240 to a row (R21, R421). -/
def State.detour (s : State) (a : Nat × Nat) (port : Nat) (msg : Bool) : Option (Nat × Nat × Nat) :=
  (s.layout.detours.find? (fun d =>
    d.1 == 240 * a.1 + a.2 && d.2.2.getLsbD 31 && d.2.2.getLsbD (if msg then 29 else 30) &&
      fieldOf d.2.2 26 24 == port)).map (fun d => (fieldOf d.2.2 23 21, fieldOf d.2.2 20 18, fieldOf d.2.2 17 15))

/-- The routers of a route on a plane (R421, R504); `fuel` bounds them. -/
def State.route (s : State) (msg : Bool) : Nat → Nat × Nat → Nat × Nat → List (Nat × Nat)
  | 0, _, _ => []
  | fuel + 1, a, d =>
    match nextPort a d with
    | none => [a]
    | some p =>
      match s.detour a p msg with
      | none => a :: s.route msg fuel (moveBy a p) d
      | some h =>
        let b := moveBy a h.1
        let c := moveBy b h.2.1
        a :: b :: c :: s.route msg fuel (moveBy c h.2.2) d

/-- The mesh links of a route between two cores on the message plane, each by the numbers of its two routers. -/
def State.linksBetween (s : State) (m n : Nat) : List (Nat × Nat) :=
  let rs := (s.route true 480 (s.routerOf m) (s.routerOf n)).map (fun r => 240 * r.1 + r.2)
  (rs.zip rs.tail).map (fun e => (min e.1 e.2, max e.1 e.2))

/-- The compute chiplet that a root chiplet is joined to (R502). -/
def rootAt (k : Nat) : Nat × Nat := if k = 0 then (9, 0) else (10, 19)

/-- Distance from compute chiplet (x, y) to root chiplet `k` (R502). -/
def rootDistance (x y k : Nat) : Nat := absDiff x (rootAt k).1 + absDiff y (rootAt k).2

/-- Column of a core within its chiplet (R122). -/
def State.localCol (s : State) (n : Nat) : Nat := s.colOf n % s.layout.cols

/-- Whether a bench of `span` cores may be led by slot `i` of core `n` (R122). -/
def State.benchFits (s : State) (n : Nat) (i : SlotNo) (span : Nat) : Bool :=
  s.isGrid n && decide (s.localCol n + span ≤ s.layout.cols) &&
    (List.range span).all (fun k =>
      let m := n + k
      s.physRow m == s.physRow n && (s.capOf m).benchOk && s.ownsSlot (s.slot n i).st.partition m i.val)

/-- Whether slot `i` of core `l` waits as the leader of a bench of a span, in a job. -/
def State.leads (s : State) (l : Nat) (i : SlotNo) (span : Nat) (job : Option Nat) : Bool :=
  match (s.slot l i).wait? with
  | some (.bench n _) => n == span && (s.slot l i).job == job
  | _ => false

/-- Whether the limit on a bench's formation has passed for a slot that waits for it: 65,536 cycles of its core (R123). -/
def State.benchLate (s : State) (n : Nat) (i : SlotNo) : Bool :=
  match (s.slot n i).wait? with
  | some (.bench _ dl) => decide (dl ≤ (s.core n).t)
  | some (.benchF _ dl _) => decide (dl ≤ (s.core n).t)
  | _ => false

/-- The nearest leader that a follower on core `m` can join (R123). -/
def State.nearestLeader (s : State) (m : Nat) (i : SlotNo) (span : Nat) : Option Nat :=
  ((List.range (min (span - 1) (s.localCol m))).map (fun k => m - 1 - k)).find?
    (fun l => s.leads l i span (s.slot m i).job && !s.benchLate l i)

/-- Whether slot `i` of core `m` has joined the leader on core `l`. -/
def State.joined (s : State) (m : Nat) (i : SlotNo) (l span : Nat) : Bool :=
  match (s.slot m i).wait? with
  | some (.benchF n _ (some x)) => n == span && x == l && s.leads l i span (s.slot m i).job
  | _ => false

/-- Followers that can join the leader on core `l` do so. -/
def State.joinAll (s : State) (l : Nat) (i : SlotNo) (span : Nat) : State :=
  (List.range (span - 1)).foldl (fun s k =>
    let m := l + 1 + k
    match (s.slot m i).wait? with
    | some (.benchF n dl old) =>
      let free : Bool := match old with
        | none => true
        | some x => !s.joined m i x n
      if n = span ∧ free ∧ !s.benchLate m i ∧ s.nearestLeader m i span = some l then s.parkSlot m i (.benchF n dl (some l)) else s
    | _ => s) s

/-- A member takes its place as the bench forms: its instruction completes, it follows the leader's stream, and it takes
over the leader's counts (R123, R124). -/
def State.takePlace (s : State) (l : Nat) (i : SlotNo) (span : Nat) (next : Dword) (k : Nat) : State :=
  let s1 := s.modSlot (l + k) i (fun sl =>
    let sl1 := { sl with ilen := 4 }.finish
    { sl1 with pc := if k = 0 then sl1.pc else next, run := .waiting .rejoin,
               bench := some { leader := l, span := span, pos := k, done := 0 },
               st := { sl1.st with brole := if k = 0 then 1 else 2 } })
  s1.modCore (l + k) (fun c => { c with p := (s.core l).p, o := (s.core l).o })

/-- The bench of a leader forms when every follower has joined (R123). -/
def State.formBench (s : State) (l : Nat) (i : SlotNo) (span : Nat) : State :=
  if (List.range (span - 1)).all (fun k => s.joined (l + 1 + k) i l span) then
    let s1 := s.takePlace l i span 0 0
    let next := (s1.slot l i).pc
    (List.range (span - 1)).foldl (fun s k => s.takePlace l i span next (k + 1)) s1
  else s

/-- A member leaves its bench with a cause: it keeps every register and goes on from the leader's counts (R124, R127). -/
def State.leaveBench (s : State) (n : Nat) (i : SlotNo) (cause : BitVec 3) : State :=
  match (s.slot n i).bench with
  | none => s
  | some b =>
    (s.modSlot n i (fun sl => { sl with bench := none, st := { sl.st with bend := cause, brole := 0 } })).modCore n
      (fun c => { c with p := (s.core b.leader).p, o := (s.core b.leader).o })

/-- BENCH: placement checked, then the leader waits for its followers, for 65,536 cycles from its own, which is counted
already (R122, R123). The field holds n − 1. -/
def execBench (num : BitVec 3) (s : State) : Host.Outcome State Fault Refusal :=
  let span := num.toNat + 1
  if s.onEdge then .next (s.illegal (wordOf (.bench num)))
  else if s.me.bench.isSome then .next (s.fault 0x08 s.noAddr)
  else if !s.benchFits s.curCore s.curSlot span then .next (s.fault 0x06 s.noAddr)
  else
    let s1 := s.park (.bench span (s.here.t + 65535))
    .next ((s1.joinAll s.curCore s.curSlot span).formBench s.curCore s.curSlot span)

/-- BENCH.F: the follower joins the nearest leader or waits for one (R123). -/
def execBenchF (num : BitVec 3) (s : State) : Host.Outcome State Fault Refusal :=
  let span := num.toNat + 1
  if s.onEdge then .next (s.illegal (wordOf (.benchF num)))
  else if s.me.bench.isSome then .next (s.fault 0x08 s.noAddr)
  else
    let leader := s.nearestLeader s.curCore s.curSlot span
    let s1 := s.park (.benchF span (s.here.t + 65535) leader)
    match leader with
    | some l => .next (s1.formBench l s.curSlot span)
    | none => .next s1

/-- SPLIT: the member leaves its bench with cause 1; outside one only the PC advances (R127). Where another member takes a
fault or an upcall at that SPLIT, this one still leaves with cause 1 and the other with cause 3: R127 does not say which of its
rows then holds (DESIGN CHOICE, log 54). -/
def execSplit (s : State) : Host.Outcome State Fault Refusal :=
  .next ((s.finish 4).leaveBench s.curCore s.curSlot 1)

/-- A bench ends with a cause on every member (R127). -/
def State.dissolve (s : State) (b : Bench) (i : SlotNo) (cause : BitVec 3) : State :=
  (benchCores b).foldl (fun s m => s.leaveBench m i cause) s

/-- Whether every member of a bench has completed the same instructions and waits for nothing more: an instruction boundary
of the bench. -/
def State.benchBoundary (s : State) (b : Bench) (i : SlotNo) : Bool :=
  (benchCores b).all (fun m =>
    let sl := s.slot m i
    sl.bench.map Bench.done == (s.slot b.leader i).bench.map Bench.done &&
      (sl.run == .running || sl.run == .waiting .rejoin) && sl.taking.isNone)

/-- At a boundary a bench ends with cause 2 where its members' next addresses differ (R128), and with cause 4 where a member is
to be captured (R130). -/
def State.settleBench (s : State) (b : Bench) (i : SlotNo) : State :=
  if s.benchBoundary b i then
    if (benchCores b).any (fun m => (s.slot m i).pc != (s.slot b.leader i).pc) then s.dissolve b i 2
    else if (benchCores b).any (fun m => (s.slot m i).capture) then s.dissolve b i 4
    else s
  else s

/-- The cores that share a standing bench with core `n`. -/
def State.benchMates (s : State) (n : Nat) : List Nat :=
  n :: (s.core n).slots.toList.flatMap (fun sl => match sl.bench with
    | some b => benchCores b
    | none => [])

/-- Cores joined by standing benches, directly or through others; a row of a chiplet bounds their number. -/
def State.benchClosure (s : State) : Nat → List Nat → List Nat
  | 0, ms => ms
  | fuel + 1, ms =>
    let ms1 := (ms.flatMap s.benchMates).eraseDups
    if ms1.length = ms.length then ms else s.benchClosure fuel ms1

/-- The cores whose clocks run locked with that of core `n` (R124), in ascending order. -/
def State.lockedWith (s : State) (n : Nat) : List Nat :=
  let ms := s.benchClosure 12 [n]
  if ms.length = 1 then ms else (List.range 12).filterMap (fun k =>
    let m := n - s.localCol n + k
    if ms.contains m then some m else none)

/-- Whether a slot takes a fault that an answer brought or a cause at its turn, instead of its instruction (R341). -/
def Slot.takesCause (sl : Slot) : Bool := sl.taking.isSome || sl.nextCause.isSome

/-- The member positions of a bench on which its instruction completes: those whose slots take no cause (R129). -/
def State.completing (s : State) (b : Bench) (i : SlotNo) : List Nat :=
  (List.range b.span).filter (fun p => !(s.slot (b.leader + p) i).takesCause)

/-- BXCH: every member of the bench gets its neighbour's register, all read before any is written; the turn of the first
member that takes no cause does it for all that take none (R126, R129). Outside a bench, vd := va. -/
def execBxch (d a : BitVec 4) (row : BitVec 1) (s : State) : Host.Outcome State Fault Refusal :=
  if s.onEdge then .next (s.illegal (wordOf (.bxch d a row)))
  else
    match s.me.bench with
    | none => .next ((s.setV d (s.getV a)).finish 4)
    | some b =>
      let ms := s.completing b s.curSlot
      if ms.headD b.pos ≠ b.pos then .next (s.finish 4)
      else
        let src := fun p => if row = 0 then (p + 1) % b.span else (p + b.span - 1) % b.span
        let s1 := ms.foldl (fun t p =>
          t.modSlot (b.leader + p) s.curSlot (fun sl => sl.setV d ((s.slot (b.leader + src p) s.curSlot).getV a))) s
        .next (s1.finish 4)

/-- A waiting member of a bench that did not form faults 0x08 (R123, R127). -/
def State.failBench (s : State) (n : Nat) (i : SlotNo) : State :=
  (s.modSlot n i (fun sl => { sl with st := { sl.st with bend := 5 } })).answerFault n i 0x08 s.noAddr

/-- BENCH_FORMATION_TIMEOUT: the limit of 65,536 cycles passes: the leader with the followers that have joined, or a
follower that has joined none, fault (R123). -/
def execBenchFormationTimeout (s : State) : Host.Outcome State Fault Refusal :=
  match s.arg with
  | .slot n i =>
    match (s.slot n i).wait? with
    | some (.bench span dl) =>
      if (s.core n).t < dl then .next s
      else
        let ms := ((List.range (span - 1)).map (fun k => n + 1 + k)).filter (fun m => s.joined m i n span)
        .next ((n :: ms).foldl (fun t m => t.failBench m i) s)
    | some (.benchF span dl leader) =>
      let has : Bool := match leader with
        | some l => s.joined n i l span
        | none => false
      if (s.core n).t < dl ∨ has then .next s else .next (s.failBench n i)
    | _ => .next s
  | _ => .next s

end Sys2Proof.Machine
end

