-- ==== Sys2Proof/Machine/Operands.lean ====
section
/-!
DEFINITION. Where an address leads: the windows (R131 to R133), names (R135, R217), the page table with its checks (R136 to
R143, R449), the rights of an access (R141) and the checks of an access in the order of R146. Nothing here changes the
state.
-/
namespace Sys2Proof.Machine

/-! ### Requesters -/

/-- Who makes an access: a core, the partition it acts for (none in management mode), and the mode that decides its rights
(R138, R141, R286). -/
structure Acc where
  core : Nat
  who : Option (BitVec 6)
  mode : Mode
  /-- The slot itself, where the access is an instruction's own. -/
  slot : Option SlotNo := none
  deriving DecidableEq, Repr

/-- The executing slot as a requester. -/
def State.acc (s : State) : Acc := 
  { core := s.curCore, who := s.me.who, mode := s.me.st.mode, slot := some s.curSlot }

/-- A slot as a requester. -/
def State.accOf (s : State) (n : Nat) (i : SlotNo) : Acc :=
  { core := n, who := (s.slot n i).who, mode := (s.slot n i).st.mode, slot := some i }

/-- A command of an engine as a requester: the partition and the mode of the slot that enqueued it (R138, R286). -/
def engineAcc (n : Nat) (p : BitVec 6) (m : Mode) : Acc :=
  { core := n, who := if m = .management then none else some p, mode := m }

/-- Partition of a requester as a number; partition 0 stands for none. -/
def Acc.part (a : Acc) : BitVec 6 := a.who.getD 0

/-- Kinds of access by the rights they need (R141). -/
inductive AccKind where
  /-- A load or vector load of a slot. -/
  | load
  /-- A read of an engine, or LDAQ. -/
  | read
  | write
  /-- AMO and RED. -/
  | both
  /-- Full/empty accesses: LDF; LDF.C; STF and FECLR. -/
  | feRead
  | feTake
  | feWrite
  /-- A read of an image or of code (EX). -/
  | image
  deriving DecidableEq, Repr

/-- Why an access goes no further: a fault with its address, or a wait after which the instruction issues again. -/
inductive Stop where
  | fault (cause : BitVec 8) (addr : Dword)
  | wait (w : Wait)
  deriving DecidableEq, Repr

/-! ### Names (R135, R217, R503) -/

/-- Whether a number is in a requester's name table: the cores of the partition's region, the further entries of its name
table, which name no unavailable core and no processor of a root (R418, R503), and the launch engines (R446); for a requester
without a partition, those of R503. -/
def State.nameKnown (s : State) (who : Option (BitVec 6)) (n : Nat) : Bool :=
  match who with
  | some p => s.inRegion p n || n == 0xF200 || n == 0xF201 || 
      (s.layout.names.contains (p.toNat, n) && decide (n < 0xF300) && (!s.isGrid n || (s.capOf n).avail))
  | none => n == 0xF200 || n == 0xF201 || (decide (0xF300 ≤ n) && decide (n ≤ 0xF307))

/-- Whether a core's name cache holds the entry of a number for a partition. -/
def State.nameCached (s : State) (a : Acc) (n : Nat) : Bool := (s.core a.core).names.contains (a.part, n)

/-- A number resolved through the name cache: a miss waits for the walk (R135). -/
def State.name (s : State) (a : Acc) (n : Nat) (va : Dword) : Except Stop Unit :=
  if s.nameCached a n then
    if s.nameKnown a.who n then .ok () else .error (.fault 0x30 va)
  else .error (.wait (.nameWalk n va))

/-! ### The page table (R136 to R140) -/

/-- Base of the power block (R399). -/
def pwrBase : Nat := 0x00FF000000100000
/-- Base of the capacity record (R417). -/
def capBase : Nat := 0x00FF000000200000
/-- Base of the watchdog words (R428); LAYOUTBELL lies at offset 0x40 (R479). -/
def wdogBase : Nat := 0x00FF000000300000
/-- Base of the group areas, 2^28 bytes for each partition (R208; DESIGN CHOICE, log 23). -/
def groupBase : Nat := 0x00FF001000000000
/-- Base of the domain-rights tables, 2^15 bytes for each partition (R141; DESIGN CHOICE, log 23). -/
def domainBase : Nat := 0x00FF002000000000

/-- Base of the name tables, 2^19 bytes for each partition: one 8-byte entry for each number (R135, R502; DESIGN CHOICE, log
23). -/
def nameBase : Nat := 0x00FF003000000000

/-- Whether an address lies in the panel control space (R131). -/
def isControl (va : Nat) : Bool := decide (va / 2 ^ 48 = 0xFF)

/-- Whether an address lies in a partition's group area (R208). -/
def inGroupArea (p : BitVec 6) (va : Nat) : Bool := decide (va / 2 ^ 28 = groupBase / 2 ^ 28 + p.toNat)

/-- Whether a control block holds the page of an address (R139, R502). -/
def controlPage (va : Nat) : Bool :=
  (decide (pwrBase ≤ va) && decide (va < pwrBase + 0x7000)) ||
  (decide (capBase ≤ va) && decide (va < capBase + 0x78000)) ||
  decide (va / 4096 = wdogBase / 4096) ||
  (decide (groupBase ≤ va) && decide (va < groupBase + 2 ^ 34)) ||
  (decide (domainBase ≤ va) && decide (va < domainBase + 2 ^ 21)) ||
  (decide (nameBase ≤ va) && decide (va < nameBase + 2 ^ 25))

/-- Pages of 4 KiB in a page of a SIZE (R137). -/
def sizePages (sz : Nat) : Nat :=
  match sz with
  | 0 => 1
  | 1 => 16
  | 2 => 512
  | _ => 262144

/-- Whether a present entry is malformed at a level for an address (R138, R139). -/
def malformed (level : Nat) (e va : Nat) : Bool :=
  let f := fun (hi lo : Nat) => e / 2 ^ lo % 2 ^ (hi + 1 - lo)
  let leaf := f 40 40 == 1
  let sz := f 39 38
  let home := f 61 60
  if !leaf then
    level == 0 || f 62 41 != 0 || sz != 0 || f 37 29 != 0
  else
    decide (3 ≤ level) || (level == 2 && sz != 3) || (level == 1 && sz != 2) || (level == 0 && decide (2 ≤ sz)) ||
    (f 53 53 == 1 && home != 2) || (home == 2 && sz == 3) ||
    (if isControl va then
      home != 1 || sz != 0 || f 37 36 != 0 || f 35 0 != va / 4096 % 2 ^ 36 || !controlPage va
     else if home = 2 then f 37 37 != 0 || f 20 9 != 0 || f 8 0 % sizePages sz != 0
     else if home = 3 then f 37 29 != 0 || f 23 17 != 0 || f 23 0 % sizePages sz != 0
     else f 37 29 != 0 || f 23 0 % sizePages sz != 0)

/-- The frame-table entry of a 2 MiB group (R449). -/
def State.groupEntry (s : State) (g : Nat) : Dword := (lookupNat g s.frames).getD 0

/-- The group that holds a frame of a stack (R449). -/
def groupOf (stack frame : Nat) : Nat := stack * 32768 + frame / 512

/-- Whether a requester's translation may use a frame: its partition owns the group, and the group holds page tables where
it must; without a partition, the group is of the firmware region, which no partition owns (R427, R449; log 35). -/
def State.frameAllowed (s : State) (who : Option (BitVec 6)) (stack frame : Nat) (table : Bool) : Bool :=
  let e := s.groupEntry (groupOf stack frame)
  match who with
  | some p => e.getLsbD 6 && fieldOf e 5 0 == p.toNat && (!table || e.getLsbD 7)
  | none => !e.getLsbD 6 && s.fwGroups.contains (groupOf stack frame)

/-- Physical address of a byte of a frame: host memory for a host frame (R449). -/
def State.framePhys (s : State) (stack frame off : Nat) : Nat :=
  let e := s.groupEntry (groupOf stack frame)
  if e.getLsbD 63 then hostBase + fieldOf e 62 20 * 2 ^ 21 + frame % 512 * 4096 + off
  else hbmAddr stack frame off

/-- A table entry read at a level: its index is the address's bits of that level (R136); at level 0 the lowest entry of a
64 KiB group decides (R140). Where that lowest entry is not a present leaf of SIZE 1 though the addressed entry is, the
addressed entry decides (DESIGN CHOICE, log 48: software must keep the sixteen identical, and the spec says no more). -/
def State.tableEntry (s : State) (level stack frame va : Nat) : Nat :=
  let i := va / 2 ^ (12 + 9 * level) % 512
  let rd := fun k => s.peek (s.framePhys stack frame (8 * k)) 8
  let low := rd (i / 16 * 16)
  if level = 0 ∧ low / 2 ^ 63 = 1 ∧ low / 2 ^ 40 % 2 = 1 ∧ low / 2 ^ 38 % 4 = 1 then low else rd i

/-- Frames of 4 KiB in an LLC slice's pinned region, whose size the layout sets in steps of 64 MiB (R138). -/
def State.pinnedFrames (s : State) (slice : Nat) : Nat := 16384 * min 4 ((lookupNat slice s.layout.pinned).getD 4)

/-- Whether a 4 KiB frame lies in an LLC slice's pinned region (R138). A leaf that names a frame
beyond it is taken as malformed (DESIGN CHOICE, log 48: the spec gives such a leaf no meaning). -/
def State.inPinned (s : State) (slice frame : Nat) : Bool :=
  decide (frame < s.pinnedFrames slice)

/-- The walk from an entry of a level down to a leaf, with the fault that ends it (R136, R139, R449). -/
def State.walkFrom (s : State) (who : Option (BitVec 6)) (va : Nat) : Nat → Nat → Except (BitVec 8) Nat
  | level, e =>
    if e / 2 ^ 63 = 0 then .error 0x11
    else if malformed level e va then .error 0x16
    else if e / 2 ^ 40 % 2 = 1 then .ok e
    else
      match level with
      | 0 => .error 0x16
      | l + 1 =>
        let stack := e / 2 ^ 24 % 32
        let frame := e % 2 ^ 24
        if l < 3 ∧ !s.frameAllowed who stack frame true then .error 0x10
        else s.walkFrom who va l (s.tableEntry l stack frame va)

/-- Domain rights of a partition in a domain, none outside its set (R141, R449). -/
def State.domainRights (s : State) (p : BitVec 6) (d : Nat) : Option (BitVec 6) :=
  match lookupNat p.toNat s.vfs with
  | some v => if v.domainSet.contains d then some ((lookupNat d v.domains).getD 0) else none
  | none => none

/-- The level-4 entry of an address: the table lies where trusted firmware has put it (R136, R449). -/
def State.rootEntry (s : State) (va : Nat) : Nat :=
  match s.root with
  | some r => s.tableEntry 4 r.1 r.2 va
  | none => 0

/-- The level-4 entries (R136). -/
def State.rootEntries (s : State) : List Nat :=
  match s.root with
  | some r => (List.range 256).map (fun i => s.tableEntry 4 r.1 r.2 (i * 2 ^ 48))
  | none => []

/-- The leaf that maps an address for a requester, after every check of a walk (R136 to R139, R427, R449). -/
def State.walk (s : State) (who : Option (BitVec 6)) (va : Nat) : Except (BitVec 8) Nat :=
  match s.walkFrom who va 4 (s.rootEntry va) with
  | .error c => .error c
  | .ok e =>
    let home := e / 2 ^ 60 % 4
    let domainOk := match who with
      | some p => (s.domainRights p (e / 2 ^ 41 % 2 ^ 12)).isSome
      | none => true
    let size := sizePages (e / 2 ^ 38 % 4)
    let frame := e % 2 ^ 24 + va / 4096 % size
    let frameOk := isControl va || home == 2 || (home == 3 && who.isSome) ||
      (decide (home < 2) && s.frameAllowed who (e / 2 ^ 24 % 32) frame false)
    if home = 3 ∧ !s.inPinned (e / 2 ^ 24 % 32) frame then .error 0x16
    else if domainOk && frameOk then .ok e else .error 0x10

/-- What a leaf grants to a requester, as a PLB entry holds it (R142). -/
def State.pageInfo (s : State) (who : Option (BitVec 6)) (va e : Nat) : PageInfo :=
  let bit := fun i => e / 2 ^ i % 2 == 1
  let rights : BitVec 6 := match who with
    | some p => (s.domainRights p (e / 2 ^ 41 % 2 ^ 12)).getD 0
    | none => 0
  { place :=
      if isControl va then .control
      else match e / 2 ^ 60 % 4 with
        | 0 => .hbm (e / 2 ^ 24 % 32)
        | 1 => .uncached (e / 2 ^ 24 % 32)
        | 2 => .store (e / 2 ^ 21 % 2 ^ 16) (e % 2 ^ 9 * 4096)
        | _ => .pinned (e / 2 ^ 24 % 32),
    rdU := bit 59 && rights.getLsbD 0, wrU := bit 58 && rights.getLsbD 1, exU := bit 57 && rights.getLsbD 2,
    rdS := bit 59 && rights.getLsbD 3, wrS := bit 58 && rights.getLsbD 4, exS := bit 57 && rights.getLsbD 5,
    rd := bit 59, wr := bit 58, ex := bit 57,
    sa := bit 56, vol := bit 55, mir := bit 54, fe := bit 53, snap := bit 62 }

/-- Base and size in bytes of the page a leaf maps; of a page pinned in an LLC slice, the part that the slice's pinned region
holds (R138). -/
def State.leafSpan (s : State) (va e : Nat) : Nat × Nat :=
  let size := sizePages (e / 2 ^ 38 % 4) * 4096
  let held := if e / 2 ^ 60 % 4 = 3 ∧ isControl va = false then
      min size ((s.pinnedFrames (e / 2 ^ 24 % 32) - e % 2 ^ 24) * 4096)
    else size
  (va / size * size, held)

/-- The PLB entry of a core that covers an address for a requester (R142). -/
def State.plbFind (s : State) (a : Acc) (va : Nat) : Option PlbEntry :=
  (s.core a.core).plb.find? (fun e => e.part == a.who && decide (e.base ≤ va) && decide (va < e.base + e.size))

/-- What a page grants to a requester: from the PLB, or by a walk when none is kept for it. -/
def State.page (s : State) (a : Acc) (va : Nat) : Except (BitVec 8) (Nat × PageInfo) :=
  match s.plbFind a va with
  | some e => .ok (e.base, e.info)
  | none =>
    match s.walk a.who va with
    | .error c => .error c
    | .ok e => .ok ((s.leafSpan va e).1, s.pageInfo a.who va e)

/-- A PLB filled with the leaf of an address: the newest first, 64 entries (R142). -/
def State.plbFill (s : State) (a : Acc) (va : Nat) : State :=
  match s.walk a.who va with
  | .error _ => s
  | .ok e =>
    let sp := s.leafSpan va e
    let entry : PlbEntry := { part := a.who, base := sp.1, size := sp.2, info := s.pageInfo a.who va e }
    s.modCore a.core (fun c =>
      { c with plb := (entry :: c.plb.filter (fun x => !(x.part == a.who && x.base == sp.1))).take 64 })

/-- A PLB entry used: it becomes the most recent (R142); an address of a window uses none (R131). -/
def State.plbTouch (s : State) (a : Acc) (va : Nat) : State :=
  match (if va < 2 ^ 48 then none else s.plbFind a va) with
  | none => s
  | some e => s.modCore a.core (fun c => { c with plb := e :: c.plb.filter (fun x => x != e) })

/-- An address used through the PLB by an instruction that never waits: its entry filled where it is missing, and the most
recent (R142, R157). -/
def State.plbUse (s : State) (a : Acc) (va : Nat) : State :=
  if (s.plbFind a va).isSome then s.plbTouch a va else s.plbFill a va

/-! ### Rights (R141) -/

/-- Whether a mode has the read, write and image right on a page. Management mode has every right of the domain; the entry's
own RD, WR or EX bit is still needed (DESIGN CHOICE, log 48: "granted every right" is read of the partition's rights). -/
def PageInfo.may (i : PageInfo) (m : Mode) : Bool × Bool × Bool :=
  match m with
  | .user => (i.rdU, i.wrU, i.exU)
  | .supervisor => (i.rdS, i.wrS, i.exS)
  | .management => (i.rd, i.wr, i.ex)

/-- Whether an access has the rights it needs (R141). In the panel control space a user may only load from its group area,
and only management mode reaches the power block (R399). -/
def accessAllowed (a : Acc) (k : AccKind) (i : PageInfo) (va : Nat) : Bool :=
  let r := i.may a.mode
  let rights := match k with
    | .load | .read | .feRead => r.1
    | .write | .feWrite => r.2.1
    | .both | .feTake => r.1 && r.2.1
    | .image => r.2.2
  let window := match i.place with
    | .control =>
      (a.mode != .user || (k == .load && inGroupArea a.part va)) &&
      (a.mode == .management || !(decide (pwrBase ≤ va) && decide (va < pwrBase + 0x7000)))
    | _ => true
  rights && window

/-- Whether an access writes. -/
def AccKind.writes : AccKind → Bool
  | .write | .both | .feTake | .feWrite => true
  | _ => false

/-- Whether an access is one of the full/empty instructions. -/
def AccKind.fullEmpty : AccKind → Bool
  | .feRead | .feTake | .feWrite => true
  | _ => false

/-! ### Where an access goes -/

/-- Where an access is performed: the own local store, another local store or the own by a window or page, a cached line,
an HBM frame that is never cached, or a control block. -/
inductive Target where
  | self (phys : Nat)
  | store (core : Nat) (phys : Nat)
  | cached (va : Nat) (info : PageInfo)
  | uncached (stack : Nat) (va : Nat) (info : PageInfo)
  | control (va : Nat)
  deriving DecidableEq, Repr

/-- The share of a requester on a core, the access within it (R132). -/
def State.inShare (s : State) (n : Nat) (who : Option (BitVec 6)) (off size : Nat) : Bool :=
  decide (off + size ≤ s.shareSize n who)

/-- A physical address in a requester's share on a core (R133). -/
def State.sharePhys (s : State) (n : Nat) (who : Option (BitVec 6)) (off : Nat) : Nat :=
  localAddr n (s.shareBanks n who) off

/-- The bank of a requester's share that `size` bytes at an offset use and whose incoming data is not yet there (R358). -/
def State.bankAway (s : State) (n : Nat) (who : Option (BitVec 6)) (off size : Nat) : Option Nat :=
  match (s.core n).handovers.find? (fun h => some h.cmd.part == who && h.cmd.inArea != 0) with
  | none => none
  | some h => ((linesOf off size).map (fun o => o / 64 % max 1 (s.shareBanks n who).length)).find? h.banks.contains

/-- An access inside the share of the executing core, once its bank is there (R358). -/
def State.bankReady (s : State) (n : Nat) (who : Option (BitVec 6)) (off size : Nat) : Except Stop Unit :=
  match s.bankAway n who off size with
  | some k => .error (.wait (.bank k))
  | none => .ok ()

/-- The paged part of the checks of R146, once the page is known. -/
def State.resolvePage (s : State) (a : Acc) (k : AccKind) (va : Dword) (size : Nat) (base : Nat) (i : PageInfo) :
    Except Stop Target :=
  let v := va.toNat
  if !accessAllowed a k i v then .error (.fault 0x10 va)
  else if k.writes && i.snap then .error (.fault 0x12 va)
  else
    match i.place with
    | .control => if k.fullEmpty then .error (.fault 0x17 va) else .ok (.control v)
    | .hbm _ => if k.fullEmpty then .error (.fault 0x17 va) else .ok (.cached v i)
    | .pinned _ => if k.fullEmpty then .error (.fault 0x17 va) else .ok (.cached v i)
    | .uncached st => if k.fullEmpty then .error (.fault 0x17 va) else .ok (.uncached st v i)
    | .store c o =>
      let off := o + (v - base)
      if a.who.isNone then .error (.fault 0x30 va)
      else
        match s.name a c va with
        | .error e => .error e
        | .ok _ =>
          if !s.inShare c a.who off size then .error (.fault 0x14 va)
          else if k.fullEmpty && !i.fe then .error (.fault 0x17 va)
          else .ok (.store c (s.sharePhys c a.who off))

/-- The place of a target's bytes, where it is known without a translation. -/
def Target.place : Target → Option Nat
  | .self p => some p
  | .store _ p => some p
  | .control v => some v
  | _ => none

/-- Whether an access is one to the own local store at once. -/
def Target.isSelf : Target → Bool
  | .self _ => true
  | _ => false

/-- A read, and an access to the own store at once, comes after the slot's own posted writes of the same bytes: a slot reads
its own latest store, and nothing older than a write of its own (R148, R166). AMO and RED see to their order themselves. -/
def State.inOrder (s : State) (a : Acc) (k : AccKind) (size : Nat) (va : Dword) (t : Target) : Except Stop Target :=
  match a.slot with
  | none => .ok t
  | some i =>
    if k != .both && (t.isSelf || !k.writes || k == .feTake) && s.ownPosted a.core i t.isSelf t.place va.toNat size then
      .error (.wait (.ordered t.isSelf t.place va.toNat size))
    else .ok t

/-- Whether an access to a page would be a host-bound request of a partition that no virtual function serves: its frame is a host
frame (R432, R448, R449). -/
def State.hostUnlinked (s : State) (who : Option (BitVec 6)) (va : Nat) (i : PageInfo) : Bool :=
  match who, i.place with
  | some p, .hbm _ | some p, .uncached _ =>
    !s.linked p && (match s.walk who va with
      | .ok e =>
        let frame := e % 2 ^ 24 + va / 4096 % sizePages (e / 2 ^ 38 % 4)
        (s.groupEntry (groupOf (e / 2 ^ 24 % 32) frame)).getLsbD 63
      | .error _ => false)
  | _, _ => false

/-- A host-bound request that the root chiplet discards: it is logged, and a containment event is raised against the source core
(R374, R448). -/
def State.contain (s : State) (n i : Nat) (va : Dword) : State :=
  if s.due.any (fun d => d.ev.kind == .containmentEvent && d.ev.arg == .core n) then s
  else (s.log 0 n i va).send none .containmentEvent (.core n)

/-- The checks of R146 after alignment for one element of `size` bytes: window, name, share, page, rights, snapshot and
full/empty tracking. A PLB miss waits for the walk (R142). -/
def State.locate (s : State) (a : Acc) (k : AccKind) (size : Nat) (va : Dword) : Except Stop Target :=
  let v := va.toNat
  if v < 0x200000 then
    if !s.inShare a.core a.who v size then .error (.fault 0x14 va)
    else
      match s.bankReady a.core a.who v size with
      | .error e => .error e
      | .ok _ => .ok (.self (s.sharePhys a.core a.who v))
  else if 0x10000000000 ≤ v ∧ v < 0x12000000000 then
    let n := (v - 0x10000000000) / 2 ^ 21
    let off := v % 2 ^ 21
    match s.name a n va with
    | .error e => .error e
    | .ok _ =>
      if s.inShare n a.who off size then .ok (.store n (s.sharePhys n a.who off)) else .error (.fault 0x14 va)
  else if 2 ^ 48 ≤ v ∧ v < 2 ^ 56 then
    match s.plbFind a v with
    | some e =>
      match s.resolvePage a k va size e.base e.info with
      | .error x => .error x
      | .ok t => if s.hostUnlinked a.who v e.info then .error (.wait (.discarded va)) else .ok t
    | none => .error (.wait (.walk va))
  else .error (.fault 0x13 va)

/-- The checks of an element after alignment, and its order after the slot's own posted writes (R146, R148). -/
def State.resolve (s : State) (a : Acc) (k : AccKind) (size : Nat) (va : Dword) : Except Stop Target :=
  match s.locate a k size va with
  | .error e => .error e
  | .ok t => s.inOrder a k size va t

/-- An element's alignment, then its other checks (R146). -/
def State.check (s : State) (a : Acc) (k : AccKind) (size : Nat) (va : Dword) : Except Stop Target :=
  if va.toNat % size ≠ 0 then .error (.fault 0x03 va) else s.resolve a k size va

/-- The checks of several elements in ascending order: the first that stops decides (R146). -/
def State.checkAll (s : State) (a : Acc) (k : AccKind) (size : Nat) :
    List (Nat × Dword) → Except Stop (List (Nat × Dword × Target))
  | [] => .ok []
  | (i, va) :: rest =>
    match s.check a k size va with
    | .error e => .error e
    | .ok t =>
      match s.checkAll a k size rest with
      | .error e => .error e
      | .ok ts => .ok ((i, va, t) :: ts)

/-- A stop of the executing instruction: its fault, or its wait. -/
def State.stop (s : State) : Stop → State
  | .fault c addr => s.fault c addr
  | .wait (.discarded va) => (s.contain s.curCore s.curSlot.val va).park (.discarded va)
  | .wait w => s.park w

/-! ### Translation (R143) -/

/-- The memory edge whose translation unit maps a page, and whose slice or controller serves it. -/
def Place.edge : Place → Nat
  | .hbm e => e
  | .uncached e => e
  | .pinned e => e
  | .store _ _ => 0
  | .control => 0

/-- The physical address of an address by a walk of the table, and whether the frame is a host frame; the fault when the
leaf is gone or has changed its HOME (R143). -/
def State.translateWalk (s : State) (who : Option (BitVec 6)) (va : Nat) (place : Place) :
    Except (BitVec 8) XlateEntry :=
  match s.walk who va with
  | .error c => .error c
  | .ok e =>
    let info := s.pageInfo who va e
    if info.place ≠ place then .error 0x16
    else
      let sp := s.leafSpan va e
      let stack := e / 2 ^ 24 % 32
      let frame := e % 2 ^ 24
      match place with
      | .pinned _ => .ok { part := who, base := sp.1, size := sp.2, phys := llcAddr stack frame 0, host := false }
      | _ =>
        let fr := frame + (va - sp.1) / 4096
        let fg := s.groupEntry (groupOf stack fr)
        let b := max sp.1 (va / 2 ^ 21 * 2 ^ 21)
        let sz := min sp.2 (2 ^ 21)
        .ok { part := who, base := b, size := sz,
              phys := s.framePhys stack (frame + (b - sp.1) / 4096) 0, host := fg.getLsbD 63 }

/-- The translation-unit entry of an address, if the unit of its edge holds one. -/
def State.xlateFind (s : State) (who : Option (BitVec 6)) (va e : Nat) : Option XlateEntry :=
  ((lookupNat e s.xlate).getD []).find? (fun x => x.part == who && decide (x.base ≤ va) && decide (va < x.base + x.size))

/-- A translation-unit entry kept, the newest first, 8,192 of them (R143); a full unit drops the entry filled longest ago
(DESIGN CHOICE, log 53: the spec gives no replacement). -/
def State.xlateFill (s : State) (e : Nat) (x : XlateEntry) : State :=
  { s with xlate := insertNat e ((x :: (lookupNat e s.xlate).getD []).take 8192) s.xlate }

/-- The physical address of a line of a page and whether it is host memory: from the edge's unit, or by a walk that fills
it. -/
def State.translate (s : State) (who : Option (BitVec 6)) (va : Nat) (place : Place) :
    State × Except (BitVec 8) (Nat × Bool) :=
  match s.xlateFind who va place.edge with
  | some x => (s, .ok (x.phys + (va - x.base), x.host))
  | none =>
    match s.translateWalk who va place with
    | .error c => (s, .error c)
    | .ok x => (s.xlateFill place.edge x, .ok (x.phys + (va - x.base), x.host))

end Sys2Proof.Machine
end

