-- ==== Sys2Proof/Machine/Trace.lean ====
section
/-!
DEFINITION. Recording and replay of a job (R387, R388): the trace in memory, one part of its area for each rank (log 24), the
records appended to it and the values read back from it.
-/
namespace Sys2Proof.Machine

/-- Kinds of trace records (R387). -/
def traceArrival : Nat := 1
/-- CRR of CYCLE or INSTRET (R387). -/
def traceCycle : Nat := 2
/-- CRR of PTIME (R387). -/
def tracePtime : Nat := 3
/-- Completion of CWAIT, MWAIT or WPOP (R387). -/
def traceWait : Nat := 4
/-- SEED at start (R387). -/
def traceSeed : Nat := 5

/-- A trace record (R387): VALUE, KIND, SLOT, CLASS, SOURCE and SEQ. -/
def traceRecord (kind : Nat) (i : SlotNo) (cls : BitVec 5) (src : Name) (seq : BitVec 16) (val : Dword) : Nat :=
  seq.toNat * 2 ^ 9 + src.toNat * 2 ^ 25 + cls.toNat * 2 ^ 47 + i.val * 2 ^ 52 + kind * 2 ^ 56 + val.toNat * 2 ^ 64

/-- Index of the next trace record of core `n`. -/
def Job.traceIndex (j : Job) (n : Nat) : Nat := (lookupNat n j.traceAt).getD 0

/-- Bytes of the trace area that belong to one rank. -/
def Job.tracePart (j : Job) : Nat := j.traceLen / (16 * max 1 (j.rows * j.cols)) * 16

/-- The address in memory of the next trace record of core `n`: its page is used with the partition's supervisor rights
(R440); none where the part is full or the page does not serve, as one of a snapshot does not serve a recording (R455). -/
def State.traceAddr (s : State) (j : Job) (n : Nat) : Option Nat :=
  let k := j.traceIndex n
  let va := (j.traceBase + BitVec.ofNat 64 (s.rankOf j n * j.tracePart + 16 * k)).toNat
  let a : Acc := { core := n, who := some j.part, mode := .supervisor }
  if j.tracePart < 16 * (k + 1) then none
  else
    match s.page a va with
    | .error _ => none
    | .ok (base, i) =>
      if !(i.rdS && i.wrS) || (j.recording && i.snap) then none
      else
        match i.place with
        | .store c o => some (s.sharePhys c a.who (o + (va - base)))
        | .control => none
        | p =>
          match s.translateWalk a.who va p with
          | .ok t => some (t.phys + (va - t.base))
          | .error _ => none

/-- The trace index of core `n` counted. -/
def State.traceNext (s : State) (j n : Nat) : State :=
  s.modJob j (fun x => { x with traceAt := insertNat n (x.traceIndex n + 1) x.traceAt })

/-- A record appended to a recording job's trace; recording stops when its area is full (R387). -/
def State.traceAppend (s : State) (j : Nat) (job : Job) (n : Nat) (r : Nat) : State :=
  if job.truncated then s
  else
    match s.traceAddr job n with
    | some p => { s with mem := Memory.setBytes s.mem p (bytesOf 16 r) }.traceNext j n
    | none => s.modJob j (fun x => { x with truncated := true })

/-- The record of a replayed job that core `n` must meet next, none at the end of its trace (R388). -/
def State.traceExpected (s : State) (job : Job) (n : Nat) : Option Nat :=
  match s.traceAddr job n with
  | some p => let r := s.peek p 16; if r / 2 ^ 56 % 2 ^ 8 = 0 then none else some r
  | none => none

/-- Kind of a trace record. -/
def recKind (r : Nat) : Nat := r / 2 ^ 56 % 2 ^ 8
/-- Slot of a trace record. -/
def recSlot (r : Nat) : Nat := r / 2 ^ 52 % 2 ^ 4
/-- Value of a trace record. -/
def recVal (r : Nat) : Dword := BitVec.ofNat 64 (r / 2 ^ 64)

/-- A replayed job that meets an event which is not the next of its trace ends (R388). -/
def State.diverge (s : State) (j : Nat) (job : Job) (n : Nat) (i : SlotNo) : State :=
  (s.log 0 n i.val (BitVec.ofNat 64 (job.traceIndex n))).endJob j 7 0

/-- An event of a slot with its value: recorded, or replaced by the value of the next record in replay (R387, R388). -/
def State.traced (s : State) (n : Nat) (i : SlotNo) (kind : Nat) (v : Dword) : State × Dword :=
  match (s.slot n i).job with
  | none => (s, v)
  | some j =>
    match s.job? j with
    | none => (s, v)
    | some job =>
      if job.recording then (s.traceAppend j job n (traceRecord kind i 0 0 0 v), v)
      else if job.replay then
        match s.traceExpected job n with
        | some r =>
          if recKind r = kind ∧ recSlot r = i.val then (s.traceNext j n, recVal r) else (s.diverge j job n i, v)
        | none => (s.diverge j job n i, v)
      else (s, v)

/-- The value a replayed slot's wait is recorded to end with, when that is the next record (R388). -/
def State.replayedWait (s : State) (n : Nat) (i : SlotNo) : Option Dword :=
  match (s.slot n i).job.bind s.job? with
  | none => none
  | some job =>
    if job.replay then
      match s.traceExpected job n with
      | some r => if recKind r = traceWait ∧ recSlot r = i.val then some (recVal r) else none
      | none => none
    else none

/-- Whether a slot's job is replayed (R388). -/
def State.replays (s : State) (n : Nat) (i : SlotNo) : Bool :=
  match (s.slot n i).job.bind s.job? with
  | some job => job.replay
  | none => false

/-- Whether a recorded result of a wait is that of a timeout, which a bit of it shows (R201, R207, R388). -/
def timedOut (r : Option Dword) (bit : Nat) : Bool :=
  match r with
  | some v => v.getLsbD bit
  | none => false

/-- Whether a slot's wait with a deadline ends by timeout now: at the deadline; in replay the recorded result alone decides
(R201, R207, R388). -/
def State.timesOut (s : State) (n : Nat) (i : SlotNo) (bit : Nat) (deadline : Option Nat) : Bool :=
  if s.replays n i then timedOut (s.replayedWait n i) bit
  else
    match deadline with
    | some t => decide (t ≤ (s.core n).t)
    | none => false

/-- The jobs of a partition with a started slot on core `n` that record or replay. -/
def State.tracingJobs (s : State) (n : Nat) (p : BitVec 6) : List (Nat × Job) :=
  s.jobs.filter (fun e => e.2.part == p && (e.2.recording || e.2.replay) &&
    (s.core n).slots.toList.any (fun sl => sl.job == some e.1))

/-- Whether an arrival may be processed now: in replay it must be the next of the trace (R388). -/
def State.arrivalNext (s : State) (n : Nat) (p : BitVec 6) (cls : BitVec 5) (src : Name) (seq : BitVec 16) : Bool :=
  (s.tracingJobs n p).all (fun e =>
    !e.2.replay ||
      (match s.traceExpected e.2 n with
       | some r => recKind r == traceArrival && r / 2 ^ 47 % 2 ^ 5 == cls.toNat && r / 2 ^ 25 % 2 ^ 22 == src.toNat &&
           r / 2 ^ 9 % 2 ^ 16 == seq.toNat
       | none => false))

/-- The processing of an arrival recorded, or counted off the trace (R387, R388). -/
def State.arrivalDone (s : State) (n : Nat) (p : BitVec 6) (sslot : BitVec 4) (cls : BitVec 5) (src : Name)
    (seq : BitVec 16) (head : Dword) : State :=
  (s.tracingJobs n p).foldl (fun t e =>
    if e.2.recording then t.traceAppend e.1 e.2 n (traceRecord traceArrival (Fin.ofNat 16 sslot.toNat) cls src seq head)
    else t.traceNext e.1 n) s

end Sys2Proof.Machine
end

