-- ==== Sys2Proof/Machine/Home.lean ====
section
/-!
DEFINITION. What happens where data lives: a write at a bank with the monitors and the mirror flags it touches (R200,
R367), full words and their waiters (R153 to R156), arrival counters and theirs (R206, R207), the caches and the
write-through buffer (R144, R145, R165 to R168), acquires and releases (R169, R170).
-/
namespace Sys2Proof.Machine

/-! ### Local store -/

/-- The offset in a requester's share of a physical address of a core's local store, where it lies in the share (R133). -/
def State.shareOffset (s : State) (n : Nat) (who : Option (BitVec 6)) (a : Nat) : Option Nat :=
  let banks := s.shareBanks n who
  let r := a - localBase - n * 2 ^ 21
  match banks.findIdx? (fun b => b == r / 2 ^ 17) with
  | some k => some ((r % 2 ^ 17 / 64 * banks.length + k) * 64 + r % 64)
  | none => none

/-- The triggered bits of a slot's monitors (R201). -/
def Slot.triggeredBits (sl : Slot) : Dword :=
  BitVec.ofNat 64 ((List.finRange 4).foldl (fun x m => x + if (sl.mons.get m).triggered then 2 ^ m.val else 0) 0)

/-- MWAIT's end: its result written, the triggered bits cleared (R201). -/
def Slot.mwaitResult (sl : Slot) (d : BitVec 5) (r : Dword) : Slot :=
  { (sl.setG d r) with mons := sl.mons.map (fun m => { m with triggered := false }) }

/-- A slot that waits at MWAIT completes (R201). -/
def State.wakeMwait (s : State) (n : Nat) (i : SlotNo) (extra : Dword) : State :=
  match (s.slot n i).wait? with
  | some (.mwait d _) =>
    let r := s.traced n i traceWait ((s.slot n i).triggeredBits ||| extra)
    r.1.modSlot n i (fun sl => { (sl.mwaitResult d r.2).finish with run := .waiting .rejoin })
  | _ => s

/-- A write to the line at `a` triggers the armed monitors of slot `i` that hold it, and wakes its MWAIT (R200); a write made
while the slot is parked triggers none (R201). -/
def State.triggerSlot (s : State) (n a : Nat) (i : SlotNo) : State :=
  let sl := s.slot n i
  if !sl.parked && sl.mons.toList.any (fun m => m.armed) then
    match s.shareOffset n sl.who a with
    | none => s
    | some o =>
      let hit := fun (m : Monitor) => m.armed && m.line == BitVec.ofNat 15 (o / 64)
      if sl.mons.toList.any hit then
        (s.modSlot n i (fun x =>
          { x with mons := x.mons.map (fun m => if hit m then { m with triggered := true } else m) })).wakeMwait n i 0
      else s
  else s

/-- The D flag of a line set in every mirror of its core whose job's share holds it (R367); flags are kept by offset. -/
def State.markDirty (s : State) (n a : Nat) : State :=
  if (s.core n).mirrors = [] then s
  else
    s.modCore n (fun c => { c with mirrors := c.mirrors.map (fun m =>
      match (s.job? m.job).bind (fun j => s.shareOffset n (some j.part) (a / 64 * 64)) with
      | some o => if m.dirty.contains o then m else { m with dirty := o :: m.dirty }
      | none => m) })

/-- What follows a write to the line at `a` of core `n`: the D flag, then the monitors (R200, R367). -/
def State.noteWrite (s : State) (n a : Nat) : State :=
  (List.finRange 16).foldl (fun t i => t.triggerSlot n a i) (s.markDirty n a)

/-- Bytes stored at their home; in local store monitors and mirror flags follow on the lines where a byte was written. The
flag tells that bytes were discarded at an uncorrectable unit (R159, R200). -/
def State.put (s : State) (a : Nat) (bs : List Byte) : State × Bool :=
  let r := s.store a bs
  let performed := fun (l : Nat) => !r.2 || (List.range bs.length).any (fun k =>
    (a + k) / 64 * 64 == l && !r.1.bad.contains (granuleOf (a + k)))
  if isLocal a then
    (((linesOf a bs.length).filter performed).foldl (fun t l => t.noteWrite (localCore a) l) r.1, r.2)
  else r

/-! ### Full words (R153 to R156) -/

/-- The scope of an acquire at a word's publication scope (R153, R163). -/
def acquireScope (sc : BitVec 2) : BitVec 3 := BitVec.ofNat 3 (sc.toNat + 1)

/-- The distance scope from core `n` to core `m`: .co, .ch or .pa (R153). -/
def State.distance (s : State) (n m : Nat) : BitVec 2 :=
  if n = m then 0 else if s.isGrid n && s.isGrid m && s.chipOf n == s.chipOf m then 1 else 2

/-- A chiplet by its number. -/
def State.chip (s : State) (c : Nat) : Chip := (lookupNat c s.chips).getD Chip.reset

/-- A chiplet changed. -/
def State.modChip (s : State) (c : Nat) (f : Chip → Chip) : State :=
  { s with chips := insertNat c (f (s.chip c)) s.chips }

/-- Flash invalidation of a near cache (R168). -/
def State.flashNear (s : State) (n : Nat) : State :=
  s.modCore n (fun c => { c with near := c.near.filter (fun l => !l.vol) })

/-- A chiplet-cache line after a flash invalidation: a VOL line keeps its dirty bytes only (R168). -/
def ChipLine.flashed (l : ChipLine) : ChipLine := if l.vol then { l with valid := l.dirty } else l

/-- Flash invalidation of a chiplet cache (R168). -/
def State.flashChip (s : State) (c : Nat) : State :=
  s.modChip c (fun x => { x with cache := (x.cache.map ChipLine.flashed).filter (fun l => l.valid != 0) })

/-- ACQUIRE: the cache actions of an acquire at a scope by a slot of core `n` (R169). -/
def State.acquireOn (s : State) (n : Nat) (scope : BitVec 3) : State :=
  if s.isGrid n then
    let s1 := if 2 ≤ scope.toNat then s.flashNear n else s
    if 3 ≤ scope.toNat then s1.flashChip (s.chipOf n) else s1
  else s

/-- An own slot's full/empty read is satisfied (R155). -/
def State.satisfyRead (s : State) (n : Nat) (i : SlotNo) (v : Dword) (sc : BitVec 2) (va : Dword) (bad : Bool) : State :=
  match (s.slot n i).wait? with
  | some (.fill _ d _) =>
    if bad then s.answerFault n i 0x1E va
    else (s.modSlot n i (fun sl => { (sl.setG d v).finish with run := .waiting .rejoin })).acquireOn n (acquireScope sc)
  | _ => s

/-- One waiter at a word, served if the word is full (R156). -/
def State.serveOne (s : State) (n : Nat) (x : FillWait) : State :=
  if s.isFull x.word then
    let sc := s.scopeAt x.word
    let bad := (s.badIn x.word 8).isSome
    let v := BitVec.ofNat 64 (s.peek x.word 8)
    let s1 := (s.countSoft x.word 8).modCore n (fun c => { c with waits := c.waits.erase x })
    let s2 := if x.clear && !bad then s1.setEmpty x.word else s1
    if x.own then s2.satisfyRead n x.slot v sc x.va bad
    else s2.send (some (false, n, x.core)) .remoteReply
      (.reply { core := x.core, slot := x.slot, elem := 0, got := [(0, v)], scope := sc, va := x.va, bad := bad })
  else s

/-- The waiters at a word served in order of arrival until it is empty (R156). -/
def State.serveWord (s : State) (n w : Nat) : State :=
  ((s.core n).waits.filter (fun x => x.word == w)).foldl (fun t x => t.serveOne n x) s

/-- A word set full at a scope, and its waiters served (R153, R156). -/
def State.fillWord (s : State) (w : Nat) (sc : BitVec 2) : State := (s.setFull w sc).serveWord (localCore w) w

/-- Words set full in ascending order. -/
def State.fillWords (s : State) (ws : List Nat) (sc : BitVec 2) : State := ws.foldl (fun t w => t.fillWord w sc) s

/-! ### Arrival counters (R206, R207) -/

/-- Whether a counter has reached a threshold: bits(c − t, 31, 0) is not negative (R207). -/
def reached (c t : Word) : Bool := !(c - t).msb

/-- A slot waiting at CWAIT completes if its counter has reached the threshold (R207). -/
def State.wakeCwait (s : State) (n : Nat) (i : SlotNo) : State :=
  match (s.slot n i).wait? with
  | some (.cwait d c t _) =>
    let v := (s.core n).c.get c.toFin
    if reached v t then
      let r := s.traced n i traceWait (v.setWidth 64)
      r.1.modSlot n i (fun sl => { (sl.setG d r.2).finish with run := .waiting .rejoin })
    else s
  | _ => s

/-- A counter of a core. -/
def State.counter (s : State) (n : Nat) (c : BitVec 5) : Word := (s.core n).c.get c.toFin

/-- A counter given a value; the slots that wait for it complete (R206, R207). -/
def State.setCounter (s : State) (n : Nat) (c : BitVec 5) (v : Word) : State :=
  (List.finRange 16).foldl (fun t i => t.wakeCwait n i) (s.modCore n (fun x => { x with c := x.c.set c.toFin v }))

/-- A counter incremented (R206). -/
def State.bump (s : State) (n : Nat) (c : BitVec 5) (x : Word) : State := s.setCounter n c (s.counter n c + x)

/-! ### Lines -/

/-- A 64-byte mask of bytes as a mask of bits. -/
def expandMask (m : BitVec 64) : VReg :=
  ofLanes 8 ((List.range 64).map (fun i => if m.getLsbD i then 255 else 0))

/-- A line with the bytes of a mask taken from another. -/
def overlay (base : VReg) (m : BitVec 64) (fresh : VReg) : VReg :=
  (base &&& ~~~(expandMask m)) ||| (fresh &&& expandMask m)

/-- The mask of `n` bytes from byte `o` of a line. -/
def byteMask (o n : Nat) : BitVec 64 := BitVec.ofNat 64 ((2 ^ n - 1) * 2 ^ o)

/-- The bytes of a line whose granule a store with mask `m` covers whole (R158). -/
def wholeGranules (m : BitVec 64) : BitVec 64 :=
  (if m &&& byteMask 0 32 = byteMask 0 32 then byteMask 0 32 else 0) |||
    (if m &&& byteMask 32 32 = byteMask 32 32 then byteMask 32 32 else 0)

/-- The uncorrectable bytes of a line, or those with a single-bit error, after a store: a granule covered whole gets fresh check
bits (R158, R159). -/
def repaired (bad m : BitVec 64) : BitVec 64 := bad &&& ~~~(wholeGranules m)

/-- The granules with a single-bit error that a read of `n` bytes from byte `o` of a line touches; `m` names the bytes of such
granules (R158). -/
def softCount (m : BitVec 64) (o n : Nat) : Nat :=
  (([0, 32] : List Nat).filter (fun g => decide (g < o + n) && decide (o < g + 32) && decide (0 < n) &&
    m &&& byteMask g 32 != 0)).length

/-- The first of `n` bytes from byte `o` of a line that a mask names. -/
def firstIn (m : BitVec 64) (o n : Nat) : Option Nat := (List.range n).find? (fun k => m.getLsbD (o + k))

/-- Bytes placed at byte `o` of a line. -/
def lineOfBytes (o : Nat) (bs : List Byte) : VReg := BitVec.ofNat 512 (ofBytes bs * 2 ^ (8 * o))

/-- The number in `n` bytes from byte `o` of a line (R3). -/
def lineField (l : VReg) (o n : Nat) : Nat := l.toNat / 2 ^ (8 * o) % 2 ^ (8 * n)

/-- The line that holds an address. -/
def lineBase (va : Nat) : Nat := va / 64 * 64

/-- The masked bytes of a line stored at its home: a check-code unit covered whole gets fresh check bits, bytes for part of
an uncorrectable unit are discarded (R158, R159). -/
def State.storeMasked (s : State) (pa : Nat) (m : BitVec 64) (data : VReg) : State × Bool :=
  let z := granuleSize pa
  (List.range (64 / z)).foldl (fun r g =>
    let mg := m.toNat / 2 ^ (z * g) % 2 ^ z
    if mg = 2 ^ z - 1 then
      let q := r.1.put (pa + z * g) (bytesOf z (lineField data (z * g) z))
      (q.1, r.2 || q.2)
    else
      (List.range z).foldl (fun r i =>
        if mg.testBit i then
          let q := r.1.put (pa + z * g + i) (bytesOf 1 (lineField data (z * g + i) 1))
          (q.1, r.2 || q.2)
        else r) r) (s, false)

/-! ### The chiplet cache -/

/-- The granules of the line at `pa` that a mask names hold a single-bit error: they came with their check bits (R158). -/
def State.moveSoft (s : State) (pa : Nat) (m : BitVec 64) : State :=
  if m = 0 then s
  else { s with soft := ([pa, pa + 32].filter (fun g => m &&& byteMask (g - pa) 32 != 0 && !s.soft.contains g)) ++ s.soft }

/-- The dirty bytes of a chiplet-cache line written to the LLC with their check bits; a line whose page is gone is discarded
and logged (R143), as are bytes for an uncorrectable granule. -/
def State.writeBack (s : State) (x : ChipLine) : State :=
  if x.dirty = 0 then s
  else
    match s.translate x.part x.va x.place with
    | (s1, .error c) => s1.log c (x.owner.getD 0) 0 (BitVec.ofNat 64 x.va)
    | (s1, .ok p) =>
      let q := s1.storeMasked p.1 x.dirty x.data
      let r := (q.1.moveSoft p.1 (x.soft &&& x.dirty), q.2)
      if r.2 then r.1.log 0x1E (x.owner.getD 0) 0 (BitVec.ofNat 64 x.va) else r.1

/-- The set of a line in a chiplet cache of 8 MiB and 16 ways: 8,192 sets, indexed by VA[18:6] (R144; log 8). -/
def chipSet (va : Nat) : Nat := va / 64 % 8192

/-- A line removed from a chiplet cache by its place in the list, and written back. -/
def State.evictChip (s : State) (c : Nat) (v : ChipLine) : State :=
  (s.modChip c (fun h => { h with cache := h.cache.erase v })).writeBack v

/-- A line enters a chiplet cache; where its set holds 16 lines, one of these leaves, and which one is not fixed; where it
holds fewer, a line may leave (R11, R144; log 8). -/
def State.insertChip (s : State) (c : Nat) (x : ChipLine) : State :=
  let set := (s.chip c).cache.filter (fun l => chipSet l.va == chipSet x.va)
  let pick := Config.victim s.tick
  let v := if 16 ≤ set.length then set[pick % set.length]? else set[pick % (set.length + 1)]?
  match v with
  | some y => (s.evictChip c y).modChip c (fun h => { h with cache := x :: h.cache })
  | none => s.modChip c (fun h => { h with cache := x :: h.cache })

/-- The chiplet-cache line of an address. -/
def State.chipLine (s : State) (c va : Nat) : Option ChipLine := (s.chip c).cache.find? (fun l => l.va == va)

/-- A chiplet-cache line replaced. -/
def State.setChipLine (s : State) (c : Nat) (x : ChipLine) : State :=
  s.modChip c (fun h => { h with cache := h.cache.map (fun l => if l.va == x.va then x else l) })

/-- A chiplet-cache line removed, written back first if it is dirty (R157, R185). -/
def State.dropChipLine (s : State) (c va : Nat) : State :=
  match s.chipLine c va with
  | some x => (s.modChip c (fun h => { h with cache := h.cache.filter (fun l => l.va != va) })).writeBack x
  | none => s

/-- Every line that core `n` owns written back; the lines stay, clean (R170). -/
def State.flushOwned (s : State) (n : Nat) : State :=
  if s.isGrid n then
    let c := s.chipOf n
    let mine := (s.chip c).cache.filter (fun l => l.owner == some n && l.dirty != 0)
    (mine.foldl (fun t l => t.writeBack l) s).modChip c (fun h =>
      { h with cache := h.cache.map (fun l => if l.owner == some n then { l with dirty := 0, owner := none } else l) })
  else s

/-! ### The write-through buffer -/

/-- An entry of the write-through buffer reaches the chiplet cache: a store allocates without fill, and a line that another
core dirtied is written back first (R144, R145). -/
def State.drainEntry (s : State) (n : Nat) (e : BufLine) : State :=
  let c := s.chipOf n
  match s.chipLine c e.va with
  | some x =>
    let foreign := x.owner != some n && x.dirty != 0
    let s1 := if foreign then s.writeBack x else s
    s1.setChipLine c { x with
      data := overlay x.data e.mask e.data, valid := x.valid ||| e.mask, bad := repaired x.bad e.mask,
      soft := repaired x.soft e.mask,
      dirty := (if foreign then 0 else x.dirty) ||| e.mask, owner := some n }
  | none =>
    s.insertChip c { va := e.va, part := some e.part, place := e.place, vol := e.vol, valid := e.mask, dirty := e.mask,
                     owner := some n, data := e.data }

/-- The oldest entry of a core's write-through buffer drains (R147). -/
def State.drainOldest (s : State) (n : Nat) : State :=
  match (s.core n).buffer with
  | [] => s
  | e :: rest => (s.modCore n (fun c => { c with buffer := rest })).drainEntry n e

/-- The buffer drained in order until it holds no entry that a test names. -/
def State.drainUntil (s : State) (n : Nat) (p : BufLine → Bool) : State :=
  let b := (s.core n).buffer
  let keep := (b.reverse.takeWhile (fun e => !p e)).length
  (List.range (b.length - keep)).foldl (fun t _ => t.drainOldest n) s

/-- Every buffered store to a line drained before an operation acts on the line (R165). -/
def State.drainLine (s : State) (n va : Nat) : State := s.drainUntil n (fun e => e.va == va)

/-- A near-cache line removed. -/
def State.dropNear (s : State) (n va : Nat) : State :=
  s.modCore n (fun c => { c with near := c.near.filter (fun l => l.va != va) })

/-- CINV's effect on a line: buffered stores drained, the chiplet cache's line written back and removed, the near cache's
line removed (R157, R165). An atomic on a cached page does the same first (R185). -/
def State.purgeLine (s : State) (n va : Nat) : State :=
  if s.isGrid n then ((s.drainLine n va).dropChipLine (s.chipOf n) va).dropNear n va else s

/-- Copies of a line in caches below a scope's point of coherence leave, clean bytes only in the chiplet cache (R173). -/
def State.dropBelow (s : State) (n va : Nat) (scope : BitVec 3) : State :=
  if s.isGrid n && decide (2 ≤ scope.toNat) then
    let s1 := s.dropNear n (lineBase va)
    if 3 ≤ scope.toNat then
      s1.modChip (s.chipOf n) (fun h => { h with cache := (h.cache.map (fun l =>
        if l.va == lineBase va then { l with valid := l.dirty } else l)).filter (fun l => l.valid != 0) })
    else s1
  else s

/-! ### Near cache -/

/-- A line enters a near cache: 64 sets of 8 ways, least recently used; the list is newest first (R144). -/
def nearInsert (l : List NearLine) (x : NearLine) : List NearLine :=
  let rest := l.filter (fun y => y.va != x.va)
  let old := (rest.filter (fun y => y.va / 64 % 64 == x.va / 64 % 64)).drop 7
  x :: rest.filter (fun y => !old.any (fun z => z.va == y.va))

/-- The bytes of a line that the write-through buffer holds, the youngest of each (R165). -/
def bufferedLine (b : List BufLine) (va : Nat) : BitVec 64 × VReg :=
  (b.filter (fun e => e.va == va)).foldl (fun r e => (r.1 ||| e.mask, overlay r.2 e.mask e.data)) (0, 0)

/-! ### Cached reads and stores -/

/-- The bytes of the line at place `pa` that lie in uncorrectable granules there. -/
def State.badLine (s : State) (pa : Nat) : BitVec 64 :=
  (if s.bad.contains pa then byteMask 0 32 else 0) ||| (if s.bad.contains (pa + 32) then byteMask 32 32 else 0)

/-- The bytes of the line at place `pa` that lie in granules with a single-bit error there. -/
def State.softLine (s : State) (pa : Nat) : BitVec 64 :=
  (if s.soft.contains pa then byteMask 0 32 else 0) ||| (if s.soft.contains (pa + 32) then byteMask 32 32 else 0)

/-- A line taken into a near cache, and an access of `n` bytes from byte `o` of it, whose single-bit errors are corrected and
counted (R144, R158, R159). -/
def State.enterNear (s : State) (a : Acc) (l : NearLine) (o n : Nat) : State × Except Stop VReg :=
  ({ s.modCore a.core (fun k => { k with near := nearInsert k.near l }) with
      corrected := s.corrected + softCount l.soft o n },
    match firstIn l.bad o n with
    | some k => .error (.fault 0x1E (BitVec.ofNat 64 (l.va + o + k)))
    | none => .ok l.data)

/-- A line brought in for a core: what the buffer and the chiplet cache hold of it, the rest from the LLC, its check bits with
it. Answers the line, or the wait for the translation, or the bad byte among `n` from byte `o` (R144, R158, R159, R165). -/
def State.fetchLine (s : State) (a : Acc) (va : Nat) (info : PageInfo) (o n : Nat) : State × Except Stop VReg :=
  let c := s.chipOf a.core
  let x := s.chipLine c va
  let valid := (x.map ChipLine.valid).getD 0
  let held := (x.map ChipLine.data).getD 0
  let xbad := (x.map ChipLine.bad).getD 0
  let xsoft := (x.map ChipLine.soft).getD 0
  let b := bufferedLine (s.core a.core).buffer va
  if ~~~(valid ||| b.1) = 0 then
    s.enterNear a { va := va, vol := info.vol, data := overlay held b.1 b.2, bad := xbad &&& ~~~b.1, soft := xsoft &&& ~~~b.1 } o n
  else
    match s.xlateFind a.who va info.place.edge with
    | none => (s, .error (.wait (.translation (BitVec.ofNat 64 va))))
    | some t =>
      let pa := t.phys + (va - t.base)
      let chip := overlay (BitVec.ofNat 512 (s.peek pa 64)) valid held
      let cbad := xbad ||| (s.badLine pa &&& ~~~valid)
      let csoft := xsoft ||| (s.softLine pa &&& ~~~valid)
      let s1 := match x with
        | some y => s.setChipLine c { y with data := chip, valid := BitVec.allOnes 64, bad := cbad, soft := csoft }
        | none => s.insertChip c { va := va, part := a.who, place := info.place, vol := info.vol, valid := BitVec.allOnes 64,
                                   dirty := 0, owner := none, data := chip, bad := cbad, soft := csoft }
      s1.enterNear a { va := va, vol := info.vol, data := overlay chip b.1 b.2, bad := cbad &&& ~~~b.1,
                       soft := csoft &&& ~~~b.1 } o n

/-- A read of `n` bytes of a cached page: from the near cache, or the line is brought in (R144, R165). A core without caches
reads at the LLC (R160, R163). -/
def State.readCached (s : State) (a : Acc) (va n : Nat) (info : PageInfo) : State × Except Stop Nat :=
  if s.isGrid a.core then
    match (s.core a.core).near.find? (fun l => l.va == lineBase va) with
    | some l =>
      match s.enterNear a l (va % 64) n with
      | (s1, .ok d) => (s1, .ok (lineField d (va % 64) n))
      | (s1, .error e) => (s1, .error e)
    | none =>
      match s.fetchLine a (lineBase va) info (va % 64) n with
      | (s1, .ok l) => (s1, .ok (lineField l (va % 64) n))
      | (s1, .error e) => (s1, .error e)
  else
    match s.xlateFind a.who va info.place.edge with
    | none => (s, .error (.wait (.translation (BitVec.ofNat 64 va))))
    | some t =>
      let pa := t.phys + (va - t.base)
      match s.badIn pa n with
      | some b => (s, .error (.fault 0x1E (BitVec.ofNat 64 (va + (b - pa)))))
      | none => (s.countSoft pa n, .ok (s.peek pa n))

/-- The bytes of a paged line in uncorrectable granules: of the copy in the core's near cache, or of the chiplet cache's with
the LLC's for the rest (R158). -/
def State.badBytes (s : State) (a : Acc) (va : Nat) (place : Place) : BitVec 64 :=
  let below := if s.bad = [] then 0 else
    match s.translateWalk a.who va place with
    | .ok t => s.badLine (t.phys + (va - t.base))
    | .error _ => 0
  if s.isGrid a.core then
    match (s.core a.core).near.find? (fun l => l.va == va) with
    | some l => l.bad
    | none =>
      match s.chipLine (s.chipOf a.core) va with
      | some x => x.bad ||| (below &&& ~~~x.valid)
      | none => below
  else below

/-- The bytes of a masked store to the paged line at `va` that cover an uncorrectable granule only in part (R159). -/
def State.tornBytes (s : State) (a : Acc) (va : Nat) (place : Place) (m : BitVec 64) : BitVec 64 :=
  s.badBytes a va place &&& m &&& ~~~(wholeGranules m)

/-- A present near-cache line takes stored bytes (R144). -/
def State.updateNear (s : State) (n va : Nat) (m : BitVec 64) (data : VReg) : State :=
  s.modCore n (fun c => { c with near := c.near.map (fun l =>
    if l.va == va then { l with data := overlay l.data m data, bad := repaired l.bad m, soft := repaired l.soft m } else l) })

/-- Whether a store of `n` bytes of one line would cover part of an uncorrectable granule (R159, R310). -/
def State.tornAt (s : State) (a : Acc) (va n : Nat) (place : Place) : Bool :=
  s.tornBytes a (lineBase va) place (byteMask (va % 64) n) != 0

/-- A masked store to a line of a cached page by slot `i`: the near cache updated, the write-through buffer entered, after
room has been made in it (R147). A core without caches stores at the LLC (R163). `addr` is the store's address. -/
def State.storeLine (s : State) (a : Acc) (i : SlotNo) (va : Nat) (info : PageInfo) (m : BitVec 64) (data : VReg)
    (addr : Dword) : State :=
  if s.isGrid a.core then
    let s1 := s.updateNear a.core va m data
    let e : BufLine := { slot := i, part := a.part, va := va, place := info.place, vol := info.vol, mask := m, data := data }
    match (s1.core a.core).buffer.getLast? with
    | some y =>
      if y.va == va && y.slot == i then
        s1.modCore a.core (fun c => { c with buffer := c.buffer.dropLast ++
          [{ y with mask := y.mask ||| m, data := overlay y.data m data }] })
      else
        let s2 := if 32 ≤ (s1.core a.core).buffer.length then s1.drainOldest a.core else s1
        s2.modCore a.core (fun c => { c with buffer := c.buffer ++ [e] })
    | none => s1.modCore a.core (fun c => { c with buffer := [e] })
  else
    match s.translate a.who va info.place with
    | (s1, .error c) => s1.log c a.core i.val (BitVec.ofNat 64 va)
    | (s1, .ok p) =>
      let r := s1.storeMasked p.1 m data
      if r.2 then r.1.defer a.core i 0x1E addr else r.1

/-- A masked store to a line of a cached page by slot `i`; bytes that cover part of an uncorrectable granule are discarded,
which is reported later (R159). `addr` is the store's address. -/
def State.storeMaskedCached (s : State) (a : Acc) (i : SlotNo) (va : Nat) (info : PageInfo) (m : BitVec 64) (data : VReg)
    (addr : Dword) : State :=
  let torn := if s.isGrid a.core then s.tornBytes a va info.place m else 0
  if torn = 0 then s.storeLine a i va info m data addr
  else
    let s1 := s.defer a.core i 0x1E addr
    if m &&& ~~~torn = 0 then s1 else s1.storeLine a i va info (m &&& ~~~torn) data addr

/-- A store of bytes of one line to a cached page by slot `i` (R147, R159). -/
def State.storeCached (s : State) (a : Acc) (i : SlotNo) (va : Nat) (info : PageInfo) (bs : List Byte) : State :=
  s.storeMaskedCached a i (lineBase va) info (byteMask (va % 64) bs.length) (lineOfBytes (va % 64) bs) (BitVec.ofNat 64 va)

/-- The bytes of a mask of the line at `pa` that no uncorrectable unit holds: those that a store just made there was not
discarded at (R159). -/
def State.kept (s : State) (pa : Nat) (m : BitVec 64) : BitVec 64 :=
  if s.bad = [] then m
  else m &&& BitVec.ofNat 64 (((List.range 64).filter (fun k => !s.bad.contains (granuleOf (pa + k)))).foldl
    (fun x k => x + 2 ^ k) 0)

/-- Bytes written at the LLC for a core, the copies below updated with what was written and no longer dirty there (R173,
R178). Answers the state, and the cause when the page is gone or bytes were discarded. -/
def State.writeLlc (s : State) (a : Acc) (va : Nat) (info : PageInfo) (bs : List Byte) : State × Option (BitVec 8) :=
  let l := lineBase va
  let m := byteMask (va % 64) bs.length
  let d := lineOfBytes (va % 64) bs
  let s0 := if s.isGrid a.core then s.drainLine a.core l else s
  match s0.translate a.who va info.place with
  | (s1, .error c) => (s1, some c)
  | (s1, .ok p) =>
    let r := s1.put p.1 bs
    let m := r.1.kept (p.1 / 64 * 64) m
    let s2 := if s.isGrid a.core then
        let s3 := r.1.updateNear a.core l m d
        match s3.chipLine (s.chipOf a.core) l with
        | some x => s3.setChipLine (s.chipOf a.core)
            { x with data := overlay x.data m d, valid := x.valid ||| m, dirty := x.dirty &&& ~~~m, bad := repaired x.bad m,
                     soft := repaired x.soft m }
        | none => s3
      else r.1
    (s2, if r.2 then some 0x1E else none)

/-- Bytes written into the chiplet cache for a core (R173). -/
def State.writeChip (s : State) (a : Acc) (va : Nat) (info : PageInfo) (bs : List Byte) : State :=
  let l := lineBase va
  let m := byteMask (va % 64) bs.length
  let d := lineOfBytes (va % 64) bs
  let s1 := (s.drainLine a.core l).updateNear a.core l m d
  s1.drainEntry a.core { slot := 0, part := a.part, va := l, place := info.place, vol := info.vol, mask := m, data := d }

/-! ### Releases (R170) -/

/-- Whether slot `i` of core `n` has nothing left to wait for at a release of a scope but the write-back that the release
itself makes (R170). -/
def State.released (s : State) (n : Nat) (i : SlotNo) (scope : BitVec 3) : Bool :=
  (s.slot n i).outstanding == 0 &&
    (decide (scope.toNat < 2) || (s.core n).buffer.all (fun e => e.slot != i))

/-- A release at a scope by the executing slot, then the rest of the instruction: the slot waits, or a deferred fault is
reported instead, or the lines the core owns are written back (R159, R170). -/
def State.release (s : State) (scope : BitVec 3) (k : State → State) : State :=
  if s.released s.curCore s.curSlot scope then
    match s.me.deferred with
    | some d => (s.modMe (fun sl => { sl with deferred := none })).fault d.1 d.2
    | none => k (if 3 ≤ scope.toNat then s.flushOwned s.curCore else s)
  else s.park (.release scope)

/-- An acquire by the executing slot (R169). -/
def State.acquire (s : State) (scope : BitVec 3) : State := s.acquireOn s.curCore scope

end Sys2Proof.Machine
end

