-- ==== Sys2Proof/Machine/Amo.lean ====
section
/-!
DEFINITION. The operations of an atomic (R188, R189) and an atomic at the home of its word (R185, R187).
-/
namespace Sys2Proof.Machine

/-- The smaller or the larger of two words, as signed or unsigned values (R188). -/
def pickWord (w : Nat) (signed big : Bool) (x y : Nat) : Nat :=
  let less : Bool := if intOf signed w x < intOf signed w y then true else false
  if less == big then y else x

/-- What an atomic writes into a word of `n` bytes that holds `old`, for the operand `x`; a CAS writes only where the word
equals `e` (R188, R189). -/
def amoResult (op : AmoOp) (n old x e : Nat) : Option Nat :=
  let w := 8 * n
  match op with
  | .add => some ((old + x) % 2 ^ w)
  | .and => some (old &&& x)
  | .or => some (old ||| x)
  | .xor => some (old ^^^ x)
  | .minS => some (pickWord w true false old x)
  | .minN => some (pickWord w false false old x)
  | .maxS => some (pickWord w true true old x)
  | .maxN => some (pickWord w false true old x)
  | .swap => some x
  | .cas => if old = e then some x else none
  | .faddF32 => some (fmtF32.add 0 0 old x).1
  | .faddBf16x2 =>
    some ((fmtBF16.add 0 0 (old % 2 ^ 16) (x % 2 ^ 16)).1 + 2 ^ 16 * (fmtBF16.add 0 0 (old / 2 ^ 16) (x / 2 ^ 16)).1)
  | .fmaxF32 => some (fmtF32.minMax true old x).1

/-- An atomic at its home: the old word, or the address of an uncorrectable byte, in which case nothing is written (R187). -/
def State.atomicAt (s : State) (addr n : Nat) (op : AmoOp) (x e : Nat) : State × Except Nat Nat :=
  match s.badIn addr n with
  | some b => (s, .error b)
  | none =>
    let old := s.peek addr n
    match amoResult op n old (x % 2 ^ (8 * n)) (e % 2 ^ (8 * n)) with
    | some v => (((s.countSoft addr n).put addr (bytesOf n v)).1, .ok old)
    | none => (s.countSoft addr n, .ok old)

/-- After an atomic on a paged word at the LLC, an HBM controller or the host, core `n` keeps no older copy of the line: one that a slot
brought in while the atomic was under way leaves the near cache, and its clean bytes the chiplet cache (R166, R185, R194). -/
def State.forget (s : State) (n va : Nat) (node : Node) : State :=
  match node with
  | .hbm _ | .host _ => if s.isGrid n then s.dropBelow n va 3 else s
  | _ => s

end Sys2Proof.Machine
end

