-- ==== Sys2Proof/Machine/Regs.lean ====
section
/-!
DEFINITION. What a read of the panel control space returns: the power block (R391, R396 to R399), the capacity record (R417,
R418), the group areas (R208), the domain-rights tables (R141) and the registers kept by address.
-/
namespace Sys2Proof.Machine

/-! ### The power block -/

/-- PMAX in W (R399). -/
def pmax : Nat := 36000

/-- EFFCAP (R398). -/
def Power.effcap (p : Power) : Nat :=
  let a := min pmax p.pcap
  let b := if p.curveen then min a p.curvecap else a
  if p.lost then min b p.fallback else b

/-- Sense point `k` = 16z + s (R391). -/
def State.sense (s : State) (k : Nat) : Sense := (lookupNat k s.senses).getD Sense.reset

/-- RISE: REFF is at least 1.3 × RBASE, where RBASE enables the test (R391). -/
def Sense.rise (x : Sense) : Bool := x.rbase != 0 && decide (13 * x.rbase.toNat ≤ 10 * x.reff.toNat)

/-- Dword `i` of a sense point's record (R391). -/
def Sense.dword (x : Sense) (i : Nat) : Dword :=
  match i with
  | 0 => BitVec.ofNat 64 (2 * natOfBool x.rise + 4 * natOfBool x.degr)
  | 1 => BitVec.ofNat 64 (x.stepx.toNat * 2 ^ 16 + x.rbase.toNat * 2 ^ 32)
  | 2 => BitVec.ofNat 64 (x.reff.toNat + x.curv.toNat * 2 ^ 32 + x.minv.toNat * 2 ^ 48)
  | _ => x.mintime

/-- A register of the power block by its offset; zero where the block defines none (R138, R399). -/
def State.powerDword (s : State) (o : Nat) : Dword :=
  let p := s.power
  let n := fun (x : Nat) => BitVec.ofNat 64 x
  match o with
  | 0x00 => n pmax
  | 0x08 => n p.pcap
  | 0x10 => n p.fallback
  | 0x18 => n p.curvecap
  | 0x20 => n p.effcap
  | 0x28 => n p.pfixed
  | 0x30 => n (natOfBool p.curveen)
  | 0x38 => p.nomfreq.setWidth 64
  | 0x40 => p.vlo.setWidth 64
  | 0x48 => p.vhi.setWidth 64
  | 0x50 => p.vfrac.setWidth 64
  | 0x58 => n p.shedlvl
  | 0x60 => p.sheddl.setWidth 64
  | 0x68 => p.zcap.setWidth 64
  | 0x70 => p.tcrit.setWidth 64
  | 0x78 => p.tshut.setWidth 64
  | 0x80 => p.trestart.setWidth 64
  | 0x88 => p.fnote.setWidth 64
  | 0x90 => p.lastframe.setWidth 64
  | 0x98 => n (p.lastframe.toNat / 2 ^ 64)
  | 0xA0 => n (p.lastseq.toNat + 2 ^ 16 * natOfBool p.lost + 2 ^ 17 * natOfBool p.curveerr + 2 ^ 32 * p.gaps.toNat)
  | 0xA8 => p.dnote.setWidth 64
  | _ =>
    if 0x100 ≤ o ∧ o < 0x180 then p.curve.toList.getD ((o - 0x100) / 8) 0
    else if 0x200 ≤ o ∧ o < 0x200 + 32 * 800 then
      (s.sense ((o - 0x200) / 32)).dword ((o - 0x200) / 8 % 4)
    else 0

/-! ### The capacity record -/

/-- Logical cores of the grid (R417). -/
def State.gridCores (s : State) : Nat := 240 * s.gridCols

/-- A dword of the capacity record's header (R417). -/
def State.capHeader (s : State) (i : Nat) : Dword :=
  match i with
  | 0 =>
    let short := s.layout.caps.any (fun e => !e.2.avail)
    BitVec.ofNat 64 (1 + 2 ^ 16 * natOfBool short + 2 ^ 32 * s.layout.grade.toNat + 2 ^ 40 * s.layout.cols +
      2 ^ 48 * s.gridCores)
  | 1 => BitVec.ofNat 64 s.layout.seq
  | _ => 0

/-- A core's entry of the capacity record (R418). -/
def State.capEntry (s : State) (n : Nat) : Dword :=
  let e := s.capOf n
  if s.isGrid n && e.avail then
    BitVec.ofNat 64 (e.slots + 2 ^ 5 * e.banks + 2 ^ 10 * natOfBool e.benchOk + 2 ^ 11 * natOfBool e.xrow + 2 ^ 12 +
      2 ^ 32 * e.mirror + 2 ^ 40 * s.zoneOfCore n)
  else 0

/-- A dword of the capacity record by its offset (R417). -/
def State.capDword (s : State) (o : Nat) : Dword :=
  if o < 0x40 then s.capHeader (o / 8) else if 0x10000 ≤ o then s.capEntry ((o - 0x10000) / 8) else 0

/-! ### Group areas (R208; the places of lists and tables: log 23) -/

/-- Address of a group's member list. -/
def membersAt (p : BitVec 6) (i : Nat) : Nat := groupBase + p.toNat * 2 ^ 28 + 2 ^ 25 + i * 2 ^ 17

/-- Address of the parent-link table of tree `t` of a group. -/
def linksAt (p : BitVec 6) (i t : Nat) : Nat := groupBase + p.toNat * 2 ^ 28 + 2 ^ 27 + (t * 256 + i) * 2 ^ 17

/-- The entry of a partition's group table in use (R208). -/
def State.group (s : State) (p : BitVec 6) (i : Nat) : Option Group :=
  s.groups.find? (fun g => g.part == p && g.index.toNat == i)

/-- A tree descriptor (R208). -/
def treeDword (p : BitVec 6) (i k : Nat) (t : Tree) : Dword :=
  BitVec.ofNat 64 (t.root * 2 ^ 48 + t.weight * 2 ^ 44 + t.depth * 2 ^ 40 + linksAt p i k % 2 ^ 40 / 2 ^ 6 * 2 ^ 6)

/-- Dword `i` of a group-table entry (R208). -/
def Group.dword (g : Group) (i : Nat) : Dword :=
  let x := g.index.toNat
  match i with
  | 0 => BitVec.ofNat 64 (1 + g.seq % 2 ^ 48 * 2 ^ 16)
  | 1 => BitVec.ofNat 64 (g.seq / 2 ^ 48 % 2 ^ 16)
  | 2 => BitVec.ofNat 64 ((g.members.length - 1) * 2 ^ 48)
  | 3 => BitVec.ofNat 64 (membersAt g.part x)
  | k + 4 => match g.trees[k]? with
    | some t => treeDword g.part x k t
    | none => 0

/-- Four 16-bit values of a list, from entry `k`, as a dword. -/
def fourOf (l : List Nat) (k : Nat) : Dword :=
  BitVec.ofNat 64 ((List.range 4).foldl (fun a j => a + l.getD (k + j) 0 % 2 ^ 16 * 2 ^ (16 * j)) 0)

/-- A dword of a partition's group area by its offset (R208). A parent-link table holds one 16-bit core number for each member, in
member order: its parent, at the root its own number (DESIGN CHOICE, log 23: the spec gives only the table's address). -/
def State.groupDword (s : State) (p : BitVec 6) (o : Nat) : Dword :=
  if o < 0x4000 then
    match s.group p (o / 64) with
    | some g => g.dword (o / 8 % 8)
    | none => 0
  else if 2 ^ 25 ≤ o ∧ o < 2 ^ 26 then
    match s.group p ((o - 2 ^ 25) / 2 ^ 17) with
    | some g => fourOf g.members (o % 2 ^ 17 / 2)
    | none => 0
  else if 2 ^ 27 ≤ o then
    let x := (o - 2 ^ 27) / 2 ^ 17
    match s.group p (x % 256) with
    | some g =>
      match g.trees[x / 256]? with
      | some t => fourOf (g.members.map (fun m => (lookupNat m t.parent).getD m)) (o % 2 ^ 17 / 2)
      | none => 0
    | none => 0
  else 0

/-! ### Reads -/

/-- An entry of a partition's name table by its offset: zero for a number that is not in the table; the fields of an entry are
not given (R135, R502; log 14). -/
def State.nameDword (s : State) (o : Nat) : Dword :=
  if s.nameKnown (some (BitVec.ofNat 6 (o / 2 ^ 19))) (o % 2 ^ 19 / 8) then Config.freeDword s.tick else 0

/-- Rights of a domain as a dword of the domain-rights table (R141; log 23). -/
def State.domainDword (s : State) (o : Nat) : Dword :=
  match s.domainRights (BitVec.ofNat 6 (o / 2 ^ 15)) (o % 2 ^ 15 / 8) with
  | some r => r.setWidth 64 ||| 0x100
  | none => 0

/-- The dword of the panel control space at an aligned address. The watchdog words and LAYOUTBELL are defined for stores
alone: what they read is free (log 14). -/
def State.controlDword (s : State) (va : Nat) : Dword :=
  if pwrBase ≤ va ∧ va < pwrBase + 0x7000 then s.powerDword (va - pwrBase)
  else if capBase ≤ va ∧ va < capBase + 0x78000 then s.capDword (va - capBase)
  else if wdogBase ≤ va ∧ va < wdogBase + 0x48 then Config.freeDword s.tick
  else if groupBase ≤ va ∧ va < groupBase + 2 ^ 34 then
    s.groupDword (BitVec.ofNat 6 ((va - groupBase) / 2 ^ 28)) ((va - groupBase) % 2 ^ 28)
  else if domainBase ≤ va ∧ va < domainBase + 2 ^ 21 then s.domainDword (va - domainBase)
  else if nameBase ≤ va ∧ va < nameBase + 2 ^ 25 then s.nameDword (va - nameBase)
  else (lookupNat va s.control).getD 0

/-- A read of up to 8 bytes of the panel control space. -/
def State.controlRead (s : State) (va n : Nat) : Dword :=
  BitVec.ofNat 64 ((s.controlDword (va / 8 * 8)).toNat / 2 ^ (8 * (va % 8)) % 2 ^ (8 * n))

/-- The step that a store to the panel control space by a core makes (R391, R428, R479): LAYOUTBELL, a watchdog word, the
clearing bits of a sense point, or a register. -/
def controlWrite (source va : Nat) (bs : List Byte) : Instr × Arg :=
  let v := BitVec.ofNat 64 (ofBytes bs)
  if va / 8 * 8 = wdogBase + 0x40 then (.layoutbell, .source source)
  else if wdogBase ≤ va ∧ va < wdogBase + 0x40 then (.wdog, .index (BitVec.ofNat 3 ((va - wdogBase) / 8)))
  else (.registerWrite, .regWrite { addr := BitVec.ofNat 64 va, bytes := bs.length, val := v, source := source })

/-- The steps that stores of a core to the panel control space make, in order, and then what answers them: each comes before
anything else that goes there (R6, R176). -/
def State.controlSteps (s : State) (source : Nat) (ws : List (Nat × List Byte)) (after : List (Instr × Arg)) : State :=
  let steps := ws.map (fun w => controlWrite source w.1 w.2) ++ after
  { s with due := steps.map (fun e => { path := some (false, source, s.pathNode .control),
                                        ev := { kind := e.1, arg := e.2 } }) ++ s.due }

end Sys2Proof.Machine
end

