-- ==== Sys2Proof/Machine/Scalar.lean ====
section
/-!
DEFINITION. The scalar integer and address instructions, majors 0x01 to 0x07 (R92 to R108). Each result is an operation of
its own; an instruction writes it to its destination and completes in its length, so that the compact forms (R107) share it.
-/
namespace Sys2Proof.Machine

/-! ### Results -/

/-- bits(a × b, 127, 64) of the signed product (R96). -/
def mulHighS (a b : Dword) : Dword := BitVec.ofInt 64 (a.toInt * b.toInt / 2 ^ 64)

/-- bits(a × b, 127, 64) of the unsigned product (R96). -/
def mulHighN (a b : Dword) : Dword := BitVec.ofNat 64 (a.toNat * b.toNat / 2 ^ 64)

/-- Signed quotient, truncating (R98). -/
def quotS (a b : Dword) : Dword := if b = 0 then BitVec.allOnes 64 else BitVec.ofInt 64 (a.toInt.tdiv b.toInt)

/-- Unsigned quotient (R98). -/
def quotN (a b : Dword) : Dword := if b = 0 then BitVec.allOnes 64 else BitVec.ofNat 64 (a.toNat / b.toNat)

/-- Signed remainder, with the sign of `a` (R98). -/
def remainS (a b : Dword) : Dword := if b = 0 then a else BitVec.ofInt 64 (a.toInt.tmod b.toInt)

/-- Unsigned remainder (R98). -/
def remainN (a b : Dword) : Dword := if b = 0 then a else BitVec.ofNat 64 (a.toNat % b.toNat)

/-- 1 or 0. -/
def dwordOfBool (c : Bool) : Dword := if c then 1 else 0

/-- SHL by the whole of `b` (R97). -/
def shiftLeft (a b : Dword) : Dword := if 64 ≤ b.toNat then 0 else a <<< b.toNat

/-- SHR by the whole of `b` (R97). -/
def shiftRight (a b : Dword) : Dword := if 64 ≤ b.toNat then 0 else a >>> b.toNat

/-- SAR by `b`, at most 63 (R97). -/
def shiftArith (a b : Dword) : Dword := a.sshiftRight (min b.toNat 63)

/-- ROL by `b` modulo 64 (R97). -/
def rotLeft (a b : Dword) : Dword := a.rotateLeft (b.toNat % 64)

/-- Number of zero bits above the highest 1 (R101). -/
def leadingZeros (a : Dword) : Dword := BitVec.ofNat 64 (if a = 0 then 64 else 63 - a.toNat.log2)

/-- Number of zero bits below the lowest 1 (R101). -/
def trailingZeros (a : Dword) : Dword :=
  BitVec.ofNat 64 (((List.range 64).find? (fun i => a.getLsbD i)).getD 64)

/-- Number of 1 bits (R101). -/
def onesCount (a : Dword) : Nat := ((List.range 64).filter (fun i => a.getLsbD i)).length

/-- The bits in the opposite order (R101). -/
def bitReverse (a : Dword) : Dword :=
  BitVec.ofNat 64 ((List.range 64).foldl (fun r i => 2 * r + natOfBool (a.getLsbD i)) 0)

/-- The bytes in the opposite order (R101). -/
def byteSwap (a : Dword) : Dword := BitVec.ofNat 64 (ofBytes (bytesOf 8 a.toNat).reverse)

/-- BFX: `len` bits from `pos`, zero-extended (R102). -/
def fieldExtract (a : Dword) (pos len : Nat) : Dword := BitVec.ofNat 64 (a.toNat / 2 ^ pos % 2 ^ len)

/-- BFI: `len` bits at `pos` of `d` replaced by the low bits of `a` (R102). -/
def fieldInsert (d a : Dword) (pos len : Nat) : Dword :=
  let m : Dword := BitVec.ofNat 64 ((2 ^ len - 1) * 2 ^ pos)
  (d &&& ~~~m) ||| ((a <<< pos) &&& m)

/-- SLICE's start and length for a rank, from extent, parts, divisor and granule (R44). -/
def sliceShare (rank e p div align : Nat) : Nat × Nat :=
  if p = 0 then (0, e)
  else
    let a := max align 1
    let q := max div 1
    let part := rank / q % p
    let blocks := (e + a - 1) / a
    let base := blocks / p
    let extra := blocks % p
    let mine := base + natOfBool (decide (part < extra))
    let first := part * base + min part extra
    let start := min (first * a) e
    (start, min (mine * a) (e - start))

/-! ### Completing -/

/-- A slot whose result takes longer than the reissue interval stays in the ring, not ready, for a time that depends on
its next instruction (R92, R93; log 5). -/
def State.slow (s : State) : State :=
  s.modMe (fun sl => { sl with readyAt := sl.readyAt + Config.stall s.tick })

/-- A result written to `d` and an instruction of `len` bytes complete. -/
def State.write (s : State) (len : Nat) (d : BitVec 5) (x : Dword) : State := (s.setG d x).finish len

/-- An operation on two registers. -/
def State.alu (s : State) (len : Nat) (d a b : BitVec 5) (f : Dword → Dword → Dword) : State :=
  s.write len d (f (s.getG a) (s.getG b))

/-- An operation on a register and an immediate. -/
def State.aluImm (s : State) (len : Nat) (d a : BitVec 5) (x : Dword) (f : Dword → Dword → Dword) : State :=
  s.write len d (f (s.getG a) x)

/-! ### Major 0x01 (R96 to R98) -/

/-- ADD (R96). -/
def execAdd (d a b : BitVec 5) (s : State) : Host.Outcome State Fault Refusal := .next (s.alu 4 d a b (· + ·))
/-- SUB (R96). -/
def execSub (d a b : BitVec 5) (s : State) : Host.Outcome State Fault Refusal := .next (s.alu 4 d a b (· - ·))
/-- AND (R96). -/
def execAnd (d a b : BitVec 5) (s : State) : Host.Outcome State Fault Refusal := .next (s.alu 4 d a b (· &&& ·))
/-- OR (R96). -/
def execOr (d a b : BitVec 5) (s : State) : Host.Outcome State Fault Refusal := .next (s.alu 4 d a b (· ||| ·))
/-- XOR (R96). -/
def execXor (d a b : BitVec 5) (s : State) : Host.Outcome State Fault Refusal := .next (s.alu 4 d a b (· ^^^ ·))
/-- ANDN (R96). -/
def execAndn (d a b : BitVec 5) (s : State) : Host.Outcome State Fault Refusal :=
  .next (s.alu 4 d a b (fun x y => x &&& ~~~y))
/-- MUL (R96). -/
def execMul (d a b : BitVec 5) (s : State) : Host.Outcome State Fault Refusal := .next (s.alu 4 d a b (· * ·)).slow
/-- MULH.S (R96). -/
def execMulhS (d a b : BitVec 5) (s : State) : Host.Outcome State Fault Refusal := .next (s.alu 4 d a b mulHighS).slow
/-- MULH.N (R96). -/
def execMulhN (d a b : BitVec 5) (s : State) : Host.Outcome State Fault Refusal := .next (s.alu 4 d a b mulHighN).slow
/-- DIV.S (R98). -/
def execDivS (d a b : BitVec 5) (s : State) : Host.Outcome State Fault Refusal := .next (s.alu 4 d a b quotS).slow
/-- DIV.N (R98). -/
def execDivN (d a b : BitVec 5) (s : State) : Host.Outcome State Fault Refusal := .next (s.alu 4 d a b quotN).slow
/-- REM.S (R98). -/
def execRemS (d a b : BitVec 5) (s : State) : Host.Outcome State Fault Refusal := .next (s.alu 4 d a b remainS).slow
/-- REM.N (R98). -/
def execRemN (d a b : BitVec 5) (s : State) : Host.Outcome State Fault Refusal := .next (s.alu 4 d a b remainN).slow
/-- MIN.S (R96). -/
def execMinS (d a b : BitVec 5) (s : State) : Host.Outcome State Fault Refusal :=
  .next (s.alu 4 d a b (fun x y => if x.slt y then x else y))
/-- MIN.N (R96). -/
def execMinN (d a b : BitVec 5) (s : State) : Host.Outcome State Fault Refusal :=
  .next (s.alu 4 d a b (fun x y => if x.ult y then x else y))
/-- MAX.S (R96). -/
def execMaxS (d a b : BitVec 5) (s : State) : Host.Outcome State Fault Refusal :=
  .next (s.alu 4 d a b (fun x y => if x.slt y then y else x))
/-- MAX.N (R96). -/
def execMaxN (d a b : BitVec 5) (s : State) : Host.Outcome State Fault Refusal :=
  .next (s.alu 4 d a b (fun x y => if x.ult y then y else x))
/-- SEQ (R96). -/
def execSeq (d a b : BitVec 5) (s : State) : Host.Outcome State Fault Refusal :=
  .next (s.alu 4 d a b (fun x y => dwordOfBool (x == y)))
/-- SNE (R96). -/
def execSne (d a b : BitVec 5) (s : State) : Host.Outcome State Fault Refusal :=
  .next (s.alu 4 d a b (fun x y => dwordOfBool (x != y)))
/-- SLT.S (R96). -/
def execSltS (d a b : BitVec 5) (s : State) : Host.Outcome State Fault Refusal :=
  .next (s.alu 4 d a b (fun x y => dwordOfBool (x.slt y)))
/-- SLT.N (R96). -/
def execSltN (d a b : BitVec 5) (s : State) : Host.Outcome State Fault Refusal :=
  .next (s.alu 4 d a b (fun x y => dwordOfBool (x.ult y)))
/-- SHL (R97). -/
def execShl (d a b : BitVec 5) (s : State) : Host.Outcome State Fault Refusal := .next (s.alu 4 d a b shiftLeft)
/-- SHR (R97). -/
def execShr (d a b : BitVec 5) (s : State) : Host.Outcome State Fault Refusal := .next (s.alu 4 d a b shiftRight)
/-- SAR (R97). -/
def execSar (d a b : BitVec 5) (s : State) : Host.Outcome State Fault Refusal := .next (s.alu 4 d a b shiftArith)
/-- ROL (R97). -/
def execRol (d a b : BitVec 5) (s : State) : Host.Outcome State Fault Refusal := .next (s.alu 4 d a b rotLeft)
/-- ADDW (R96). -/
def execAddw (d a b : BitVec 5) (s : State) : Host.Outcome State Fault Refusal :=
  .next (s.alu 4 d a b (fun x y => sextLow 32 (x + y)))
/-- SUBW (R96). -/
def execSubw (d a b : BitVec 5) (s : State) : Host.Outcome State Fault Refusal :=
  .next (s.alu 4 d a b (fun x y => sextLow 32 (x - y)))
/-- MULW (R96). -/
def execMulw (d a b : BitVec 5) (s : State) : Host.Outcome State Fault Refusal :=
  .next (s.alu 4 d a b (fun x y => sextLow 32 (x * y))).slow

/-! ### Majors 0x02 to 0x04 (R99, R100) -/

/-- ADDI (R99). -/
def execAddi (d a : BitVec 5) (imm : BitVec 12) (s : State) : Host.Outcome State Fault Refusal :=
  .next (s.aluImm 4 d a (imm.signExtend 64) (· + ·))
/-- ANDI (R99). -/
def execAndi (d a : BitVec 5) (imm : BitVec 12) (s : State) : Host.Outcome State Fault Refusal :=
  .next (s.aluImm 4 d a (imm.signExtend 64) (· &&& ·))
/-- ORI (R99). -/
def execOri (d a : BitVec 5) (imm : BitVec 12) (s : State) : Host.Outcome State Fault Refusal :=
  .next (s.aluImm 4 d a (imm.signExtend 64) (· ||| ·))
/-- XORI (R99). -/
def execXori (d a : BitVec 5) (imm : BitVec 12) (s : State) : Host.Outcome State Fault Refusal :=
  .next (s.aluImm 4 d a (imm.signExtend 64) (· ^^^ ·))
/-- SLTI.S (R99). -/
def execSltiS (d a : BitVec 5) (imm : BitVec 12) (s : State) : Host.Outcome State Fault Refusal :=
  .next (s.aluImm 4 d a (imm.signExtend 64) (fun x y => dwordOfBool (x.slt y)))
/-- SLTI.N (R99). -/
def execSltiN (d a : BitVec 5) (imm : BitVec 12) (s : State) : Host.Outcome State Fault Refusal :=
  .next (s.aluImm 4 d a (imm.signExtend 64) (fun x y => dwordOfBool (x.ult y)))
/-- SHLI (R99). -/
def execShli (d a : BitVec 5) (sc : BitVec 6) (s : State) : Host.Outcome State Fault Refusal :=
  .next (s.aluImm 4 d a (sc.setWidth 64) shiftLeft)
/-- SHRI (R99). -/
def execShri (d a : BitVec 5) (sc : BitVec 6) (s : State) : Host.Outcome State Fault Refusal :=
  .next (s.aluImm 4 d a (sc.setWidth 64) shiftRight)
/-- SARI (R99). -/
def execSari (d a : BitVec 5) (sc : BitVec 6) (s : State) : Host.Outcome State Fault Refusal :=
  .next (s.aluImm 4 d a (sc.setWidth 64) shiftArith)
/-- LIH (R100): sext(imm20 << 12, 32). -/
def execLih (d : BitVec 5) (imm : BitVec 20) (s : State) : Host.Outcome State Fault Refusal :=
  .next (s.write 4 d (((imm.setWidth 32) <<< 12).signExtend 64))
/-- LIT (R100). -/
def execLit (d : BitVec 5) (imm : BitVec 20) (s : State) : Host.Outcome State Fault Refusal :=
  .next (s.write 4 d ((s.getG d <<< 20) ||| imm.setWidth 64))

/-! ### Majors 0x05 and 0x06 (R101 to R103) -/

/-- CLZ (R101). -/
def execClz (d a : BitVec 5) (s : State) : Host.Outcome State Fault Refusal :=
  .next (s.write 4 d (leadingZeros (s.getG a)))
/-- CTZ (R101). -/
def execCtz (d a : BitVec 5) (s : State) : Host.Outcome State Fault Refusal :=
  .next (s.write 4 d (trailingZeros (s.getG a)))
/-- POPC (R101). -/
def execPopc (d a : BitVec 5) (s : State) : Host.Outcome State Fault Refusal :=
  .next (s.write 4 d (BitVec.ofNat 64 (onesCount (s.getG a))))
/-- BREV (R101). -/
def execBrev (d a : BitVec 5) (s : State) : Host.Outcome State Fault Refusal :=
  .next (s.write 4 d (bitReverse (s.getG a)))
/-- BSWAP (R101). -/
def execBswap (d a : BitVec 5) (s : State) : Host.Outcome State Fault Refusal :=
  .next (s.write 4 d (byteSwap (s.getG a)))
/-- SEL (R102). -/
def execSel (d a b cc : BitVec 5) (s : State) : Host.Outcome State Fault Refusal :=
  .next (s.write 4 d (if s.getG cc ≠ 0 then s.getG a else s.getG b))
/-- BFX (R102); the field holds len − 1. -/
def execBfx (d a : BitVec 5) (pos ln : BitVec 6) (s : State) : Host.Outcome State Fault Refusal :=
  .next (s.write 4 d (fieldExtract (s.getG a) pos.toNat (ln.toNat + 1)))
/-- BFI (R102, R103). -/
def execBfi (d a : BitVec 5) (pos ln : BitVec 6) (s : State) : Host.Outcome State Fault Refusal :=
  .next (s.write 4 d (fieldInsert (s.getG d) (s.getG a) pos.toNat (ln.toNat + 1)))
/-- LEA (R102). -/
def execLea (d a b : BitVec 5) (sc : BitVec 3) (s : State) : Host.Outcome State Fault Refusal :=
  .next (s.write 4 d (s.getG a + (s.getG b <<< sc.toNat)))

/-! ### SLICE (R104 to R106) -/

/-- SLICE: dimension `num` of the shape record in the own local store, for the rank in `a`; start to `d`, then length to
`b` (R105). An uncorrectable word faults 0x1E (R106). -/
def execSlice (d a b : BitVec 5) (num : BitVec 2) (s : State) : Host.Outcome State Fault Refusal :=
  let banks := s.shareBanks s.curCore s.me.who
  let off := banks.length * 0x20000 - 0x80 + 64 + 16 * num.toNat
  match s.resolve s.acc .load 16 (BitVec.ofNat 64 off) with
  | .error e => .next (s.stop e)
  | .ok _ =>
  let p := localAddr s.curCore banks off
  match s.badIn p 16 with
  | some x => .next (s.fault 0x1E (BitVec.ofNat 64 (off + (x - p))))
  | none =>
    let r := sliceShare (s.getG a).toNat (s.peek p 8) (s.peek (p + 8) 2) (s.peek (p + 10) 2) (s.peek (p + 12) 4)
    .next ((((s.countSoft p 16).setG d (BitVec.ofNat 64 r.1)).setG b (BitVec.ofNat 64 r.2)).finish 4).slow

end Sys2Proof.Machine
end

