-- ==== Sys2Proof/Machine/Vector.lean ====
section
/-!
DEFINITION. The vector instructions, majors 0x1C to 0x26 (R242 to R263): lane operations, the masked destination, the flags
and the stochastic rule, and one meaning per instruction.
-/
namespace Sys2Proof.Machine

/-! ### Retiring -/

/-- The slot's rounding mode (R85). -/
def State.rmode (s : State) : Nat := s.me.fp.rmode.toNat

/-- The random word of element `i` under the slot's SEED and DRAW (R88). -/
def State.rand (s : State) (i : Nat) : Nat := randWord s.me.fp.seed s.me.fp.draw i

/-- DRAW counts a stochastic instruction that retires (R89). -/
def State.countDraw (s : State) (stochastic : Bool) : State :=
  if stochastic then s.modMe (fun sl => { sl with fp := { sl.fp with draw := sl.fp.draw + 1 } }) else s

/-- A vector instruction completes: destination, flags (R244), and DRAW if it was stochastic (R245). -/
def State.vecDone (s : State) (d : BitVec 4) (r : VReg × BitVec 5) (stochastic : Bool) : State :=
  (((s.setV d r.1).orFlags r.2).countDraw stochastic).finish 4

/-- A masked operation on lanes of two sources and the old destination (R242, R243). -/
def State.laneOp (s : State) (ty : BitVec 5) (d a b : BitVec 4) (km : BitVec 3)
    (f : Nat → Nat → Nat → Nat → Nat × BitVec 5) : VReg × BitVec 5 :=
  let w := widthOf ty
  let old := s.getV d
  let x := s.getV a
  let y := s.getV b
  mapLanes w (lanesOf ty) (s.getK km) old (fun i => f i (lane w i x) (lane w i y) (lane w i old))

/-- A masked operation that sets no flag. -/
def State.plainOp (s : State) (ty : BitVec 5) (d a b : BitVec 4) (km : BitVec 3) (f : Nat → Nat → Nat) : State :=
  s.vecDone d (s.laneOp ty d a b km (fun _ x y _ => (f x y, 0))) false

/-! ### Lane arithmetic (R249 to R251) -/

/-- Whether a type is signed. -/
def signedTy (ty : BitVec 5) : Bool :=
  match vecTy ty with
  | .int sg _ => sg
  | .flt _ => false

/-- An exact integer result kept in a type: wrapped, or clamped with .sat (R249). -/
def keepInt (ty : BitVec 5) (sat : Bool) (v : Int) : Nat :=
  codeOf (widthOf ty) (if sat then clampInt (signedTy ty) (widthOf ty) v else v)

/-- A lane as an integer of its type. -/
def laneInt (ty : BitVec 5) (x : Nat) : Int := intOf (signedTy ty) (widthOf ty) x

/-- An arithmetic instruction of major 0x1C: its integer result, or its float result in the slot's mode (R249, R250). -/
def State.arith (s : State) (d a b : BitVec 4) (km : BitVec 3) (ty : BitVec 5) (sat : Bool)
    (fi : Int → Int → Int) (ff : Fmt → Nat → Nat → Nat → Nat → Nat × BitVec 5) : State :=
  if intTy ty then
    s.vecDone d (s.laneOp ty d a b km (fun _ x y _ => (keepInt ty sat (fi (laneInt ty x) (laneInt ty y)), 0))) false
  else
    s.vecDone d (s.laneOp ty d a b km (fun i x y _ => ff (vecFmt ty) s.rmode (s.rand i) x y)) (s.rmode == 5)

/-- VMIN and VMAX: exact, never stochastic (R245, R250). -/
def State.minMax (s : State) (d a b : BitVec 4) (km : BitVec 3) (ty : BitVec 5) (big : Bool) : State :=
  s.vecDone d (s.laneOp ty d a b km (fun _ x y _ =>
    if intTy ty then
      (if (if big then laneInt ty y < laneInt ty x else laneInt ty x < laneInt ty y) then x else y, 0)
    else (vecFmt ty).minMax big x y)) false

/-- VABS and VNEG on a float lane: the sign bit, and a NaN becomes the canonical one (R250). -/
def signOp (ty : BitVec 5) (negate : Bool) (x : Nat) : Nat :=
  let f := vecFmt ty
  let top := 2 ^ (widthOf ty - 1)
  if (f.decode x).isNan then f.nanCode
  else if negate then (if top ≤ x then x - top else x + top) else x % top

/-- VABS and VNEG (R249, R250). -/
def State.signed (s : State) (d a : BitVec 4) (km : BitVec 3) (ty : BitVec 5) (sat negate : Bool) : State :=
  s.vecDone d (s.laneOp ty d a a km (fun _ x _ _ =>
    if intTy ty then
      let v := laneInt ty x
      (keepInt ty sat (if negate then -v else (v.natAbs : Int)), 0)
    else (signOp ty negate x, 0))) false

/-- A float value with its sign changed when asked. -/
def FVal.negIf (v : FVal) (c : Bool) : FVal := if c then v.neg else v

/-- VFMA, VFMS and VFNMA: ±a × b ± d, rounded once (R251). -/
def State.fused (s : State) (d a b : BitVec 4) (km : BitVec 3) (ty : BitVec 5) (negProd negAdd : Bool) : State :=
  let f := vecFmt ty
  s.vecDone d (s.laneOp ty d a b km (fun i x y z =>
    f.dot s.rmode (s.rand i) [((f.decode x).negIf negProd, f.decode y)] [(f.decode z).negIf negAdd]))
    (s.rmode == 5)

/-- Lane `i` of VDOT (R252): groups of lanes of width `w` and the 32-bit lane `z`. -/
def State.dotLane (s : State) (ty : BitVec 5) (x y : VReg) (i z : Nat) : Nat × BitVec 5 :=
  let w := widthOf ty
  let g := 32 / w
  let at' := fun (v : VReg) (j : Nat) => lane w (g * i + j) v
  if intTy ty then
    let t := (List.range g).foldl (fun (acc : Int) j => acc + laneInt ty (at' x j) * laneInt ty (at' y j)) (z : Int)
    (codeOf 32 t, 0)
  else
    let f := vecFmt ty
    fmtF32.dot s.rmode (s.rand i) ((List.range g).map (fun j => (f.decode (at' x j), f.decode (at' y j))))
      [fmtF32.decode z]

/-! ### Majors 0x1C and 0x1D -/

/-- VADD (R249, R250). -/
def execVadd (d a b : BitVec 4) (km : BitVec 3) (ty : BitVec 5) (sc : BitVec 1) (s : State) :
    Host.Outcome State Fault Refusal :=
  .next (s.arith d a b km ty (flagOf sc) (· + ·) Fmt.add)
/-- VSUB (R249, R250). -/
def execVsub (d a b : BitVec 4) (km : BitVec 3) (ty : BitVec 5) (sc : BitVec 1) (s : State) :
    Host.Outcome State Fault Refusal :=
  .next (s.arith d a b km ty (flagOf sc) (· - ·) Fmt.sub)
/-- VMUL (R249, R250). -/
def execVmul (d a b : BitVec 4) (km : BitVec 3) (ty : BitVec 5) (sc : BitVec 1) (s : State) :
    Host.Outcome State Fault Refusal :=
  .next (s.arith d a b km ty (flagOf sc) (· * ·) Fmt.mul)
/-- VMULH (R249). -/
def execVmulh (d a b : BitVec 4) (km : BitVec 3) (ty : BitVec 5) (s : State) : Host.Outcome State Fault Refusal :=
  .next (s.arith d a b km ty false (fun x y => x * y / 2 ^ widthOf ty) Fmt.mul)
/-- VMIN (R249, R250). -/
def execVmin (d a b : BitVec 4) (km : BitVec 3) (ty : BitVec 5) (s : State) : Host.Outcome State Fault Refusal :=
  .next (s.minMax d a b km ty false)
/-- VMAX (R249, R250). -/
def execVmax (d a b : BitVec 4) (km : BitVec 3) (ty : BitVec 5) (s : State) : Host.Outcome State Fault Refusal :=
  .next (s.minMax d a b km ty true)
/-- VABS (R249, R250). -/
def execVabs (d a : BitVec 4) (km : BitVec 3) (ty : BitVec 5) (sc : BitVec 1) (s : State) :
    Host.Outcome State Fault Refusal :=
  .next (s.signed d a km ty (flagOf sc) false)
/-- VNEG (R249, R250). -/
def execVneg (d a : BitVec 4) (km : BitVec 3) (ty : BitVec 5) (sc : BitVec 1) (s : State) :
    Host.Outcome State Fault Refusal :=
  .next (s.signed d a km ty (flagOf sc) true)
/-- VFMA (R251). -/
def execVfma (d a b : BitVec 4) (km : BitVec 3) (ty : BitVec 5) (s : State) : Host.Outcome State Fault Refusal :=
  .next (s.fused d a b km ty false false).slow
/-- VFMS (R251). -/
def execVfms (d a b : BitVec 4) (km : BitVec 3) (ty : BitVec 5) (s : State) : Host.Outcome State Fault Refusal :=
  .next (s.fused d a b km ty false true).slow
/-- VFNMA (R251). -/
def execVfnma (d a b : BitVec 4) (km : BitVec 3) (ty : BitVec 5) (s : State) : Host.Outcome State Fault Refusal :=
  .next (s.fused d a b km ty true false).slow
/-- VDOT (R252). -/
def execVdot (d a b : BitVec 4) (km : BitVec 3) (ty : BitVec 5) (s : State) : Host.Outcome State Fault Refusal :=
  let old := s.getV d
  let r := mapLanes 32 16 (s.getK km) old (fun i => s.dotLane ty (s.getV a) (s.getV b) i (lane 32 i old))
  .next (s.vecDone d r (!intTy ty && s.rmode == 5)).slow

/-! ### Major 0x1E (R253) -/

/-- All ones in `w` bits. -/
def onesOf (w : Nat) : Nat := 2 ^ w - 1

/-- VAND (R253). -/
def execVand (d a b : BitVec 4) (km : BitVec 3) (ty : BitVec 5) (s : State) : Host.Outcome State Fault Refusal :=
  .next (s.plainOp ty d a b km (fun x y => x &&& y))
/-- VOR (R253). -/
def execVor (d a b : BitVec 4) (km : BitVec 3) (ty : BitVec 5) (s : State) : Host.Outcome State Fault Refusal :=
  .next (s.plainOp ty d a b km (fun x y => x ||| y))
/-- VXOR (R253). -/
def execVxor (d a b : BitVec 4) (km : BitVec 3) (ty : BitVec 5) (s : State) : Host.Outcome State Fault Refusal :=
  .next (s.plainOp ty d a b km (fun x y => x ^^^ y))
/-- VNOT (R253). -/
def execVnot (d a : BitVec 4) (km : BitVec 3) (ty : BitVec 5) (s : State) : Host.Outcome State Fault Refusal :=
  .next (s.plainOp ty d a a km (fun x _ => onesOf (widthOf ty) - x))
/-- VSHL (R253). -/
def execVshl (d a b : BitVec 4) (km : BitVec 3) (ty : BitVec 5) (s : State) : Host.Outcome State Fault Refusal :=
  .next (s.plainOp ty d a b km (fun x y => if widthOf ty ≤ y then 0 else x * 2 ^ y))
/-- VSHR (R253). -/
def execVshr (d a b : BitVec 4) (km : BitVec 3) (ty : BitVec 5) (s : State) : Host.Outcome State Fault Refusal :=
  .next (s.plainOp ty d a b km (fun x y => if widthOf ty ≤ y then 0 else x / 2 ^ y))
/-- VSAR (R253). -/
def execVsar (d a b : BitVec 4) (km : BitVec 3) (ty : BitVec 5) (s : State) : Host.Outcome State Fault Refusal :=
  let w := widthOf ty
  .next (s.plainOp ty d a b km (fun x y => codeOf w (intOf true w x / 2 ^ min y (w - 1))))

/-! ### Majors 0x1F and 0x20 (R254, R255) -/

/-- A compare predicate on integers. -/
def predInt (p : Nat) (a b : Int) : Bool :=
  match p with
  | 0 => decide (a = b)
  | 1 => decide (a ≠ b)
  | 2 => decide (a < b)
  | 3 => decide (a ≤ b)
  | 4 => decide (b < a)
  | 5 => decide (b ≤ a)
  | _ => false

/-- A compare predicate on floats, with its flag (R254). -/
def predFloat (p : Nat) (x y : FVal) : Bool × BitVec 5 :=
  if x.isNan || y.isNan then
    (decide (p = 1 ∨ p = 6), if x.isSig || y.isSig || decide (2 ≤ p ∧ p ≤ 5) then flagNV else 0)
  else
    let lt := x.lt y
    let gt := y.lt x
    (match p with
      | 0 => !lt && !gt
      | 1 => lt || gt
      | 2 => lt
      | 3 => !gt
      | 4 => gt
      | 5 => !lt
      | _ => false, 0)

/-- VCMP: a mask register, its bits from L up cleared (R254). -/
def execVcmp (kd : BitVec 3) (a b : BitVec 4) (km : BitVec 3) (ty pos : BitVec 5) (s : State) :
    Host.Outcome State Fault Refusal :=
  let w := widthOf ty
  let n := lanesOf ty
  let mask := s.getK km
  let old := s.getK kd
  let res := fun i => if intTy ty
    then (predInt pos.toNat (laneInt ty (lane w i (s.getV a))) (laneInt ty (lane w i (s.getV b))), (0 : BitVec 5))
    else predFloat pos.toNat ((vecFmt ty).decode (lane w i (s.getV a))) ((vecFmt ty).decode (lane w i (s.getV b)))
  let rs := (List.range n).map (fun i => if mask.getLsbD i then res i else (old.getLsbD i, 0))
  let bits := joinLanes 1 (rs.map (fun r => natOfBool r.1))
  .next (((s.setK kd (BitVec.ofNat 64 bits)).orFlags (rs.foldl (fun fl r => fl ||| r.2) 0)).finish 4)

/-- VSEL (R255). -/
def execVsel (d a b : BitVec 4) (km : BitVec 3) (ty : BitVec 5) (s : State) : Host.Outcome State Fault Refusal :=
  let w := widthOf ty
  let r := mapLanes w (lanesOf ty) (s.getK km) (s.getV b) (fun i => (lane w i (s.getV a), 0))
  .next (s.vecDone d r false)
/-- VMOV (R255). -/
def execVmov (d a : BitVec 4) (km : BitVec 3) (ty : BitVec 5) (s : State) : Host.Outcome State Fault Refusal :=
  .next (s.plainOp ty d a a km (fun x _ => x))

/-! ### Majors 0x21 and 0x22 (R256, R257) -/

/-- VCVT: `ty` is the destination, `fl` the source, `row` the mode (R256). -/
def execVcvt (d a : BitVec 4) (row : BitVec 3) (sc : BitVec 1) (km : BitVec 3) (ty fl : BitVec 5) (s : State) :
    Host.Outcome State Fault Refusal :=
  let wd := widthOf ty
  let ws := widthOf fl
  let n := min (lanesOf fl) (lanesOf ty)
  let mask := s.getK km
  let old := s.getV d
  let rs := (List.range n).map (fun i =>
    if mask.getLsbD (if n = 128 then i / 2 else i) then
      convert (vecTy fl) (vecTy ty) row.toNat (s.rand i) (flagOf sc) (lane ws i (s.getV a))
    else (lane wd i old, 0))
  .next (s.vecDone d (ofLanes wd (rs.map Prod.fst), rs.foldl (fun f r => f ||| r.2) 0) (row == 5))

/-- VPERM (R257). -/
def execVperm (d a b : BitVec 4) (km : BitVec 3) (ty : BitVec 5) (s : State) : Host.Outcome State Fault Refusal :=
  let x := s.getV a
  .next (s.plainOp ty d a b km (fun _ y => if y < lanesOf ty then lane (widthOf ty) y x else 0))
/-- VSHUF (R257). -/
def execVshuf (d a b : BitVec 4) (km : BitVec 3) (ty : BitVec 5) (s : State) : Host.Outcome State Fault Refusal :=
  let w := widthOf ty
  .next (s.vecDone d (s.laneOp ty d a b km (fun i _ _ _ =>
    (lane w (i / 2) (if i % 2 = 0 then s.getV a else s.getV b), 0))) false)

/-! ### Major 0x23 (R258) -/

/-- VBCST (R258). -/
def execVbcst (d : BitVec 4) (gr ty : BitVec 5) (s : State) : Host.Outcome State Fault Refusal :=
  .next (s.vecDone d (ofLanes (widthOf ty) (List.replicate (lanesOf ty) (s.getG gr).toNat), 0) false)
/-- VINS (R258). -/
def execVins (d : BitVec 4) (gr : BitVec 5) (ln : BitVec 6) (ty : BitVec 5) (s : State) :
    Host.Outcome State Fault Refusal :=
  let w := widthOf ty
  let xs := (List.range (lanesOf ty)).map (fun i => if i = ln.toNat then (s.getG gr).toNat else lane w i (s.getV d))
  .next (s.vecDone d (ofLanes w xs, 0) false)
/-- VEXT (R258). -/
def execVext (gr : BitVec 5) (a : BitVec 4) (ln : BitVec 6) (ty : BitVec 5) (s : State) :
    Host.Outcome State Fault Refusal :=
  .next (s.write 4 gr (BitVec.ofInt 64 (laneInt ty (lane (widthOf ty) ln.toNat (s.getV a)))))
/-- VLI (R258). -/
def execVli (d : BitVec 4) (imm : BitVec 16) (md : BitVec 2) (s : State) : Host.Outcome State Fault Refusal :=
  let x := imm.toNat
  let r := match md.toNat with
    | 0 => ofLanes 16 (List.replicate 32 x)
    | 1 => ofLanes 32 (List.replicate 16 x)
    | 2 => ofLanes 32 (List.replicate 16 (x * 2 ^ 16))
    | _ => ofLanes 8 (List.replicate 64 x)
  .next ((s.setV d r).finish 4)

/-! ### Major 0x24 (R259) -/

/-- The ⊕ of VRED: its result and flags. -/
def reduceOp (ty : BitVec 5) (op mode x y : Nat) : Nat × BitVec 5 :=
  let w := widthOf ty
  match op with
  | 0 => if intTy ty then (codeOf w (laneInt ty x + laneInt ty y), 0) else (vecFmt ty).add mode 0 x y
  | 1 => if intTy ty then (if laneInt ty x ≤ laneInt ty y then x else y, 0) else (vecFmt ty).minMax false x y
  | 2 => if intTy ty then (if laneInt ty y ≤ laneInt ty x then x else y, 0) else (vecFmt ty).minMax true x y
  | 3 => (x &&& y, 0)
  | 4 => (x ||| y, 0)
  | _ => (x ^^^ y, 0)

/-- VRED's result when no lane is enabled (R259). -/
def reduceEmpty (ty : BitVec 5) (op : Nat) : Nat :=
  let w := widthOf ty
  match op with
  | 1 => if intTy ty then codeOf w (intMax (signedTy ty) w) else (vecFmt ty).infCode false
  | 2 => if intTy ty then codeOf w (intMin (signedTy ty) w) else (vecFmt ty).infCode true
  | 3 => onesOf w
  | _ => 0

/-- One level of the pairwise tree: absent nodes are none (R259). -/
def reduceLevel (f : Nat → Nat → Nat × BitVec 5) : List (Option Nat) → List (Option Nat) × BitVec 5
  | x :: y :: rest =>
    let r := reduceLevel f rest
    match x, y with
    | some a, some b => (some (f a b).1 :: r.1, (f a b).2 ||| r.2)
    | some a, none => (some a :: r.1, r.2)
    | none, z => (z :: r.1, r.2)
  | xs => (xs, 0)

/-- The pairwise tree of `levels` levels. -/
def reduceTree (f : Nat → Nat → Nat × BitVec 5) : Nat → List (Option Nat) → BitVec 5 → Option Nat × BitVec 5
  | 0, xs, fl => (xs.headD none, fl)
  | n + 1, xs, fl =>
    let r := reduceLevel f xs
    reduceTree f n r.1 (fl ||| r.2)

/-- VRED: lane 0 gets the result, the others zero; SR counts as RNE and the instruction is never stochastic (R259). -/
def execVred (d a : BitVec 4) (km : BitVec 3) (ty off : BitVec 5) (s : State) : Host.Outcome State Fault Refusal :=
  let w := widthOf ty
  let n := lanesOf ty
  let mask := s.getK km
  let mode := if s.rmode = 5 then 0 else s.rmode
  let leaves := (List.range n).map (fun i => if mask.getLsbD i then some (lane w i (s.getV a)) else none)
  let r := reduceTree (reduceOp ty off.toNat mode) n.log2 leaves 0
  .next (s.vecDone d (ofLanes w [r.1.getD (reduceEmpty ty off.toNat)], r.2) false).slow

/-! ### Major 0x25 (R260) -/

/-- KAND (R260). -/
def execKand (d a b : BitVec 3) (s : State) : Host.Outcome State Fault Refusal :=
  .next ((s.setK d (s.getK a &&& s.getK b)).finish 4)
/-- KOR (R260). -/
def execKor (d a b : BitVec 3) (s : State) : Host.Outcome State Fault Refusal :=
  .next ((s.setK d (s.getK a ||| s.getK b)).finish 4)
/-- KXOR (R260). -/
def execKxor (d a b : BitVec 3) (s : State) : Host.Outcome State Fault Refusal :=
  .next ((s.setK d (s.getK a ^^^ s.getK b)).finish 4)
/-- KNOT (R260). -/
def execKnot (d a : BitVec 3) (s : State) : Host.Outcome State Fault Refusal :=
  .next ((s.setK d (~~~ s.getK a)).finish 4)
/-- KMOV kd, ka (R260). -/
def execKmovKK (d a : BitVec 3) (s : State) : Host.Outcome State Fault Refusal := .next ((s.setK d (s.getK a)).finish 4)
/-- KPOP (R260). -/
def execKpop (gr : BitVec 5) (a : BitVec 3) (s : State) : Host.Outcome State Fault Refusal :=
  .next (s.write 4 gr (BitVec.ofNat 64 (onesCount (s.getK a))))
/-- KMOV kd, ga (R260). -/
def execKmovKG (d : BitVec 3) (gr : BitVec 5) (s : State) : Host.Outcome State Fault Refusal :=
  .next ((s.setK d (s.getG gr)).finish 4)
/-- KMOV gd, ka (R260). -/
def execKmovGK (gr : BitVec 5) (a : BitVec 3) (s : State) : Host.Outcome State Fault Refusal :=
  .next (s.write 4 gr (s.getK a))

/-! ### Major 0x26 (R261, R262) -/

/-- The class bit of a float lane (R261). -/
def classBit (f : Fmt) (x : Nat) : Nat :=
  match f.decode x with
  | .nan sig => if sig then 8 else 9
  | .inf neg => if neg then 0 else 7
  | .fin neg m _ =>
    if m = 0 then (if neg then 3 else 4)
    else if m < 2 ^ f.mbits then (if neg then 2 else 5)
    else (if neg then 1 else 6)

/-- VCLS (R261). -/
def execVcls (d a : BitVec 4) (km : BitVec 3) (ty : BitVec 5) (s : State) : Host.Outcome State Fault Refusal :=
  .next (s.plainOp ty d a a km (fun x _ => 2 ^ classBit (vecFmt ty) x))

/-- A value times 2^k (R262). Past ±2048 every finite value overflows, or is far below half the least subnormal and below
every random word, so a greater |k| gives the same result. -/
def scaleBy (f : Fmt) (mode rand x : Nat) (k : Int) : Nat × BitVec 5 :=
  match f.decode x with
  | .nan sig => (f.nanCode, if sig then flagNV else 0)
  | .inf neg => (f.infCode neg, 0)
  | .fin neg m e => f.round mode rand false neg m (e + max (-2048) (min 2048 k))

/-- VSCALE (R262). -/
def execVscale (d a b : BitVec 4) (km : BitVec 3) (ty : BitVec 5) (s : State) : Host.Outcome State Fault Refusal :=
  .next (s.vecDone d (s.laneOp ty d a b km (fun i x y _ =>
    scaleBy (vecFmt ty) s.rmode (s.rand i) x (intOf true (widthOf ty) y))) (s.rmode == 5))

end Sys2Proof.Machine
end

