-- ==== Sys2Proof/Machine/Access.lean ====
section
/-!
DEFINITION. How the executing slot reads and writes memory: reads gathered inline or by requests to their homes, posted
stores with their limit, vector accesses line by line (R147 to R152, R159, R165).
-/
namespace Sys2Proof.Machine

/-! ### Reads -/

/-- What a read of an element comes to: its value, read in the self window or on a page, or a request to its home. -/
inductive Got where
  | val (x : Nat)
  | paged (x : Nat)
  | ask (node : Node) (addr : Nat)
  deriving DecidableEq, Repr

/-- One element of `n` bytes read at its target (R147, R159). -/
def State.readElem (s : State) (a : Acc) (n : Nat) (va : Dword) : Target → State × Except Stop Got
  | .self p =>
    match s.badIn p n with
    | some b => (s, .error (.fault 0x1E (va + BitVec.ofNat 64 (b - p))))
    | none => (s.countSoft p n, .ok (.val (s.peek p n)))
  | .cached v i =>
    match s.readCached a v n i with
    | (s1, .ok x) => (s1, .ok (.paged x))
    | (s1, .error e) => (s1, .error e)
  | .store c p => (s, .ok (.ask (.core c) p))
  | .uncached st v i =>
    match s.xlateFind a.who v i.place.edge with
    | some t => (s, .ok (.ask (.hbm st) (t.phys + (v - t.base))))
    | none => (s, .error (.wait (.translation va)))
  | .control v => (s, .ok (.ask .control v))

/-- The elements of a read in ascending order; the first that stops decides. -/
def State.readAll (s : State) (a : Acc) (n : Nat) :
    List (Nat × Dword × Target) → State × Except Stop (List (Nat × Dword × Got))
  | [] => (s, .ok [])
  | (i, va, t) :: rest =>
    match s.readElem a n va t with
    | (s1, .error e) => (s1, .error e)
    | (s1, .ok g) =>
      match s1.readAll a n rest with
      | (s2, .error e) => (s2, .error e)
      | (s2, .ok gs) => (s2, .ok ((i, va, g) :: gs))

/-- The destination of a read written: a general register with its extension, or the enabled lanes (R149, R151). -/
def Slot.writeDest (sl : Slot) (dest : LoadDest) (got : List (Nat × Dword)) : Slot :=
  let first := ((got.head?).map Prod.snd).getD 0
  match dest with
  | .gpr d n signed => sl.setG d (if signed then sextLow (8 * n) first else zextLow (8 * n) first)
  | .word d => sl.setG d first
  | .vec d w =>
    let old := sl.getV d
    sl.setV d (ofLanes w ((List.range (512 / w)).map (fun i =>
      match lookupNat i got with
      | some x => x.toNat
      | none => lane w i old)))

/-- The PLB entries an access uses become the most recent (R142). -/
def State.touchAll (s : State) (a : Acc) (vas : List Dword) : State :=
  vas.foldl (fun t va => t.plbTouch a va.toNat) s

/-- A memory-plane request leaves the executing slot's core (R135, R176). -/
def State.request (s : State) (node : Node) (va : Dword) (op : MemOp) : State :=
  let r : RemoteReq := { core := s.curCore, slot := s.curSlot, part := s.me.st.partition, node := node, va := va, op := op }
  s.send (some (false, s.curCore, s.pathNode node)) .remoteRequest (.remote r)

/-- The elements that a read asks for, each with its lane, its address, its home and its place there, as one request for each
line, in the order of the lowest lane that uses it: home, address of that lane, and the elements (R134, R151). -/
def groupAsks (asks : List (Nat × Dword × Node × Nat)) : List (Node × Dword × List (Nat × Nat)) :=
  asks.foldl (fun ls x =>
    let same := fun (g : Node × Dword × List (Nat × Nat)) =>
      g.1 == x.2.2.1 && (g.2.2.headD (0, 0)).2 / 64 == x.2.2.2 / 64
    if ls.any same then ls.map (fun g => if same g then (g.1, g.2.1, g.2.2 ++ [(x.1, x.2.2.2)]) else g)
    else ls ++ [(x.2.2.1, x.2.1, [(x.1, x.2.2.2)])]) []

/-- The executing slot, whose instruction is complete, has left the rotation: it rejoins a free number of cycles later (R27,
R147; log 5). -/
def State.leave (s : State) : State :=
  s.modMe (fun sl => { sl with run := .waiting .rejoin, rejoinAt := some (s.here.t + Config.latency s.tick) })

/-- Whether an element was read on a page. -/
def Got.isPaged : Got → Bool
  | .paged _ => true
  | _ => false

/-- A read of the executing slot whose elements are known or asked for: it completes, after which a paged read has left the
rotation, or it waits for its replies (R27, R147). -/
def State.gather (s : State) (len : Nat) (n : Nat) (dest : LoadDest) (acq : Option (BitVec 3))
    (gs : List (Nat × Dword × Got)) : State :=
  let known := gs.filterMap (fun g => match g.2.2 with
    | .val x | .paged x => some (g.1, BitVec.ofNat 64 x)
    | .ask _ _ => none)
  let asks := groupAsks (gs.filterMap (fun g => match g.2.2 with
    | .val _ | .paged _ => none
    | .ask node addr => some (g.1, g.2.1, node, addr)))
  if asks = [] then
    let s0 := (s.modMe (fun sl => sl.writeDest dest known)).finish len
    let s1 := if gs.any (fun g => g.2.2.isPaged) then s0.leave else s0
    match acq with
    | some sc => s1.acquire sc
    | none => s1
  else
    let p : PendingLoad := { dest := dest, got := known, remaining := asks.length, bad := none, acquire := acq }
    asks.foldl (fun t x => t.request x.1 x.2.1 (.read x.2.2 n)) (s.parkAs len (.reply p))

/-- A load of elements of `n` bytes into a destination by an instruction of `len` bytes (R146, R149, R151, R152). -/
def State.load (s : State) (len n : Nat) (k : AccKind) (dest : LoadDest) (acq : Option (BitVec 3))
    (elems : List (Nat × Dword)) : State :=
  match s.checkAll s.acc k n elems with
  | .error e => s.stop e
  | .ok ts =>
    match s.readAll s.acc n ts with
    | (_, .error e) => s.stop e
    | (s1, .ok gs) => (s1.touchAll s.acc (elems.map Prod.snd)).gather len n dest acq gs

/-- A scalar load (R149). -/
def State.loadScalar (s : State) (len n : Nat) (signed : Bool) (d : BitVec 5) (va : Dword) : State :=
  s.load len n .load (.gpr d n signed) none [(0, va)]

/-! ### Stores -/

/-- The limit of outstanding writes of a slot (R147). -/
def writeLimit : Nat := 32

/-- A posted write leaves the executing slot: it counts until its home acknowledges it (R147). -/
def State.post (s : State) (node : Node) (va : Dword) (op : MemOp) : State :=
  (s.request node va op).modMe (fun sl => { sl with outstanding := sl.outstanding + 1 })

/-- A posted write that completes the instruction, or waits where 32 writes are outstanding (R147). -/
def State.postOne (s : State) (len : Nat) (node : Node) (va : Dword) (op : MemOp) : State :=
  if writeLimit ≤ s.me.outstanding then s.parkAs len .room else (s.post node va op).finish len

/-- A request that writes `bs` at an address of its home. -/
def writeOp (addr : Nat) (bs : List Byte) (full : Option (BitVec 2)) : MemOp :=
  .write (lineBase addr) (byteMask (addr % 64) bs.length) (lineOfBytes (addr % 64) bs) full

/-- A deferred fault of the executing slot where a store discarded bytes at an uncorrectable unit (R159). -/
def State.deferIf (s : State) (lost : Bool) (va : Dword) : State :=
  if lost then s.defer s.curCore s.curSlot 0x1E va else s

/-- Bytes of one access stored at a checked target by an instruction of `len` bytes (R147). -/
def State.storeAt (s : State) (len : Nat) (va : Dword) (bs : List Byte) (full : Option (BitVec 2)) : Target → State
  | .self p =>
    let r := s.put p bs
    let s1 := match full with
      | some sc => r.1.fillWord p sc
      | none => r.1
    (s1.deferIf r.2 va).finish len
  | .cached v i => (s.storeCached s.acc s.curSlot v i bs).finish len
  | .store c p => s.postOne len (.core c) va (writeOp p bs full)
  | .uncached st v i =>
    match s.translate s.me.who v i.place with
    | (s1, .ok p) => s1.postOne len (.hbm st) va (writeOp p.1 bs full)
    | (s1, .error c) => (s1.log c s.curCore s.curSlot.val va).finish len
  | .control v => s.postOne len .control va (writeOp v bs full)

/-- A scalar store of the low `n` bytes of `x` (R149). -/
def State.storeScalar (s : State) (len n : Nat) (va x : Dword) : State :=
  match s.check s.acc .write n va with
  | .error e => s.stop e
  | .ok t => (s.plbTouch s.acc va.toNat).storeAt len va (bytesOf n x.toNat) none t

/-! ### Vector accesses -/

/-- Width in bits of a vector element (R151). -/
def elemBits (sz : BitVec 2) : Nat := 8 * 2 ^ sz.toNat

/-- The enabled elements of a vector access, each with its address (R151, R152). -/
def State.elements (s : State) (km : BitVec 3) (w : Nat) (addr : Nat → Dword) : List (Nat × Dword) :=
  ((List.range (512 / w)).filter (fun i => (s.getK km).getLsbD i)).map (fun i => (i, addr i))

/-- A vector load (R151, R152). -/
def State.vectorLoad (s : State) (d : BitVec 4) (km : BitVec 3) (w : Nat) (addr : Nat → Dword) : State :=
  s.load 4 (w / 8) .load (.vec d w) none (s.elements km w addr)

/-- The part of a vector store that falls in one line: where the line's first byte is, the bytes written, their values. -/
structure LinePart where
  va : Nat
  /-- Address of the lowest lane that stores to the part. -/
  first : Dword
  target : Target
  mask : BitVec 64
  data : VReg
  deriving DecidableEq, Repr

/-- The bytes of a line that a part does not touch stay; later elements overwrite earlier ones (R151). -/
def LinePart.add (p : LinePart) (o : Nat) (bs : List Byte) : LinePart :=
  let m := byteMask o bs.length
  { p with mask := p.mask ||| m, data := overlay p.data m (lineOfBytes o bs) }

/-- A target moved back by `o` bytes to the start of its line. -/
def Target.back (t : Target) (o : Nat) : Target :=
  match t with
  | .self p => .self (p - o)
  | .store c p => .store c (p - o)
  | .cached v i => .cached (v - o) i
  | .uncached st v i => .uncached st (v - o) i
  | .control v => .control (v - o)

/-- The part of a line that an element begins. -/
def LinePart.new (e : Nat × Dword × Target) : LinePart :=
  { va := lineBase e.2.1.toNat, first := e.2.1, target := e.2.2.back (e.2.1.toNat % 64), mask := 0, data := 0 }

/-- The lines of a vector store in the order of the lowest lane that uses them (R151). -/
def linesOfStore (w : Nat) (v : VReg) (ts : List (Nat × Dword × Target)) : List LinePart :=
  ts.foldl (fun ls e =>
    let va := e.2.1.toNat
    let bs := bytesOf (w / 8) (lane w e.1 v)
    if ls.any (fun p => p.va == lineBase va) then
      ls.map (fun p => if p.va == lineBase va then p.add (va % 64) bs else p)
    else ls ++ [(LinePart.new e).add (va % 64) bs]) []

/-- The lines of a scatter in ascending lane order: lanes that follow each other on one line are one part, so that a
line may be written more than once (R152; DEDUCED, log 53: R134 has the bytes of a line served in one access, and R152's order
of lanes is the stronger sentence for VSCT). -/
def linesOfScatter (w : Nat) (v : VReg) (ts : List (Nat × Dword × Target)) : List LinePart :=
  ts.foldl (fun ls e =>
    let va := e.2.1.toNat
    let bs := bytesOf (w / 8) (lane w e.1 v)
    match ls.getLast? with
    | some p =>
      if p.va == lineBase va then ls.dropLast ++ [p.add (va % 64) bs] else ls ++ [(LinePart.new e).add (va % 64) bs]
    | none => [(LinePart.new e).add (va % 64) bs]) []

/-- A line of a vector store performed at once, or the request that it sends out of the core (R147, R152). Where bytes of the
line are discarded, the address reported is that of the lowest lane that stores to the part (R159; DESIGN CHOICE, log 48: the
spec says "the store's address" and a vector store has one for each lane). -/
def State.storePart (s : State) (p : LinePart) : State × Option RemoteReq :=
  let va := p.first
  let req := fun (node : Node) (addr : Nat) =>
    ({ core := s.curCore, slot := s.curSlot, part := s.me.st.partition, node := node, va := va,
       op := .write addr p.mask p.data none } : RemoteReq)
  match p.target with
  | .self a =>
    let r := s.storeMasked a p.mask p.data
    (r.1.deferIf r.2 va, none)
  | .cached v i => (s.storeMaskedCached s.acc s.curSlot v i p.mask p.data va, none)
  | .store c a => (s, some (req (.core c) a))
  | .uncached st v i =>
    match s.translate s.me.who v i.place with
    | (s1, .ok q) => (s1, some (req (.hbm st) q.1))
    | (s1, .error c) => (s1.log c s.curCore s.curSlot.val va, none)
  | .control v => (s, some (req .control v))

/-- Lines sent in order while fewer than 32 writes are outstanding; answers those still to be sent (R152). -/
def State.sendLines (s : State) (n : Nat) (i : SlotNo) : List RemoteReq → State × List RemoteReq
  | [] => (s, [])
  | r :: rest =>
    if writeLimit ≤ (s.slot n i).outstanding then (s, r :: rest)
    else
      let s1 := s.send (some (false, n, s.pathNode r.node)) .remoteRequest (.remote r)
      (s1.modSlot n i (fun sl => { sl with outstanding := sl.outstanding + 1 })).sendLines n i rest

/-- A vector store: every check first, then line by line, the lines as `split` orders them; the slot waits while lines remain
(R151, R152). -/
def State.vectorStore (s : State) (split : Nat → VReg → List (Nat × Dword × Target) → List LinePart) (d : BitVec 4)
    (km : BitVec 3) (w : Nat) (addr : Nat → Dword) : State :=
  let elems := s.elements km w addr
  match s.checkAll s.acc .write (w / 8) elems with
  | .error e => s.stop e
  | .ok ts =>
    let s0 := s.touchAll s.acc (elems.map Prod.snd)
    let r := (split w (s.getV d) ts).foldl (fun acc p =>
      let q := acc.1.storePart p
      (q.1, acc.2 ++ q.2.toList)) (s0, ([] : List RemoteReq))
    let q := r.1.sendLines s.curCore s.curSlot r.2
    match q.2 with
    | [] => q.1.finish 4
    | rest => q.1.park (.lines rest)

end Sys2Proof.Machine
end

