-- ==== Sys2Proof/Machine/LoadStore.lean ====
section
/-!
DEFINITION. The memory instructions, majors 0x0C to 0x13: scalar and vector loads and stores (R149 to R152), full and empty
words (R153 to R156), LDAQ and STRL (R172, R173), fences (R175) and cache maintenance (R157).
-/
namespace Sys2Proof.Machine

/-! ### Scalar loads and stores (R149) -/

/-- The address a + sext(imm) (R149). -/
def State.disp (s : State) (a : BitVec 5) (imm : BitVec 12) : Dword := s.getG a + imm.signExtend 64

/-- LD.S8 (R149). -/
def execLdS8 (d a : BitVec 5) (imm : BitVec 12) (s : State) : Host.Outcome State Fault Refusal :=
  .next (s.loadScalar 4 1 true d (s.disp a imm))
/-- LD.N8 (R149). -/
def execLdN8 (d a : BitVec 5) (imm : BitVec 12) (s : State) : Host.Outcome State Fault Refusal :=
  .next (s.loadScalar 4 1 false d (s.disp a imm))
/-- LD.S16 (R149). -/
def execLdS16 (d a : BitVec 5) (imm : BitVec 12) (s : State) : Host.Outcome State Fault Refusal :=
  .next (s.loadScalar 4 2 true d (s.disp a imm))
/-- LD.N16 (R149). -/
def execLdN16 (d a : BitVec 5) (imm : BitVec 12) (s : State) : Host.Outcome State Fault Refusal :=
  .next (s.loadScalar 4 2 false d (s.disp a imm))
/-- LD.S32 (R149). -/
def execLdS32 (d a : BitVec 5) (imm : BitVec 12) (s : State) : Host.Outcome State Fault Refusal :=
  .next (s.loadScalar 4 4 true d (s.disp a imm))
/-- LD.N32 (R149). -/
def execLdN32 (d a : BitVec 5) (imm : BitVec 12) (s : State) : Host.Outcome State Fault Refusal :=
  .next (s.loadScalar 4 4 false d (s.disp a imm))
/-- LD.64 (R149). -/
def execLd64 (d a : BitVec 5) (imm : BitVec 12) (s : State) : Host.Outcome State Fault Refusal :=
  .next (s.loadScalar 4 8 false d (s.disp a imm))
/-- ST.8 (R149). -/
def execSt8 (b a : BitVec 5) (imm : BitVec 12) (s : State) : Host.Outcome State Fault Refusal :=
  .next (s.storeScalar 4 1 (s.disp a imm) (s.getG b))
/-- ST.16 (R149). -/
def execSt16 (b a : BitVec 5) (imm : BitVec 12) (s : State) : Host.Outcome State Fault Refusal :=
  .next (s.storeScalar 4 2 (s.disp a imm) (s.getG b))
/-- ST.32 (R149). -/
def execSt32 (b a : BitVec 5) (imm : BitVec 12) (s : State) : Host.Outcome State Fault Refusal :=
  .next (s.storeScalar 4 4 (s.disp a imm) (s.getG b))
/-- ST.64 (R149). -/
def execSt64 (b a : BitVec 5) (imm : BitVec 12) (s : State) : Host.Outcome State Fault Refusal :=
  .next (s.storeScalar 4 8 (s.disp a imm) (s.getG b))
/-- LDX: bits 0 and 1 of `sz` give the size, `gr` the signed bit (R150). -/
def execLdx (d a b : BitVec 5) (sz : BitVec 2) (gr : BitVec 1) (sh : BitVec 3) (s : State) :
    Host.Outcome State Fault Refusal :=
  .next (s.loadScalar 4 (2 ^ sz.toNat) (flagOf gr) d (s.getG a + (s.getG b <<< sh.toNat)))
/-- STX: the data register is d (R150). -/
def execStx (d a b : BitVec 5) (sz : BitVec 2) (sh : BitVec 3) (s : State) : Host.Outcome State Fault Refusal :=
  .next (s.storeScalar 4 (2 ^ sz.toNat) (s.getG a + (s.getG b <<< sh.toNat)) (s.getG d))

/-! ### Vector loads and stores (R151, R152) -/

/-- Address of element `i` of a contiguous vector access; the offset counts lines (R151). -/
def State.contiguous (s : State) (a : BitVec 5) (off : BitVec 9) (w i : Nat) : Dword :=
  s.getG a + (off.signExtend 64 <<< 6) + BitVec.ofNat 64 (i * (w / 8))

/-- Address of element `i` of a gather or scatter: the index lane is signed (R152). -/
def State.indexed (s : State) (a : BitVec 5) (b : BitVec 4) (sh : BitVec 2) (w i : Nat) : Dword :=
  s.getG a + (BitVec.ofInt 64 (intOf true w (lane w i (s.getV b))) <<< sh.toNat)

/-- VLD (R151). -/
def execVld (d : BitVec 4) (a : BitVec 5) (km : BitVec 3) (sz : BitVec 2) (off : BitVec 9) (s : State) :
    Host.Outcome State Fault Refusal :=
  .next (s.vectorLoad d km (elemBits sz) (s.contiguous a off (elemBits sz)))
/-- VST (R151). -/
def execVst (d : BitVec 4) (a : BitVec 5) (km : BitVec 3) (sz : BitVec 2) (off : BitVec 9) (s : State) :
    Host.Outcome State Fault Refusal :=
  .next (s.vectorStore linesOfStore d km (elemBits sz) (s.contiguous a off (elemBits sz)))
/-- VLDS (R151). -/
def execVlds (d : BitVec 4) (a : BitVec 5) (km : BitVec 3) (sz : BitVec 2) (b : BitVec 5) (s : State) :
    Host.Outcome State Fault Refusal :=
  .next (s.vectorLoad d km (elemBits sz) (fun i => s.getG a + BitVec.ofNat 64 i * s.getG b))
/-- VSTS (R151). -/
def execVsts (d : BitVec 4) (a : BitVec 5) (km : BitVec 3) (sz : BitVec 2) (b : BitVec 5) (s : State) :
    Host.Outcome State Fault Refusal :=
  .next (s.vectorStore linesOfStore d km (elemBits sz) (fun i => s.getG a + BitVec.ofNat 64 i * s.getG b))
/-- VGTH (R152). -/
def execVgth (d : BitVec 4) (a : BitVec 5) (b : BitVec 4) (km : BitVec 3) (sz sh : BitVec 2) (s : State) :
    Host.Outcome State Fault Refusal :=
  .next (s.vectorLoad d km (elemBits sz) (s.indexed a b sh (elemBits sz)))
/-- VSCT (R152). -/
def execVsct (d : BitVec 4) (a : BitVec 5) (b : BitVec 4) (km : BitVec 3) (sz sh : BitVec 2) (s : State) :
    Host.Outcome State Fault Refusal :=
  .next (s.vectorStore linesOfScatter d km (elemBits sz) (s.indexed a b sh (elemBits sz)))

/-! ### Full and empty words (R155, R156) -/

/-- LDF and LDF.C: the word read if it is full, otherwise the slot waits at the word's home (R155, R156). -/
def State.loadFull (s : State) (d : BitVec 5) (va : Dword) (clear : Bool) : State :=
  match s.check s.acc (if clear then .feTake else .feRead) 8 va with
  | .error e => s.stop e
  | .ok (.self p) =>
    if s.isFull p then
      match s.badIn p 8 with
      | some b => s.fault 0x1E (va + BitVec.ofNat 64 (b - p))
      | none =>
        let s0 := s.countSoft p 8
        let s1 := if clear then s0.setEmpty p else s0
        (s1.write 4 d (BitVec.ofNat 64 (s.peek p 8))).acquire (acquireScope (s.scopeAt p))
    else
      let w : FillWait := { word := p, core := s.curCore, slot := s.curSlot, va := va, clear := clear, own := true }
      (s.modHere (fun c => { c with waits := c.waits ++ [w] })).park (.fill p d clear)
  | .ok (.store c p) =>
    let r : PendingLoad := { dest := .word d, got := [], remaining := 1, bad := none, acquire := none }
    ((s.plbTouch s.acc va.toNat).park (.reply r)).request (.core c) va (.feRead p clear)
  | .ok _ => s.fault 0x17 va

/-- The scope of STF's release and of the word it fills: the distance to the word's home (R153, R155). -/
def State.homeDistance (s : State) : Target → BitVec 2
  | .store c _ => s.distance s.curCore c
  | _ => 0

/-- LDF (R155). -/
def execLdf (d a : BitVec 5) (imm : BitVec 12) (s : State) : Host.Outcome State Fault Refusal :=
  .next (s.loadFull d (s.disp a imm) false)
/-- LDF.C (R155). -/
def execLdfC (d a : BitVec 5) (imm : BitVec 12) (s : State) : Host.Outcome State Fault Refusal :=
  .next (s.loadFull d (s.disp a imm) true)
/-- STF: a release at the distance scope, then the word written and full at that scope (R155). -/
def execStf (b a : BitVec 5) (imm : BitVec 12) (s : State) : Host.Outcome State Fault Refusal :=
  let va := s.disp a imm
  match s.check s.acc .feWrite 8 va with
  | .error e => .next (s.stop e)
  | .ok t =>
    let sc := s.homeDistance t
    .next ((s.plbTouch s.acc va.toNat).release (acquireScope sc) (fun s1 =>
      s1.storeAt 4 va (bytesOf 8 (s.getG b).toNat) (some sc) t))

/-- The home core of a full/empty target, and its address. -/
def Target.word (t : Target) (own : Nat) : Nat × Nat :=
  match t with
  | .self p => (own, p)
  | .store c p => (c, p)
  | _ => (own, 0)

/-- The further words of a FECLR through a page, each checked: the addresses, or the stop at the first word that fails; a word
of another core's share is outside the share (R155). -/
def State.clearPaged (s : State) (va : Dword) (home : Nat) : Nat → Nat → Except Stop (List Nat)
  | 0, _ => .ok []
  | m + 1, k =>
    let w := va + BitVec.ofNat 64 (8 * k)
    match s.resolve s.acc .feWrite 8 w with
    | .error e => .error e
    | .ok t =>
      if (t.word s.curCore).1 ≠ home then .error (.fault 0x14 w)
      else
        match s.clearPaged va home m (k + 1) with
        | .error e => .error e
        | .ok ts => .ok ((t.word s.curCore).2 :: ts)

/-- The words of a FECLR of `n` bytes from `va`, checked, all in one share: their home and addresses, or the stop at the first
word that fails (R155). In a window the share's end bounds them. -/
def State.clearRange (s : State) (va : Dword) (n : Nat) : Except Stop (Nat × List Nat) :=
  match s.resolve s.acc .feWrite 8 va with
  | .error e => .error e
  | .ok t =>
    let home := (t.word s.curCore).1
    if va.toNat < 2 ^ 48 then
      let off := va.toNat % 2 ^ 21
      let size := s.shareSize home s.me.who
      if size < off + n then .error (.fault 0x14 (va + BitVec.ofNat 64 (size - off)))
      else
        let ws := (List.range (n / 8)).map (fun k => s.sharePhys home s.me.who (off + 8 * k))
        let at_ := fun (k : Nat) => va.toNat + 8 * k
        let posted := fun (w : Nat × Nat) => s.ownPosted home s.curSlot true (some w.1) (at_ w.2) 8
        if t.isSelf then
          match s.bankReady home s.me.who off n, ws.zipIdx.find? posted with
          | .error e, _ => .error e
          | _, some w => .error (.wait (.ordered true (some w.1) (at_ w.2) 8))
          | _, none => .ok (home, ws)
        else .ok (home, ws)
    else
      match s.clearPaged va home (n / 8) 0 with
      | .error e => .error e
      | .ok ws => .ok (home, ws)

/-- Words emptied at their home, their scope zero; the mirror flags follow (R153, R155, R367). -/
def State.clearWords (s : State) (n : Nat) (ws : List Nat) : State :=
  ws.foldl (fun t w => (t.clearWord w).markDirty n w) s

/-- FECLR (R155): a local range of at most 64 bytes at once; a longer or remote one until the home reports. -/
def execFeclr (b a : BitVec 5) (s : State) : Host.Outcome State Fault Refusal :=
  let va := s.getG a
  let n := (s.getG b).toNat
  if va.toNat % 8 ≠ 0 ∨ n % 8 ≠ 0 then .next (s.fault 0x03 va)
  else if n = 0 then .next (s.finish 4)
  else
    match s.clearRange va n with
    | .error e => .next (s.stop e)
    | .ok (home, ws) =>
      let s := s.plbTouch s.acc va.toNat
      if va.toNat < 0x200000 then
        let s1 := s.clearWords s.curCore ws
        if n ≤ 64 then .next (s1.finish 4)
        else .next ((s1.park .feclr).send none .feclrComplete (.slot s.curCore s.curSlot))
      else .next ((s.park .feclr).request (.core home) va (.feClear ws))

/-! ### LDAQ, STRL and fences (R173, R175) -/

/-- Bytes of a size bit: 4 or 8 (R172). -/
def sizeOf1 (sz : BitVec 1) : Nat := if sz = 0 then 4 else 8

/-- The address of LDAQ and STRL: the offset scaled by the access size (R172). -/
def State.scaled (s : State) (a : BitVec 5) (sz : BitVec 1) (off : BitVec 10) : Dword :=
  s.getG a + off.signExtend 64 * BitVec.ofNat 64 (sizeOf1 sz)

/-- LDAQ: stale copies dropped, the merged read, the acquire (R173). -/
def execLdaq (d a : BitVec 5) (sc : BitVec 3) (sz : BitVec 1) (off : BitVec 10) (s : State) :
    Host.Outcome State Fault Refusal :=
  let n := sizeOf1 sz
  let va := s.scaled a sz off
  let k : AccKind := if sc.toNat < 2 then .load else .read
  match s.check s.acc k n va with
  | .error e => .next (s.stop e)
  | .ok (.cached v _) =>
    .next ((s.dropBelow s.curCore v sc).load 4 n k (.gpr d n false) (some sc) [(0, va)])
  | .ok _ => .next (s.load 4 n k (.gpr d n false) (some sc) [(0, va)])

/-- STRL: the release, then the write carried to the scope's point of coherence (R173). -/
def execStrl (d a : BitVec 5) (sc : BitVec 3) (sz : BitVec 1) (off : BitVec 10) (s : State) :
    Host.Outcome State Fault Refusal :=
  let n := sizeOf1 sz
  let va := s.scaled a sz off
  let bs := bytesOf n (s.getG d).toNat
  match s.check s.acc .write n va with
  | .error e => .next (s.stop e)
  | .ok t =>
    .next ((s.plbTouch s.acc va.toNat).release sc (fun s1 =>
      match t with
      | .cached v i =>
        if sc.toNat < 2 then s1.storeAt 4 va bs none t
        else if sc.toNat = 2 ∧ s.isGrid s.curCore then (s1.writeChip s1.acc v i bs).finish 4
        else
          let r := s1.writeLlc s1.acc v i bs
          let s2 := match r.2 with
            | some 0x1E => r.1.defer s.curCore s.curSlot 0x1E va
            | some c => r.1.log c s.curCore s.curSlot.val va
            | none => r.1
          s2.finish 4
      | t => s1.storeAt 4 va bs none t))

/-- FENCE: a release and an acquire (R175). -/
def execFence (sc : BitVec 3) (s : State) : Host.Outcome State Fault Refusal :=
  .next (s.release sc (fun s1 => (s1.acquire sc).finish 4))
/-- FENCE.acq (R175). -/
def execFenceAcq (sc : BitVec 3) (s : State) : Host.Outcome State Fault Refusal := .next ((s.acquire sc).finish 4)
/-- FENCE.rel (R175). -/
def execFenceRel (sc : BitVec 3) (s : State) : Host.Outcome State Fault Refusal :=
  .next (s.release sc (fun s1 => s1.finish 4))

/-! ### Cache maintenance (R157) -/

/-- PREF's effect on a paged line whose page may be read: the line in the chiplet cache, and for the near level in the near
cache, where a copy that is already there stays (R167); nothing where the translation fails. -/
def State.prefetch (s : State) (level : BitVec 2) (va : Nat) (i : PageInfo) : State :=
  let a := s.acc
  match s.translate a.who va i.place with
  | (s1, .error _) => s1
  | (s1, .ok _) =>
    if level.toNat = 2 ∨ !s.isGrid a.core then s1
    else
      let r := (s1.fetchLine a va i 0 0).1
      if level = 0 ∧ !s1.here.near.any (fun l => l.va == va) then r else r.modHere (fun c => { c with near := s1.here.near })

/-- PREF: never faults; dropped where the address is not paged, not mapped or denied, and for HOME 01 and 10 (R157). -/
def execPref (ln : BitVec 2) (a : BitVec 5) (imm : BitVec 12) (s : State) : Host.Outcome State Fault Refusal :=
  let va := (s.disp a imm).toNat
  let s1 :=
    if 2 ^ 48 ≤ va ∧ va < 2 ^ 56 then
      match s.page s.acc va with
      | .error _ => s
      | .ok (_, i) =>
        let s := s.plbUse s.acc va
        if accessAllowed s.acc .read i va then
          match i.place with
          | .hbm _ => s.prefetch ln (lineBase va) i
          | .pinned _ => s.prefetch ln (lineBase va) i
          | _ => s
        else s
    else s
  .next (s1.finish 4)

/-- The check of NCINV and CINV: the line's address where it is a cached page's; nothing to do where the address is not
paged or the page is not present; a page that the PLB lacks is walked for (R142, R157). -/
def State.lineToDrop (s : State) (va : Dword) : Except Stop (Option Nat) :=
  if 2 ^ 48 ≤ va.toNat ∧ va.toNat < 2 ^ 56 ∧ (s.plbFind s.acc va.toNat).isNone then
    match s.walk s.acc.who va.toNat with
    | .error c => if c = 0x11 then .ok none else .error (.fault c va)
    | .ok _ => .error (.wait (.walk va))
  else
    match s.locate s.acc .read 1 va with
    | .error e => .error e
    | .ok (.cached v _) => .ok (some (lineBase v))
    | .ok _ => .ok none

/-- NCINV: buffered stores to the line drain first (R157, R165). -/
def execNcinv (a : BitVec 5) (imm : BitVec 12) (s : State) : Host.Outcome State Fault Refusal :=
  let va := s.disp a imm
  match s.lineToDrop va with
  | .error e => .next (s.stop e)
  | .ok none => .next ((s.plbTouch s.acc va.toNat).finish 4)
  | .ok (some l) =>
    let s := s.plbTouch s.acc va.toNat
    .next ((if s.isGrid s.curCore then (s.drainLine s.curCore l).dropNear s.curCore l else s).finish 4)

/-- CINV: the slot has left the rotation until the LLC acknowledges (R157). -/
def execCinv (a : BitVec 5) (imm : BitVec 12) (s : State) : Host.Outcome State Fault Refusal :=
  let va := s.disp a imm
  match s.lineToDrop va with
  | .error e => .next (s.stop e)
  | .ok none => .next ((s.plbTouch s.acc va.toNat).finish 4)
  | .ok (some l) => .next ((((s.plbTouch s.acc va.toNat).purgeLine s.curCore l).finish 4).leave)

/-! ### Steps of the memory system -/

/-- The reply to a request. -/
def answerTo (r : RemoteReq) (got : List (Nat × Dword)) (sc : BitVec 2) : RemoteReply :=
  { core := r.core, slot := r.slot, elem := 0, got := got, scope := sc, va := r.va, bad := false }

/-- A request of a slot with its data on the way back (R147). -/
def State.reply (s : State) (r : RemoteReq) (got : List (Nat × Dword)) (sc : BitVec 2) : State :=
  s.send (some (false, s.pathNode r.node, r.core)) .remoteReply (.reply (answerTo r got sc))

/-- A request that met uncorrectable data, with the element and the byte's address on the way back (R159). -/
def State.replyBad (s : State) (r : RemoteReq) (elem : Nat) (va : Dword) : State :=
  s.send (some (false, s.pathNode r.node, r.core)) .remoteReply
    (.reply { answerTo r [] 0 with elem := elem, va := va, bad := true })

/-- The bytes of each dword of a line that a mask touches, from its first to its last byte, as stores to the panel control
space. -/
def controlStores (addr : Nat) (mask : BitVec 64) (data : VReg) : List (Nat × List Byte) :=
  (List.range 8).filterMap (fun w =>
    let bits := (List.range 8).filter (fun k => mask.getLsbD (8 * w + k))
    match bits.head?, bits.getLast? with
    | some lo, some hi => some (addr + 8 * w + lo, bytesOf (hi + 1 - lo) (lineField data (8 * w + lo) (hi + 1 - lo)))
    | _, _ => none)

/-- The core that a request goes to, if it is isolated (R380). -/
def State.isolatedHome (s : State) (r : RemoteReq) : Option Nat :=
  match r.node with
  | .core n => if (s.core n).isolated then some n else none
  | _ => none

/-- A request at an isolated core: a store is discarded and acknowledged, another request waits for the restore, or faults
0x30 where its job ends instead (R380). -/
def State.atIsolated (s : State) (r : RemoteReq) (n : Nat) : State :=
  match r.op with
  | .write _ _ _ _ => s.send none .writeAck (.ack r.core r.slot none)
  | _ =>
    if s.unanswered n r.core r.slot then s.send (some (false, r.core, n)) .remoteRequest (.remote r)
    else
      match (s.slot r.core r.slot).wait? with
      | some (.reply _) => s.answerFault r.core r.slot 0x30 r.va
      | some .feclr => s.answerFault r.core r.slot 0x30 r.va
      | _ => s

/-- REMOTE_REQUEST: the access is performed at its home and answered (R135, R147, R155, R185). A refused full/empty read
goes back to its requester (R156). -/
def execRemoteRequest (s : State) : Host.Outcome State Fault Refusal :=
  match s.arg with
  | .remote r =>
    match s.isolatedHome r with
    | some n => .next (s.atIsolated r n)
    | none =>
    match r.op with
    | .read elems n =>
      if r.node = .control then .next (s.reply r (elems.map (fun e => (e.1, s.controlRead e.2 n))) 0)
      else
        match elems.findSome? (fun e => (s.badIn e.2 n).map (fun b => (e.1, b))) with
        | some (k, b) =>
          .next (s.replyBad r k (r.va + BitVec.ofNat 64 b - BitVec.ofNat 64 ((elems.headD (0, 0)).2)))
        | none =>
          .next ((elems.foldl (fun t e => t.countSoft e.2 n) s).reply r
            (elems.map (fun e => (e.1, BitVec.ofNat 64 (s.peek e.2 n)))) 0)
    | .write addr mask data full =>
      if r.node = .control then
        .next (s.controlSteps r.core (controlStores addr mask data) [(.writeAck, .ack r.core r.slot none)])
      else
        let q := s.storeMasked addr mask data
        let s1 := match full with
          | some sc => q.1.fillWord (addr + trailing mask) sc
          | none => q.1
        .next (s1.send none .writeAck (.ack r.core r.slot (if q.2 then some (0x1E, r.va) else none)))
    | .amo op addr n x e =>
      if r.node = .control then
        let old := (s.controlRead addr n).toNat
        let ws := match amoResult op n old (x.toNat % 2 ^ (8 * n)) (e.toNat % 2 ^ (8 * n)) with
          | some v => [(addr, bytesOf n v)]
          | none => []
        .next (s.controlSteps r.core ws [(.remoteReply, .reply (answerTo r [(0, BitVec.ofNat 64 old)] 0))])
      else
      match s.atomicAt addr n op x.toNat e.toNat with
      | (s1, .ok old) => .next ((s1.forget r.core r.va.toNat r.node).reply r [(0, BitVec.ofNat 64 old)] 0)
      | (s1, .error b) => .next (s1.replyBad r 0 (r.va + BitVec.ofNat 64 (b - addr)))
    | .feRead addr clear =>
      let home := localCore addr
      if s.isFull addr then
        let v := BitVec.ofNat 64 (s.peek addr 8)
        if (s.badIn addr 8).isSome then .next (s.replyBad r 0 r.va)
        else .next ((if clear then (s.countSoft addr 8).setEmpty addr else s.countSoft addr 8).reply r [(0, v)] (s.scopeAt addr))
      else if r.core ≠ home ∧ 48 ≤ ((s.core home).waits.filter (fun w => w.core != home)).length then
        .next (s.send none .waitTableRefusal (.remoteAt r (s.ptime + 128)))
      else
        let w : FillWait := { word := addr, core := r.core, slot := r.slot, va := r.va, clear := clear, own := false }
        .next (s.modCore home (fun c => { c with waits := c.waits ++ [w] }))
    | .feClear ws =>
      let home := localCore (ws.headD 0)
      .next ((s.clearWords home ws).send none .feclrComplete (.slot r.core r.slot))
  | _ => .next s
where
  /-- Place of the lowest byte of a mask. -/
  trailing (m : BitVec 64) : Nat := ((List.range 64).find? (fun i => m.getLsbD i)).getD 0

/-- A reply taken up by a waiting read (R147, R159). -/
def PendingLoad.take (p : PendingLoad) (r : RemoteReply) : PendingLoad :=
  { p with
    got := p.got ++ r.got
    remaining := p.remaining - 1
    bad := if r.bad then
        (match p.bad with
          | some b => if b.1 ≤ r.elem then some b else some (r.elem, r.va)
          | none => some (r.elem, r.va))
      else p.bad }

/-- REMOTE_REPLY: the last reply completes the read, or faults 0x1E with nothing written; a full/empty read acquires at the
word's scope (R147, R155, R159). -/
def execRemoteReply (s : State) : Host.Outcome State Fault Refusal :=
  match s.arg with
  | .reply r =>
    match (s.slot r.core r.slot).wait? with
    | some (.reply p) =>
      let q := p.take r
      if 0 < q.remaining then .next (s.parkSlot r.core r.slot (.reply q))
      else
        match q.bad with
        | some b => .next (s.answerFault r.core r.slot 0x1E b.2)
        | none =>
          let s1 := s.modSlot r.core r.slot (fun sl =>
            { (sl.writeDest q.dest q.got).finish with run := .waiting .rejoin })
          let sc := match q.dest, q.acquire with
            | .word _, _ => acquireScope r.scope
            | _, some a => a
            | _, none => 0
          .next (s1.acquireOn r.core sc)
    | _ => .next s
  | _ => .next s

/-- WRITE_ACK: an outstanding write is acknowledged, its error kept for later; the rest of a vector store goes on, a store
held at the limit meets a deferred fault (R147, R152, R159). -/
def execWriteAck (s : State) : Host.Outcome State Fault Refusal :=
  match s.arg with
  | .ack n i bad =>
    if n = nobody then .next s
    else
    let s0 := s.modSlot n i (fun sl => { sl with outstanding := sl.outstanding - 1 })
    let s1 := match bad with
      | some b => s0.defer n i b.1 b.2
      | none => s0
    match (s1.slot n i).wait? with
    | some (.lines rest) =>
      let q := s1.sendLines n i rest
      match q.2 with
      | [] => .next (q.1.completeSlot n i)
      | left => .next (q.1.parkSlot n i (.lines left))
    | some .room =>
      match (s1.slot n i).deferred with
      | some d =>
        .next ((s1.modSlot n i (fun sl => { sl with deferred := none })).answerFault n i d.1 d.2)
      | none => .next s1
    | _ => .next s1
  | _ => .next s

/-- A slot whose condition is met issues its instruction again (R27). -/
def State.again (s : State) (n : Nat) (i : SlotNo) : State := s.parkSlot n i .rejoin

/-- PLB_WALK: the leaf fills the PLB, or the walk's fault is raised in the waiting slot (R142). -/
def execPlbWalk (s : State) : Host.Outcome State Fault Refusal :=
  match s.arg with
  | .slotAddr n i va =>
    match (s.slot n i).wait? with
    | some (.walk v) =>
      if v ≠ va then .next s
      else
        match s.walk (s.slot n i).who va.toNat with
        | .error c => .next (s.answerFault n i c va)
        | .ok _ => .next ((s.plbFill (s.accOf n i) va.toNat).again n i)
    | _ => .next s
  | _ => .next s

/-- A name-table walk for a core: the entry enters its name cache, which keeps 64, those walked for last (R16, R135, R217;
DEDUCED, log 29: the spec gives no replacement). -/
def State.fillName (s : State) (a : Acc) (t : Nat) : State :=
  s.modCore a.core (fun c => { c with names := ((a.part, t) :: c.names.filter (fun x => x != (a.part, t))).take 64 })

/-- NAME_TABLE_WALK: the name enters the cache, or the slot faults 0x30 (R135). -/
def execNameTableWalk (s : State) : Host.Outcome State Fault Refusal :=
  match s.arg with
  | .slotTarget n i t =>
    match (s.slot n i).wait? with
    | some (.nameWalk t' va) =>
      if t' ≠ t then .next s
      else if s.nameKnown (s.slot n i).who t then .next ((s.fillName (s.accOf n i) t).again n i)
      else .next (s.answerFault n i 0x30 va)
    | _ => .next s
  | _ => .next s

/-- A slot that waits for a translation: it issues again once the unit holds it, or takes the fault of the walk (R143). -/
def State.translateFor (s : State) (n : Nat) (i : SlotNo) (va : Nat) : State :=
  let a := s.accOf n i
  match s.plbFind a va with
  | none => s.again n i
  | some e =>
    match s.translate a.who va e.info.place with
    | (s1, .ok _) => s1.again n i
    | (s1, .error c) => s1.answerFault n i c (BitVec.ofNat 64 va)

/-- Slots that wait for the translation of an address for a requester. -/
def State.translators (s : State) (p : Option (BitVec 6)) (va : Dword) : List (Nat × SlotNo) :=
  s.cores.flatMap (fun e => ((List.finRange 16).filter (fun i =>
    (e.2.slot i).who == p && (e.2.slot i).wait? == some (.translation va))).map (fun i => (e.1, i)))

/-- TRANSLATION_WALK: a unit's own walk ends (R143). -/
def execTranslationWalk (s : State) : Host.Outcome State Fault Refusal :=
  match s.arg with
  | .translation _ p va => .next ((s.translators p va).foldl (fun t x => t.translateFor x.1 x.2 va.toNat) s)
  | _ => .next s

/-- WRITE_THROUGH_DRAIN: the oldest entry of a core's buffer reaches the chiplet cache (R147, R165). -/
def execWriteThroughDrain (s : State) : Host.Outcome State Fault Refusal :=
  match s.arg with
  | .core n => .next (s.drainOldest n)
  | _ => .next s

/-- WAIT_TABLE_REFUSAL: after 256 mesh cycles, at 2.00 GHz 128 ns, the refused full/empty read is sent again (R156, R504). A
slot that has withdrawn its request sends nothing. -/
def execWaitTableRefusal (s : State) : Host.Outcome State Fault Refusal :=
  match s.arg with
  | .remoteAt r _ =>
    match (s.slot r.core r.slot).wait? with
    | some (.reply _) => .next (s.send (some (false, r.core, s.pathNode r.node)) .remoteRequest (.remote r))
    | _ => .next s
  | _ => .next s

/-- FECLR_COMPLETE: the home reports, and the slot goes on (R155). -/
def execFeclrComplete (s : State) : Host.Outcome State Fault Refusal :=
  match s.arg with
  | .slot n i =>
    match (s.slot n i).wait? with
    | some .feclr => .next (s.completeSlot n i)
    | _ => .next s
  | _ => .next s

end Sys2Proof.Machine
end

