-- ==== Sys2Proof/Machine/Sync.lean ====
section
/-!
DEFINITION. Atomics, monitors, and the barriers and counters of a core, majors 0x14 to 0x17 but GBAR (R185 to R207), with
the steps that end their waits.
-/
namespace Sys2Proof.Machine

/-! ### Atomics (R185 to R197) -/

/-- Whether a paged target's frame lies in host memory (R185, R449). -/
def State.hostFrame (s : State) (a : Acc) : Target → Bool
  | .cached v i => hosted v i
  | .uncached _ v i => hosted v i
  | _ => false
where
  /-- The frame of a page lies in host memory. -/
  hosted (v : Nat) (i : PageInfo) : Bool :=
    match s.translateWalk a.who v i.place with
    | .ok x => x.host
    | .error _ => false

/-- Whether a target's page allows system-wide atomics (R137). -/
def Target.sa : Target → Bool
  | .cached _ i => i.sa
  | .uncached _ _ i => i.sa
  | _ => false

/-- Whether an operation is one that a host performs (R194). -/
def hostOp : AmoOp → Bool
  | .add | .swap | .cas => true
  | _ => false

/-- Whether a target's home is core `n`'s own local store (R196). -/
def Target.ownStore (t : Target) (n : Nat) : Bool :=
  match t with
  | .self _ => true
  | .store c _ => c == n
  | _ => false

/-- The checks of an AMO or RED in order: R146, R194, R196 (R197). -/
def State.atomicTarget (s : State) (op : AmoOp) (n : Nat) (va : Dword) : Except Stop Target :=
  match s.check s.acc .both n va with
  | .error e => .error e
  | .ok t =>
    if s.hostFrame s.acc t && !(t.sa && hostOp op) then .error (.fault 0x22 va)
    else if s.recoverable && !t.ownStore s.curCore then .error (.fault 0x73 va)
    else .ok t

/-- The issuing core's copies of a cached line leave before an atomic acts at the LLC (R185). -/
def State.purgeFor (s : State) : Target → State
  | .cached v _ => s.purgeLine s.curCore (lineBase v)
  | _ => s

/-- The home of a word and its address there, once its page's translation is known (R185). -/
def State.atomicHome (s : State) (a : Acc) (va : Dword) : Target → Except Stop (Node × Nat)
  | .self p => .ok (.core a.core, p)
  | .store c p => .ok (.core c, p)
  | .control v => .ok (.control, v)
  | .cached v i => home v i
  | .uncached _ v i => home v i
where
  /-- The slice or controller of a page's edge. -/
  home (v : Nat) (i : PageInfo) : Except Stop (Node × Nat) :=
    match s.xlateFind a.who v i.place.edge with
    | some x => .ok (.hbm i.place.edge, x.phys + (v - x.base))
    | none => .error (.wait (.translation va))

/-- An AMO past its release: performed in the own store at once, sent to its home, or handed to the host (R185, R187,
R194). -/
def State.amoAct (s : State) (op : AmoOp) (d : BitVec 5) (n : Nat) (va x e : Dword) (acq : Option (BitVec 3)) (t : Target)
    (home : Node × Nat) : State :=
  match t with
  | .self p =>
    match s.atomicAt p n op x.toNat e.toNat with
    | (_, .error b) => s.fault 0x1E (va + BitVec.ofNat 64 (b - p))
    | (s1, .ok old) =>
      let s2 := (s1.write 4 d (BitVec.ofNat 64 old)).slow
      match acq with
      | some sc => s2.acquire sc
      | none => s2
  | t =>
    let s1 := s.purgeFor t
    if s.hostFrame s.acc t then s1.park (.hostAtomic d n op home.2 va x e acq)
    else
      let p : PendingLoad := { dest := .gpr d n false, got := [], remaining := 1, bad := none, acquire := acq }
      (s1.park (.reply p)).request home.1 va (.amo op home.2 n x e)

/-- AMO: checks, release, the atomic at the home, acquire; `order` is 0 relaxed, 1 .acq, 2 .rel, 3 .ar (R186, R187). -/
def State.amo (s : State) (op : AmoOp) (d a b : BitVec 5) (n : Nat) (order : BitVec 2) (sc : BitVec 3) : State :=
  let va := s.getG a
  match s.atomicTarget op n va with
  | .error e => s.stop e
  | .ok t =>
    match s.atomicHome s.acc va t with
    | .error e => s.stop e
    | .ok home =>
      let acq := if order.getLsbD 0 then some sc else none
      let act := fun (s1 : State) => (s1.plbTouch s.acc va.toNat).amoAct op d n va (s.getG b) (s.getG d) acq t home
      if s.ownPosted s.curCore s.curSlot t.isSelf t.place va.toNat n then
        s.park (.ordered t.isSelf t.place va.toNat n)
      else if order.getLsbD 1 then s.release sc act else act s

/-- AMO.ADD (R187, R188). -/
def execAmoAdd (d a b : BitVec 5) (sz : BitVec 1) (off : BitVec 2) (sc : BitVec 3) (s : State) :
    Host.Outcome State Fault Refusal :=
  .next (s.amo .add d a b (sizeOf1 sz) off sc)
/-- AMO.AND (R187, R188). -/
def execAmoAnd (d a b : BitVec 5) (sz : BitVec 1) (off : BitVec 2) (sc : BitVec 3) (s : State) :
    Host.Outcome State Fault Refusal :=
  .next (s.amo .and d a b (sizeOf1 sz) off sc)
/-- AMO.OR (R187, R188). -/
def execAmoOr (d a b : BitVec 5) (sz : BitVec 1) (off : BitVec 2) (sc : BitVec 3) (s : State) :
    Host.Outcome State Fault Refusal :=
  .next (s.amo .or d a b (sizeOf1 sz) off sc)
/-- AMO.XOR (R187, R188). -/
def execAmoXor (d a b : BitVec 5) (sz : BitVec 1) (off : BitVec 2) (sc : BitVec 3) (s : State) :
    Host.Outcome State Fault Refusal :=
  .next (s.amo .xor d a b (sizeOf1 sz) off sc)
/-- AMO.MIN.S (R187, R188). -/
def execAmoMinS (d a b : BitVec 5) (sz : BitVec 1) (off : BitVec 2) (sc : BitVec 3) (s : State) :
    Host.Outcome State Fault Refusal :=
  .next (s.amo .minS d a b (sizeOf1 sz) off sc)
/-- AMO.MIN.N (R187, R188). -/
def execAmoMinN (d a b : BitVec 5) (sz : BitVec 1) (off : BitVec 2) (sc : BitVec 3) (s : State) :
    Host.Outcome State Fault Refusal :=
  .next (s.amo .minN d a b (sizeOf1 sz) off sc)
/-- AMO.MAX.S (R187, R188). -/
def execAmoMaxS (d a b : BitVec 5) (sz : BitVec 1) (off : BitVec 2) (sc : BitVec 3) (s : State) :
    Host.Outcome State Fault Refusal :=
  .next (s.amo .maxS d a b (sizeOf1 sz) off sc)
/-- AMO.MAX.N (R187, R188). -/
def execAmoMaxN (d a b : BitVec 5) (sz : BitVec 1) (off : BitVec 2) (sc : BitVec 3) (s : State) :
    Host.Outcome State Fault Refusal :=
  .next (s.amo .maxN d a b (sizeOf1 sz) off sc)
/-- AMO.SWAP (R187, R188). -/
def execAmoSwap (d a b : BitVec 5) (sz : BitVec 1) (off : BitVec 2) (sc : BitVec 3) (s : State) :
    Host.Outcome State Fault Refusal :=
  .next (s.amo .swap d a b (sizeOf1 sz) off sc)
/-- AMO.CAS (R187, R188). -/
def execAmoCas (d a b : BitVec 5) (sz : BitVec 1) (off : BitVec 2) (sc : BitVec 3) (s : State) :
    Host.Outcome State Fault Refusal :=
  .next (s.amo .cas d a b (sizeOf1 sz) off sc)
/-- AMO.FADD.F32 (R187, R189). -/
def execAmoFaddF32 (d a b : BitVec 5) (off : BitVec 2) (sc : BitVec 3) (s : State) : Host.Outcome State Fault Refusal :=
  .next (s.amo .faddF32 d a b 4 off sc)
/-- AMO.FADD.BF16X2 (R187, R189). -/
def execAmoFaddBf16x2 (d a b : BitVec 5) (off : BitVec 2) (sc : BitVec 3) (s : State) : Host.Outcome State Fault Refusal :=
  .next (s.amo .faddBf16x2 d a b 4 off sc)
/-- AMO.FMAX.F32 (R187, R189). -/
def execAmoFmaxF32 (d a b : BitVec 5) (off : BitVec 2) (sc : BitVec 3) (s : State) : Host.Outcome State Fault Refusal :=
  .next (s.amo .fmaxF32 d a b 4 off sc)

/-- RED: the checks and the release of an AMO; the word's home performs it later (R191). -/
def State.red (s : State) (op : AmoOp) (a b : BitVec 5) (n : Nat) (rel : Bool) (sc : BitVec 3) : State :=
  let va := s.getG a
  match s.atomicTarget op n va with
  | .error e => s.stop e
  | .ok t =>
    match s.atomicHome s.acc va t with
    | .error e => s.stop e
    | .ok home =>
      let act := fun (s1 : State) =>
        if writeLimit ≤ s1.me.outstanding then s1.park .room
        else if !s1.outRoom s1.curCore s1.me.st.partition then s1.park .outgoing
        else
          let node := if s.hostFrame s.acc t then Node.host 0 else home.1
          let m : RedMsg := { core := s.curCore, slot := s.curSlot, part := s.me.st.partition, node := node, addr := home.2,
                              va := va, bytes := n, op := op, operand := s.getG b }
          let s2 := ((s1.plbTouch s.acc va.toNat).purgeFor t).send (some (true, s.curCore, s.pathNode node))
            .redArrival (.red m)
          (s2.modMe (fun sl => { sl with outstanding := sl.outstanding + 1 })).finish 4
      if rel then s.release sc act else act s

/-- RED.ADD (R191). -/
def execRedAdd (a b : BitVec 5) (sz : BitVec 1) (off : BitVec 1) (sc : BitVec 3) (s : State) :
    Host.Outcome State Fault Refusal :=
  .next (s.red .add a b (sizeOf1 sz) (flagOf off) sc)
/-- RED.AND (R191). -/
def execRedAnd (a b : BitVec 5) (sz : BitVec 1) (off : BitVec 1) (sc : BitVec 3) (s : State) :
    Host.Outcome State Fault Refusal :=
  .next (s.red .and a b (sizeOf1 sz) (flagOf off) sc)
/-- RED.OR (R191). -/
def execRedOr (a b : BitVec 5) (sz : BitVec 1) (off : BitVec 1) (sc : BitVec 3) (s : State) :
    Host.Outcome State Fault Refusal :=
  .next (s.red .or a b (sizeOf1 sz) (flagOf off) sc)
/-- RED.XOR (R191). -/
def execRedXor (a b : BitVec 5) (sz : BitVec 1) (off : BitVec 1) (sc : BitVec 3) (s : State) :
    Host.Outcome State Fault Refusal :=
  .next (s.red .xor a b (sizeOf1 sz) (flagOf off) sc)
/-- RED.MIN.S (R191). -/
def execRedMinS (a b : BitVec 5) (sz : BitVec 1) (off : BitVec 1) (sc : BitVec 3) (s : State) :
    Host.Outcome State Fault Refusal :=
  .next (s.red .minS a b (sizeOf1 sz) (flagOf off) sc)
/-- RED.MIN.N (R191). -/
def execRedMinN (a b : BitVec 5) (sz : BitVec 1) (off : BitVec 1) (sc : BitVec 3) (s : State) :
    Host.Outcome State Fault Refusal :=
  .next (s.red .minN a b (sizeOf1 sz) (flagOf off) sc)
/-- RED.MAX.S (R191). -/
def execRedMaxS (a b : BitVec 5) (sz : BitVec 1) (off : BitVec 1) (sc : BitVec 3) (s : State) :
    Host.Outcome State Fault Refusal :=
  .next (s.red .maxS a b (sizeOf1 sz) (flagOf off) sc)
/-- RED.MAX.N (R191). -/
def execRedMaxN (a b : BitVec 5) (sz : BitVec 1) (off : BitVec 1) (sc : BitVec 3) (s : State) :
    Host.Outcome State Fault Refusal :=
  .next (s.red .maxN a b (sizeOf1 sz) (flagOf off) sc)
/-- RED.FADD.F32 (R189, R191). -/
def execRedFaddF32 (a b : BitVec 5) (off : BitVec 1) (sc : BitVec 3) (s : State) : Host.Outcome State Fault Refusal :=
  .next (s.red .faddF32 a b 4 (flagOf off) sc)
/-- RED.FADD.BF16X2 (R189, R191). -/
def execRedFaddBf16x2 (a b : BitVec 5) (off : BitVec 1) (sc : BitVec 3) (s : State) : Host.Outcome State Fault Refusal :=
  .next (s.red .faddBf16x2 a b 4 (flagOf off) sc)
/-- RED.FMAX.F32 (R189, R191). -/
def execRedFmaxF32 (a b : BitVec 5) (off : BitVec 1) (sc : BitVec 3) (s : State) : Host.Outcome State Fault Refusal :=
  .next (s.red .fmaxF32 a b 4 (flagOf off) sc)

/-- RED_ARRIVAL: the atomic at its home, then the acknowledgement; an uncorrectable word or a refusal of the host is
reported later (R191, R194). -/
def execRedArrival (s : State) : Host.Outcome State Fault Refusal :=
  match s.arg with
  | .red m =>
    let ack := fun (t : State) (bad : Option (BitVec 8 × BitVec 64)) => t.send none .writeAck (.ack m.core m.slot bad)
    match m.node with
    | .control =>
      match amoResult m.op m.bytes (s.controlRead m.addr m.bytes).toNat (m.operand.toNat % 2 ^ (8 * m.bytes)) 0 with
      | some v => .next (s.controlSteps m.core [(m.addr, bytesOf m.bytes v)] [(.writeAck, .ack m.core m.slot none)])
      | none => .next (ack s none)
    | node =>
      let refused : Bool := match node with
        | .host _ => !Config.outcome s.tick
        | _ => false
      let gone : Bool := match node with
        | .core n => (s.core n).isolated
        | _ => false
      if refused then .next (ack s (some (0x22, m.va)))
      else if gone then .next (ack s none)
      else
        match s.atomicAt m.addr m.bytes m.op m.operand.toNat 0 with
        | (s1, .ok _) => .next (ack (s1.forget m.core m.va.toNat m.node) none)
        | (s1, .error _) => .next (ack s1 (some (0x1E, m.va)))
  | _ => .next s

/-- HOST_ATOMIC_COMPLETION: the host has performed an AMO, or refuses it with 0x22 (R194). -/
def execHostAtomicCompletion (s : State) : Host.Outcome State Fault Refusal :=
  match s.arg with
  | .slotFlag n i failed =>
    match (s.slot n i).wait? with
    | some (.hostAtomic d b op addr va x e acq) =>
      if failed then .next (s.answerFault n i 0x22 va)
      else
        match s.atomicAt addr b op x.toNat e.toNat with
        | (s1, .error _) => .next (s1.answerFault n i 0x1E va)
        | (s1, .ok old) =>
          let s2 := (s1.forget n va.toNat (.host 0)).modSlot n i (fun sl =>
            { (sl.setG d (BitVec.ofNat 64 old)).finish with run := .waiting .rejoin })
          match acq with
          | some sc => .next (s2.acquireOn n sc)
          | none => .next s2
    | _ => .next s
  | _ => .next s

/-! ### Monitors (R198 to R202) -/

/-- A monitor of the executing slot replaced. -/
def State.setMon (s : State) (m : BitVec 2) (x : Monitor) : State :=
  s.modMe (fun sl => { sl with mons := sl.mons.set m.toFin x })

/-- MARM (R199). -/
def execMarm (md : BitVec 2) (a : BitVec 5) (imm : BitVec 12) (s : State) : Host.Outcome State Fault Refusal :=
  let va := s.disp a imm
  if 0x200000 ≤ va.toNat then .next (s.fault 0x15 va)
  else if !s.inShare s.curCore s.me.who va.toNat 1 then .next (s.fault 0x14 va)
  else .next ((s.setMon md { armed := true, triggered := false, line := BitVec.ofNat 15 (va.toNat / 64) }).finish 4)

/-- Whether panel time stands at or past a slot's TCMP; all ones is never reached (R201). -/
def Slot.pastTcmp (sl : Slot) (now : Nat) : Bool := sl.cnt.tcmp != BitVec.allOnes 64 && decide (sl.cnt.tcmp.toNat ≤ now)

/-- Whether MWAIT is interrupted as it issues: panel time past TCMP, a cause pending, a handover or park under way (R201). -/
def State.interrupted (s : State) : Bool :=
  s.me.pastTcmp s.ptime || s.me.pending != [] || s.me.capture || s.me.parked

/-- Core cycle at which a 32-bit timeout ends (R201). -/
def State.deadline (s : State) (x : Dword) : Nat :=
  let t := x.toNat % 2 ^ 32
  s.here.t + (if t = 0 then 2 ^ 32 else t)

/-- MWAIT (R201, R387, R388). -/
def execMwait (d a : BitVec 5) (s : State) : Host.Outcome State Fault Refusal :=
  let sl := s.me
  let finish := fun (v : Dword) =>
    let r := s.traced s.curCore s.curSlot traceWait v
    (r.1.modMe (fun x => x.mwaitResult d r.2)).finish 4
  if !sl.mons.toList.any (fun m => m.armed) then .next (finish 0x40)
  else if sl.triggeredBits != 0 || s.interrupted then
    .next (finish (sl.triggeredBits ||| (if s.interrupted then 0x20 else 0)))
  else if timedOut (s.replayedWait s.curCore s.curSlot) 4 then .next (finish 0x10)
  else .next (s.park (.mwait d (if a = 0 then none else some (s.deadline (s.getG a)))))

/-- MDISARM m (R202). -/
def execMdisarm (md : BitVec 2) (s : State) : Host.Outcome State Fault Refusal :=
  .next ((s.setMon md { s.me.mons.get md.toFin with armed := false, triggered := false }).finish 4)

/-- MDISARM all (R202). -/
def execMdisarmAll (s : State) : Host.Outcome State Fault Refusal :=
  .next ((s.modMe (fun sl =>
    { sl with mons := sl.mons.map (fun m => { m with armed := false, triggered := false }) })).finish 4)

/-- MWAIT_TIMEOUT (R201, R388). -/
def execMwaitTimeout (s : State) : Host.Outcome State Fault Refusal :=
  match s.arg with
  | .slot n i =>
    match (s.slot n i).wait? with
    | some (.mwait _ dl) => .next (if s.timesOut n i 4 dl then s.wakeMwait n i 0x10 else s)
    | _ => .next s
  | _ => .next s

/-- MWAIT_TCMP_INTERRUPT: panel time reaches TCMP while the slot waits at MWAIT (R201). -/
def execMwaitTcmpInterrupt (s : State) : Host.Outcome State Fault Refusal :=
  match s.arg with
  | .slot n i => .next (if (s.slot n i).pastTcmp s.ptime then s.wakeMwait n i 0x20 else s)
  | _ => .next s

/-! ### Barriers (R203 to R205) -/

/-- Live slots of the executing slot's partition on its core (R205). -/
def State.partLive (s : State) : Nat :=
  match s.me.who with
  | some p => (s.partSlots p s.curCore).length
  | none => s.liveSlots s.curCore

/-- A barrier of the executing slot's core set. -/
def State.setBar (s : State) (b : BitVec 5) (u : Option BarUse) : State :=
  s.modHere (fun c => { c with bars := c.bars.set b.toFin u })

/-- Whether a slot waits at a barrier. -/
def Slot.atBar (sl : Slot) (b : BitVec 5) : Bool :=
  match sl.wait? with
  | some (.bar x) => x == b
  | some (.barw x) => x == b
  | _ => false

/-- A barrier's use completes: every waiter goes on, a captured one once it is restored, and the barrier is idle (R205,
R212). -/
def State.completeBar (s : State) (b : BitVec 5) : State :=
  let s1 := (List.finRange 16).foldl (fun t i =>
    if (t.slot s.curCore i).atBar b then t.completeSlot s.curCore i else t) (s.setBar b none)
  match s.me.job with
  | some j => s1.endSaved s.curCore j (fun w => match w with
      | .bar x => if x = b then some false else none
      | .barw x => if x = b then some false else none
      | _ => none)
  | none => s1

/-- An arrival at a barrier with an expected count: it opens an idle barrier's use, then releases (R205); `wait` tells BAR
from BARA. -/
def State.arriveBar (s : State) (b : BitVec 5) (n : Nat) (wait : Bool) : State :=
  if !s.ownsCounter b.toNat then s.fault 0x21 s.noAddr
  else if s.partLive < n then s.fault 0x20 s.noAddr
  else
    let u := (s.here.bars.get b.toFin).getD { expected := n, arrivals := 0 }
    if u.expected ≠ n then s.fault 0x20 s.noAddr
    else
      (s.setBar b (some u)).release 1 (fun s1 =>
        if u.arrivals + 1 = n then (s1.completeBar b).finish 4
        else
          let s2 := s1.setBar b (some { u with arrivals := u.arrivals + 1 })
          if wait then s2.park (.bar b) else s2.finish 4)

/-- BAR: the field holds n − 1 (R204, R205). -/
def execBar (cc : BitVec 4) (num : BitVec 5) (s : State) : Host.Outcome State Fault Refusal :=
  .next (s.arriveBar num (cc.toNat + 1) true)
/-- BARA (R205). -/
def execBara (cc : BitVec 4) (num : BitVec 5) (s : State) : Host.Outcome State Fault Refusal :=
  .next (s.arriveBar num (cc.toNat + 1) false)
/-- BARW (R205). -/
def execBarw (num : BitVec 5) (s : State) : Host.Outcome State Fault Refusal :=
  if !s.ownsCounter num.toNat then .next (s.fault 0x21 s.noAddr)
  else if (s.here.bars.get num.toFin).isNone then .next (s.finish 4)
  else .next (s.park (.barw num))

/-! ### Arrival counters (R206, R207) -/

/-- What CWAIT answers when its wait has timed out: the counter, and bit 32 (R207). -/
def lateCounter (c : Word) : Dword := c.setWidth 64 ||| 0x100000000

/-- CWAIT: the counter tested once, then the wait (R207, R387, R388). -/
def execCwait (d a b num : BitVec 5) (s : State) : Host.Outcome State Fault Refusal :=
  let t : Word := (s.getG a).setWidth 32
  let c := s.counter s.curCore num
  let finish := fun (v : Dword) =>
    let r := s.traced s.curCore s.curSlot traceWait v
    r.1.write 4 d r.2
  if !s.ownsCounter num.toNat then .next (s.fault 0x21 s.noAddr)
  else if reached c t then .next (finish (c.setWidth 64))
  else if timedOut (s.replayedWait s.curCore s.curSlot) 32 then .next (finish (lateCounter c))
  else if b = 0 then .next (s.park (.cwait d num t none))
  else if (s.getG b).setWidth 32 = (0 : Word) ∧ !s.replays s.curCore s.curSlot then .next (finish (lateCounter c))
  else .next (s.park (.cwait d num t (some (s.here.t + (s.getG b).toNat % 2 ^ 32))))

/-- CWAIT_TIMEOUT (R207, R388). -/
def execCwaitTimeout (s : State) : Host.Outcome State Fault Refusal :=
  match s.arg with
  | .slot n i =>
    match (s.slot n i).wait? with
    | some (.cwait d num _ dl) =>
      if !s.timesOut n i 32 dl then .next s
      else
        let r := s.traced n i traceWait (lateCounter (s.counter n num))
        .next (r.1.modSlot n i (fun sl => { (sl.setG d r.2).finish with run := .waiting .rejoin }))
    | _ => .next s
  | _ => .next s

/-- CADD: a release at .co, then the addition (R206). -/
def execCadd (a num : BitVec 5) (s : State) : Host.Outcome State Fault Refusal :=
  if !s.ownsCounter num.toNat then .next (s.fault 0x21 s.noAddr)
  else .next (s.release 1 (fun s1 => (s1.bump s.curCore num ((s.getG a).setWidth 32)).finish 4))
/-- CSET: a release at .co, then the value (R206). -/
def execCset (a num : BitVec 5) (s : State) : Host.Outcome State Fault Refusal :=
  if !s.ownsCounter num.toNat then .next (s.fault 0x21 s.noAddr)
  else .next (s.release 1 (fun s1 => (s1.setCounter s.curCore num ((s.getG a).setWidth 32)).finish 4))
/-- CRD (R206). -/
def execCrd (d num : BitVec 5) (s : State) : Host.Outcome State Fault Refusal :=
  if !s.ownsCounter num.toNat then .next (s.fault 0x21 s.noAddr)
  else .next (s.write 4 d ((s.counter s.curCore num).setWidth 64))

end Sys2Proof.Machine
end

