-- ==== Sys2Proof/Machine/Messages.lean ====
section
/-!
DEFINITION. Messages: headers and names (R214 to R217), the outgoing buffer and refusal (R220, R221), class entries and the
processing of arrivals (R222 to R227, R236), the inbox and the overflow slot (R228), queue registers (R231, R233) and
flow-tracked sends (R234, R235).
-/
namespace Sys2Proof.Machine

/-! ### Headers and names -/

/-- A message's header flit (R214). -/
def msgHeader (m : Msg) : VReg :=
  let inl := if m.len ≤ 32 then m.payload.toNat % 2 ^ 256 else 0
  BitVec.ofNat 512 (m.dest.toNat + 2 ^ 22 * m.cls.toNat + 2 ^ 28 * m.part.toNat + 2 ^ 34 * m.source.toNat +
    2 ^ 56 * m.kind.toNat + 2 ^ 60 * m.sslot.toNat + 2 ^ 64 * m.seq.toNat + 2 ^ 80 * m.len +
    2 ^ 89 * natOfBool m.retry + 2 ^ 128 * m.aux.toNat + 2 ^ 256 * inl)

/-- The fields of a header flit (R214), with a payload. -/
def msgOfHeader (h : VReg) (payload : Payload) : Msg :=
  { dest := bitsOf h.toNat 0 22, cls := bitsOf h.toNat 22 5, part := bitsOf h.toNat 28 6, source := bitsOf h.toNat 34 22,
    kind := bitsOf h.toNat 56 4, sslot := bitsOf h.toNat 60 4, seq := bitsOf h.toNat 64 16, len := fieldOf h 88 80,
    retry := h.getLsbD 89, aux := bitsOf h.toNat 128 64, payload := payload }

/-- The payload bytes of a message, padded with zeros to a multiple of 8 (R225, R226). -/
def payloadBytes (m : Msg) : List Byte := bytesOf (8 * ((m.len + 7) / 8)) (m.payload.toNat % 2 ^ (8 * m.len))

/-- The name of a core of the own panel (R216). -/
def State.nameOf (s : State) (n : Nat) : Name := BitVec.ofNat 22 ((s.core n).panelId.toNat * 2 ^ 16 + n)

/-- The panel id of a name. -/
def namePanel (x : Name) : Nat := x.toNat / 2 ^ 16

/-- Whether a name is that of the own panel, as core `n` reads PANELID (R216). -/
def State.ownPanel (s : State) (n : Nat) (x : Name) : Bool := namePanel x == (s.core n).panelId.toNat

/-- The state of an optical port. -/
def State.port (s : State) (k : Nat) : Port := (lookupNat k s.portStates).getD Port.reset

/-- The ports that PORTROUTE names for a panel (R457). -/
def State.routePorts (s : State) (panel : Nat) : List Nat :=
  (List.range 48).filter (fun k => ((lookupNat panel s.layout.routes).getD 0).getLsbD k)

/-- Whether a port admits a partition (R457). -/
def State.portAllows (s : State) (k : Nat) (p : BitVec 6) : Bool :=
  ((lookupNat k s.layout.allow).getD 0).getLsbD p.toNat

/-- A register that supplies a name, resolved: 0x30 where its high bits are not zero, the name is not in the table, or no
port of the partition reaches the panel (R216, R217). -/
def State.resolveName (s : State) (a : Acc) (x : Dword) : Except Stop Name :=
  let nm : Name := x.setWidth 22
  if x.toNat / 2 ^ 22 ≠ 0 then .error (.fault 0x30 x)
  else if s.ownPanel a.core nm then
    match s.name a (nameCore nm) x with
    | .ok _ => .ok nm
    | .error e => .error e
  else
    match a.who with
    | some p => if (s.routePorts (namePanel nm)).any (fun k => s.portAllows k p) then .ok nm else .error (.fault 0x30 x)
    | none => .error (.fault 0x30 x)

/-! ### The outgoing buffer and the way to the destination -/

/-- Nanoseconds of 256 mesh cycles (R21, R221). -/
def retryTime : Nat := 128

/-- The step in which a message arrives, by its kind and destination (R215, R446): a launch engine takes fault posts and
discards the rest. -/
def arrivalKind (m : Msg) : Instr :=
  let c := nameCore m.dest
  if c = 0xF200 ∨ c = 0xF201 then .faultPostArrival
  else if m.kind = 1 then .channelReturnArrival
  else if m.kind = 2 then .channelProbeArrival
  else if m.kind = 3 then .chsyncRequestArrival
  else if m.kind = 4 then .chsyncReplyArrival
  else if m.kind = 9 then (if m.len = 0 then .stsprClosingArrival else .stsprRowArrival)
  else .messageArrival

/-- The bits of a frame's CRC-32 (IEEE 802.3) (R456). -/
def crc32 (bs : List Byte) : Nat :=
  let step := fun (c : Nat) (b : Byte) =>
    (List.range 8).foldl (fun c _ => if c % 2 = 1 then (c / 2) ^^^ 0xEDB88320 else c / 2) (c ^^^ b.toNat)
  (bs.foldl step 0xFFFFFFFF) ^^^ 0xFFFFFFFF

/-- A frame of a port: header, up to 240 payload bytes, CRC (R456). -/
def opticalFrame (seq ack : BitVec 16) (type : Nat) (payload : List Byte) : BitVec 2048 :=
  let head := seq.toNat * 2 ^ 48 + ack.toNat * 2 ^ 32 + type * 2 ^ 24 + payload.length * 2 ^ 16
  let bs := bytesOf 8 head ++ payload ++ List.replicate (244 - payload.length) 0
  BitVec.ofNat 2048 (ofBytes (bs ++ bytesOf 4 (crc32 bs)))

/-- The flits of a message as bytes: the header, then the body (R214). -/
def msgFlits (m : Msg) : List Byte :=
  bytesOf 64 (msgHeader m).toNat ++
    (if m.len ≤ 32 then [] else bytesOf (64 * ((m.len + 63) / 64)) (m.payload.toNat % 2 ^ (8 * m.len)))

/-- A list cut into pieces of at most `k` elements; `fuel` bounds their number. -/
def piecesOf {α : Type} (k : Nat) : Nat → List α → List (List α)
  | 0, _ => []
  | fuel + 1, xs => if xs.isEmpty then [] else xs.take k :: piecesOf k fuel (xs.drop k)

/-- Frames put into a port's window (R456). -/
def Port.enqueue (p : Port) (now : Nat) (payloads : List (List Byte)) : Port :=
  payloads.foldl (fun q bs =>
    { q with window := q.window ++ [opticalFrame q.nextSeq q.expected 1 bs], nextSeq := q.nextSeq + 1,
             progressAt := if q.window.isEmpty then now else q.progressAt }) p

/-- A port that goes down: its unacknowledged frames are lost (R457). -/
def Port.down (p : Port) : Port :=
  { p with up := false, rising := false, window := [], riders := [], rx := [], replays := 0 }

/-- The destination has accepted a message: its entry of the source's outgoing buffer is free (R221). -/
def State.accept (s : State) (m : Msg) : State :=
  s.modCore (nameCore m.source) (fun c => { c with sent := c.sent.erase { m with retry := false } })

/-- The entries of the outgoing buffers that messages of other panels have held are free (R221, R457). -/
def State.acceptAll (s : State) (ms : List Msg) : State := ms.foldl State.accept s

/-- The ports as a layout that takes over has them: one that it does not have in use goes down (R457). -/
def State.applyPorts (s : State) (new : Layout) : State :=
  (s.portStates.filter (fun e => (e.2.up || e.2.rising) && !new.ports.getLsbD e.1)).foldl (fun t e =>
    ({ t with portStates := insertNat e.1 e.2.down t.portStates }).acceptAll (e.2.riders.map Prod.snd)) s

/-- A message leaves the panel: by the up port of its pair, and only kinds 0 to 4; otherwise it is lost, and counted where
the port's mask does not admit its partition (R448, R457). It counts as
accepted once the other end has acknowledged its last frame (R221, R456; DESIGN CHOICE, log 26). -/
def State.sendOut (s : State) (m : Msg) : State :=
  let ups := (s.routePorts (namePanel m.dest)).filter (fun k => (s.port k).up)
  match ups[nameCore m.source % max 1 ups.length]? with
  | some k =>
    if !s.portAllows k m.part then
      { s with portStates := insertNat k { s.port k with discards := (s.port k).discards + 1 } s.portStates }.accept m
    else if m.kind.toNat ≤ 4 then
      let p := (s.port k).enqueue s.ptime (piecesOf 240 8 (msgFlits m))
      { s with portStates := insertNat k { p with riders := p.riders ++ [(p.window.length, m)] } s.portStates }
    else s.accept m
  | none => s.accept m

/-- A message set on its way from core `n` (R176). -/
def State.transmit (s : State) (n : Nat) (m : Msg) : State :=
  if s.ownPanel n m.dest then s.send (some (true, n, nameCore m.dest)) (arrivalKind m) (.msg m) else s.sendOut m

/-- A message of kind 0 placed in the outgoing buffer of core `n` (R221); it does not move while the source retains a
message for its destination (`State.eligible`). -/
def State.place (s : State) (n : Nat) (m : Msg) : State :=
  (s.modCore n (fun c => { c with sent := c.sent ++ [m] })).transmit n m

/-! ### Class entries -/

/-- Whether a partition owns class `k` of core `n` (R222): an edge core is owned whole (R160); a processor of a root chiplet
acts for no partition and its classes are its own. -/
def State.ownsClass (s : State) (p : BitVec 6) (n : Nat) (k : Nat) : Bool :=
  match s.kindOf n with
  | .grid =>
    match s.partEntry p with
    | some e => s.inRegion p n && (decide (29 ≤ k) || e.classes.getLsbD k)
    | none => false
  | .edge _ _ => s.inRegion p n
  | .management _ => true
  | .security _ => true
  | _ => false

/-- For whom the store of core `n` is used by a partition's messages. -/
def State.homeWho (s : State) (n : Nat) (p : BitVec 6) : Option (BitVec 6) :=
  match s.kindOf n with
  | .management _ => none
  | .security _ => none
  | _ => some p

/-- Class entry `k` of core `n`; one with an uncorrectable error is treated as disabled (R227). -/
def State.cls (s : State) (n : Nat) (k : BitVec 5) : ClassEntry :=
  let e := (s.core n).classes.get k.toFin
  if e.bad then { e with mode := 0 } else e

/-- A class entry changed. -/
def State.modCls (s : State) (n : Nat) (k : BitVec 5) (f : ClassEntry → ClassEntry) : State :=
  s.modCore n (fun c => { c with classes := c.classes.set k.toFin (f (c.classes.get k.toFin)) })

/-- Size of a class's ring (R223). -/
def ClassEntry.ringSize (e : ClassEntry) : Nat := 2 ^ (8 + e.sizelog.toNat)

/-- Free space of a ring (R223). -/
def ClassEntry.free (e : ClassEntry) : Nat := e.ringSize - (e.head - e.tail).toNat

/-- Bytes of a message's ring record (R225). -/
def recordSize (len : Nat) : Nat := 8 + 8 * ((len + 7) / 8)

/-- The header of a ring record (R225). -/
def recordHeader (m : Msg) (pad : Bool) : Dword :=
  BitVec.ofNat 64 (natOfBool pad + 2 ^ 13 * m.seq.toNat + 2 ^ 29 * m.sslot.toNat + 2 ^ 33 * m.source.toNat +
    2 ^ 55 * (if pad then 0 else m.len))

/-- Words written at offsets of a requester's share on core `n`, in order, each set full in the same step where a scope is
given (R178, R226). -/
def State.putWords (s : State) (n : Nat) (who : Option (BitVec 6)) (full : Option (BitVec 2)) :
    List (Nat × List Byte) → State
  | [] => s
  | (o, bs) :: rest =>
    let a := s.sharePhys n who o
    let s1 := (s.put a bs).1
    let s2 := match full with
      | some sc => s1.fillWord a sc
      | none => s1
    s2.putWords n who full rest

/-- A list of bytes as words of 8 from an offset on. -/
def wordsFrom (o : Nat) (bs : List Byte) : List (Nat × List Byte) :=
  (List.range (bs.length / 8)).map (fun k => (o + 8 * k, (bs.drop (8 * k)).take 8))

/-- One more message dropped, saturating (R223). -/
def ClassEntry.drop (e : ClassEntry) : ClassEntry :=
  { e with drops := if e.drops = BitVec.allOnes 20 then e.drops else e.drops + 1 }

/-- A channel return of kind 1 for a class, with AUX = TAIL (R237). -/
def State.sendReturn (s : State) (n : Nat) (k : BitVec 5) (p : BitVec 6) : State :=
  let e := s.cls n k
  let m : Msg := { dest := e.source, cls := k, part := p, source := s.nameOf n, kind := 1, sslot := 0, seq := 0, len := 0,
                   retry := false, aux := e.tail.setWidth 64, payload := 0 }
  (s.modCls n k (fun e => { e with freed := 0, probed := false })).transmit n m

/-! ### Queue registers -/

/-- Queue register `q` of core `n`. -/
def State.queue (s : State) (n : Nat) (q : BitVec 3) : QueueReg := (s.core n).q.get q.toFin

/-- A queue register changed. -/
def State.modQueue (s : State) (n : Nat) (q : BitVec 3) (f : QueueReg → QueueReg) : State :=
  s.modCore n (fun c => { c with q := c.q.set q.toFin (f (c.q.get q.toFin)) })

/-- The oldest parked reader of a queue served, if the entries it needs are present (R233). -/
def State.serveReader (s : State) (n : Nat) (q : BitVec 3) : State :=
  let r := s.queue n q
  match r.readers with
  | [] => s
  | i :: rest =>
    match (s.slot n i).wait? with
    | some (.queueRead _ vec d) =>
      let k := if vec then 8 else 1
      if r.entries.length < k then s
      else
        let got := r.entries.take k
        let s1 := s.modQueue n q (fun r => { r with entries := r.entries.drop k, readers := rest })
        s1.modSlot n i (fun sl =>
          { (if vec then sl.setV (d.setWidth 4) (ofLanes 64 (got.map BitVec.toNat))
             else sl.setG d (got.headD 0)).finish with run := .waiting .rejoin })
    | _ => s.modQueue n q (fun r => { r with readers := rest })

/-- The oldest parked writer of a queue served, if there is room: an empty queue for eight values (R233). -/
def State.serveWriter (s : State) (n : Nat) (q : BitVec 3) : State :=
  let r := s.queue n q
  match r.writers with
  | [] => s
  | i :: rest =>
    match (s.slot n i).wait? with
    | some (.queueWrite _ vec vals) =>
      if (if vec then r.entries != [] else decide (8 ≤ r.entries.length)) then s
      else
        (s.modQueue n q (fun r => { r with entries := r.entries ++ vals, writers := rest })).completeSlot n i
    | _ => s.modQueue n q (fun r => { r with writers := rest })

/-- Parked readers and writers served in order until none can be (R233). -/
def State.serveQueue (s : State) (n : Nat) (q : BitVec 3) : State :=
  (List.range 16).foldl (fun t _ => (t.serveReader n q).serveWriter n q) s

/-- Entries added to a queue (R226, R233, R308). -/
def State.pushQueue (s : State) (n : Nat) (q : BitVec 3) (xs : List Dword) : State :=
  (s.modQueue n q (fun r => { r with entries := r.entries ++ xs })).serveQueue n q

/-! ### Processing an arrival (R226, R227, R236) -/

/-- A message counted as dropped by its class; where the entry has an uncorrectable error, that is logged (R227). -/
def State.dropMsg (s : State) (n : Nat) (m : Msg) : State :=
  let s1 := s.modCls n m.cls ClassEntry.drop
  if (s.cls n m.cls).bad then s1.log 0 n m.cls.toNat (m.source.setWidth 64) else s1

/-- What comes after a message's writes: EXPSEQ, COUNTER (R226), the trace (R387), the acknowledgement of a flow-tracked
deposit (R370). -/
def State.afterDeposit (s : State) (n : Nat) (m : Msg) : State :=
  let e := s.cls n m.cls
  let s1 := if e.flow then
      (s.modCls n m.cls (fun e => { e with expseq := e.expseq + 1 })).send none .flowDepositAck (.msg m)
    else s
  let s2 := if e.cnten then s1.bump n e.counter 1 else s1
  s2.arrivalDone n m.part m.sslot m.cls m.source m.seq (e.head.setWidth 64)

/-- A message that is not deposited but processed: the trace counts it (R387). -/
def State.afterDrop (s : State) (n : Nat) (m : Msg) : State :=
  s.arrivalDone n m.part m.sslot m.cls m.source m.seq ((s.cls n m.cls).head.setWidth 64)

/-- A message in a deposit area (R226). -/
def State.depositArea (s : State) (n : Nat) (m : Msg) (full : Option (BitVec 2)) : State :=
  let e := s.cls n m.cls
  (s.putWords n (s.homeWho n m.part) full (wordsFrom e.base.toNat (payloadBytes m))).afterDeposit n m

/-- A message in a ring (R225, R226): none where it must be held. -/
def State.depositRing (s : State) (n : Nat) (m : Msg) (full : Option (BitVec 2)) : Option State :=
  let e := s.cls n m.cls
  let size := e.ringSize
  let rec_ := recordSize m.len
  let o := e.head.toNat % size
  if size < rec_ then some ((s.dropMsg n m).afterDrop n m)
  else
    let pad := if e.wrap && decide (o ≠ 0) && decide (size - o < rec_) then size - o else 0
    if e.free < pad + rec_ then none
    else
      let base := e.base.toNat
      let start := if pad = 0 then o else 0
      let padWords := if pad = 0 then [] else [(base + o, bytesOf 8 (recordHeader m true).toNat)]
      let body := bytesOf 8 (recordHeader m false).toNat ++ payloadBytes m
      let words := (wordsFrom start body).map (fun w => (base + w.1 % size, w.2))
      let s1 := s.putWords n (s.homeWho n m.part) full (padWords ++ words)
      some ((s1.modCls n m.cls (fun e => { e with head := e.head + BitVec.ofNat 32 (pad + rec_) })).afterDeposit n m)

/-- The payload of a message as dwords (R226). -/
def payloadDwords (m : Msg) : List Dword :=
  (List.range ((m.len + 7) / 8)).map (fun k => bitsOf (m.payload.toNat % 2 ^ (8 * m.len)) (64 * k) 64)

/-- A message in a queue register (R226): none where it must be held. -/
def State.depositQueue (s : State) (n : Nat) (m : Msg) : Option State :=
  let e := s.cls n m.cls
  let k := (m.len + 7) / 8
  let q := s.queue n e.queue
  if 8 < k ∨ q.mode ≠ 3 then some ((s.dropMsg n m).afterDrop n m)
  else if 8 < q.entries.length + k then none
  else some ((s.pushQueue n e.queue (payloadDwords m)).afterDeposit n m)

/-- A message of a class whose turn it is, processed against its entry (R226, R236): none where it must be held. A duplicate
is acknowledged: its first copy has been deposited (R370). -/
def State.processMsg (s : State) (n : Nat) (m : Msg) : Option State :=
  let e := s.cls n m.cls
  let full := if e.fe then some (if s.ownPanel n m.source then s.distance (nameCore m.source) n else 2) else none
  let dq := (m.seq - e.expseq).toNat
  if !s.arrivalNext n m.part m.cls m.source m.seq then none
  else if e.mode = 0 then some ((s.dropMsg n m).afterDrop n m)
  else if e.flow ∧ m.source ≠ e.source then some ((s.dropMsg n m).afterDrop n m)
  else if e.flow ∧ 2 ^ 15 ≤ dq then
    some (((s.modCls n m.cls (fun e =>
      { e with dups := if e.dups = BitVec.allOnes 16 then e.dups else e.dups + 1 })).send none .flowDepositAck
        (.msg m)).afterDrop n m)
  else if e.flow ∧ dq ≠ 0 then some (((s.dropMsg n m).sendReturn n m.cls m.part).afterDrop n m)
  else
    match e.mode.toNat with
    | 1 => some (s.depositArea n m full)
    | 2 => s.depositRing n m full
    | 3 => s.depositQueue n m
    | _ => some ((s.dropMsg n m).afterDrop n m)

/-- Held messages of a partition (R221). -/
def Core.heldOf (c : Core) (p : BitVec 6) : List HeldMsg := c.held.filter (fun h => h.msg.part == p)

/-! ### The overflow slot (R228) -/

/-- A partition's row of a core (R332). -/
def State.row (s : State) (n : Nat) (p : BitVec 6) : PartRow := (lookupNat p.toNat (s.core n).rows).getD PartRow.reset

/-- A partition's row changed. -/
def State.modRow (s : State) (n : Nat) (p : BitVec 6) (f : PartRow → PartRow) : State :=
  s.modCore n (fun c => { c with rows := insertNat p.toNat (f (s.row n p)) c.rows })

/-- The partition's overflow slot on a core, if one is designated and its slot has started and not halted (R228, R332). -/
def State.overflowSlot (s : State) (n : Nat) (p : BitVec 6) : Option SlotNo :=
  let r := s.row n p
  let i : SlotNo := Fin.ofNat 16 (r.ovfslot.toNat % 16)
  if r.ovfslot.getLsbD 4 && (s.slot n i).run != .off && (s.slot n i).run != .halted then some i else none

/-- Whether a read through the full/empty bits has its answer already on the way (R156, R212). -/
def State.answered (s : State) (n : Nat) (i : SlotNo) : Bool :=
  s.due.any (fun d => match d.ev.arg with
    | .reply r => r.core == n && r.slot == i
    | _ => false)

/-- A slot's full/empty requests that have not reached their home withdrawn (R156). -/
def State.withdrawDue (s : State) (n : Nat) (i : SlotNo) : State :=
  { s with due := s.due.filter (fun d => match d.ev.arg with
      | .remote r => !(r.core == n && r.slot == i &&
          (match r.op with
           | .feRead _ _ => true
           | _ => false))
      | _ => true) }

/-- Whether an asynchronous cause abandons a wait (R212). -/
def State.abandons (s : State) (n : Nat) (i : SlotNo) : Wait → Bool
  | .cwait _ _ _ _ | .fill _ _ _ | .queueRead _ _ _ | .queueWrite _ _ _ | .channel _ _ | .outgoing
  | .matrixEmpty _ | .copyRoom | .collRoom | .mmov _ _ _ _ | .mmovw _ _ _ _ | .halt | .wquiet _ _ | .bench _ _
  | .benchF _ _ _ => true
  | .matrixRoom _ _ => s.released n i 1
  | .reply p => (match p.dest with
      | .word _ => !s.answered n i
      | _ => false)
  | _ => false

/-- Every queue register's waiters served: one that waited ahead of them has left (R233). -/
def State.serveQueues (s : State) (n : Nat) : State :=
  (List.range 8).foldl (fun t q => t.serveQueue n (BitVec.ofNat 3 q)) s

/-- A slot leaves every list of waiters, here and at other cores, and those behind it are served (R156, R212, R233). -/
def State.leaveLists (s : State) (n : Nat) (i : SlotNo) : State :=
  ((s.modCore n (fun c => c.withdraw i)).withdrawRemote n i).serveQueues n

/-- A wait given up: the slot leaves every list of waiters and issues its instruction again (R212). -/
def State.abandon (s : State) (n : Nat) (i : SlotNo) : State :=
  ((s.leaveLists n i).withdrawDue n i).parkSlot n i .rejoin

/-- An asynchronous cause directed at a slot (R212, R340, R341): it stays pending until the slot's next turn; a wait is
abandoned, an MWAIT completes, and other waits go on. -/
def State.direct (s : State) (n : Nat) (i : SlotNo) (cause : BitVec 8) (addr : Dword) : State :=
  let s1 := s.pend n i cause addr
  match (s1.slot n i).wait? with
  | some (.mwait _ _) => s1.wakeMwait n i 0x20
  | some w => if s1.abandons n i w then s1.abandon n i else s1
  | none => s1

/-- A cause directed at the slot that issued an engine command for a partition: where the slot has been captured meanwhile, it goes
with the saved context (R295, R310, R322, R327, R358). -/
def State.directTo (s : State) (n : Nat) (i : SlotNo) (p : BitVec 6) (cause : BitVec 8) (addr : Dword) : State :=
  if s.savedAway n i p then s.pendSaved n i p cause addr else s.direct n i cause addr

/-- OVERFLOW_WAKE: the overflow slot gets upcall 0x39, unless its overflow bit is set or a wake is pending (R228). -/
def State.overflowWake (s : State) (n : Nat) (p : BitVec 6) : State :=
  match s.overflowSlot n p with
  | none => s
  | some i =>
    let sl := s.slot n i
    if sl.st.ovf || sl.pending.any (fun x => x.1 == 0x39) then s else s.direct n i 0x39 0

/-- A message refused: it goes back to its source's interface; one of another panel, to which no refusal travels, is kept
at the port it came by and arrives again before those behind it, with RETRY (R221, R457; log 26). -/
def State.refuse (s : State) (n : Nat) (m : Msg) : State :=
  if s.ownPanel n m.source then s.send (some (true, n, nameCore m.source)) .messageRefusal (.msg m)
  else
    { s with due := { path := some (true, 0x50000 + namePanel m.source, n),
                      ev := { kind := arrivalKind m, arg := .msg { m with retry := true } } } :: s.due }

/-- A message that must be held: it takes a place in its partition's inbox allotment, or is refused (R221, R226). -/
def State.holdMsg (s : State) (n : Nat) (m : Msg) : State :=
  if (s.core n).handing m.part then
    (s.modCore n (fun c => { c with held := c.held ++ [{ msg := m, since := s.ptime }] })).accept m
  else if ((s.core n).heldOf m.part).length < s.allotment n then
    let s1 := (s.modCore n (fun c => { c with held := c.held ++ [{ msg := m, since := s.ptime }] })).accept m
    if ((s1.core n).heldOf m.part).length = s.allotment n then s1.overflowWake n m.part else s1
  else
    (s.modCore n (fun c =>
      { c with refusing := (m.part, m.source) :: c.refusing.filter (· != (m.part, m.source)) })).refuse n m

/-- A message of kind 0 arrives at core `n` and is processed, held, refused or discarded (R221, R226, R240, R380). -/
def State.arrive (s : State) (n : Nat) (m : Msg) : State :=
  let refused := (s.core n).refusing.contains (m.part, m.source)
  if (s.core n).isolated then s.accept m
  else if refused && !m.retry then s.refuse n m
  else
    let s0 := if refused then
        s.modCore n (fun c => { c with refusing := c.refusing.filter (· != (m.part, m.source)) })
      else s
    if !s0.ownsClass m.part n m.cls.toNat then (s0.log 0 n m.cls.toNat (m.source.setWidth 64)).accept m
    else if (s0.core n).handing m.part then s0.holdMsg n m
    else if (s0.core n).held.any (fun h => h.msg.cls == m.cls) then s0.holdMsg n m
    else
      match s0.processMsg n m with
      | some s1 => s1.accept m
      | none => s0.holdMsg n m

/-- The oldest held message of a class deposited, if it has room now (R227). -/
def State.depositHeld (s : State) (n : Nat) (k : BitVec 5) : Option State :=
  match (s.core n).held.find? (fun h => h.msg.cls == k) with
  | none => none
  | some h =>
    if (s.core n).handing h.msg.part then none
    else
      let s0 := s.modCore n (fun c => { c with held := c.held.erase h })
      s0.processMsg n h.msg

/-! ### Flow-tracked sends (R234, R235) -/

/-- The channel record of a core that matches a send (R235). -/
def State.channelFor (s : State) (n : Nat) (p : BitVec 6) (dest : Name) (k : BitVec 5) : Option (BitVec 6) :=
  ((List.finRange 64).find? (fun i =>
    let c := (s.core n).channels.get i
    c.valid && c.part == p && c.dest == dest && c.cls == k)).map (fun i => BitVec.ofNat 6 i.val)

/-- Channel record `i` of core `n`. -/
def State.chan (s : State) (n : Nat) (i : BitVec 6) : Channel := (s.core n).channels.get i.toFin

/-- A channel record changed. -/
def State.modChan (s : State) (n : Nat) (i : BitVec 6) (f : Channel → Channel) : State :=
  s.modCore n (fun c => { c with channels := c.channels.set i.toFin (f (c.channels.get i.toFin)) })

/-- Whether a slot still has its place on a channel record: it waits there, or its wait is over and it has not sent yet. A slot
that took a fault or a cause instead has given the place up (R212, R235). -/
def State.inLine (s : State) (n : Nat) (idx : BitVec 6) (i : SlotNo) : Bool :=
  (s.slot n i).turnOn == some idx || (match (s.slot n i).wait? with
    | some (.channel x _) => x == idx
    | _ => false)

/-- The slots that wait on a channel record, in order of arrival (R235). -/
def State.line (s : State) (n : Nat) (idx : BitVec 6) : List SlotNo := (s.chan n idx).waiters.filter (s.inLine n idx)

/-- An uncorrectable error in S, C or SEQ of a channel record: BROKEN, and every slot that waits on the record faults 0x33
(R238). -/
def State.breakChannel (s : State) (n : Nat) (idx : BitVec 6) : State :=
  let c := s.chan n idx
  (s.line n idx).foldl (fun t i => t.answerFault n i 0x33 (c.dest.setWidth 64))
    (s.modChan n idx (fun c => { c with broken := true, waiters := [] }))

/-- Whether a record of a size may leave on a channel now: capacity, or none asked for while it catches up (R235, R379). -/
def Channel.fits (c : Channel) (size : Nat) : Bool :=
  !c.resync && (c.catching.isSome || decide ((c.s - c.c).toNat + size ≤ c.k.toNat))

/-- The mirror of a job on core `n`. -/
def State.mirrorOf (s : State) (n j : Nat) : Option Mirror := (s.core n).mirrors.find? (fun m => m.job == j)

/-- A mirror of core `n` changed. -/
def State.modMirror (s : State) (n j : Nat) (f : Mirror → Mirror) : State :=
  s.modCore n (fun c => { c with mirrors := c.mirrors.map (fun m => if m.job = j then f m else m) })

/-- Bytes of a record of the resend log (R373). -/
def logSize (len : Nat) : Nat := 16 + 8 * ((len + 7) / 8)

/-- Bytes a resend log holds (R373). -/
def Mirror.logUsed (m : Mirror) : Nat := m.log.foldl (fun a r => a + logSize r.msg.len) 0

/-- The header of a resend-log record (R373). -/
def logHeader (idx : BitVec 6) (m : Msg) : Nat :=
  m.dest.toNat * 2 ^ 47 + m.cls.toNat * 2 ^ 69 + m.seq.toNat * 2 ^ 74 + m.len * 2 ^ 90 + idx.toNat * 2 ^ 99

/-- Offset of a job's resend log in the share of its partition on core `n`: it ends at the shape record (R42, R373). -/
def State.logOffset (s : State) (n : Nat) (j : Job) : Nat := s.shareSize n (some j.part) - 0x80 - j.logBytes

/-- A record appended to the resend log of a job on core `n`, its bytes written in the partition's share (R373). -/
def State.logSend (s : State) (n j : Nat) (job : Job) (idx : BitVec 6) (m : Msg) : State :=
  match s.mirrorOf n j with
  | none => s
  | some mir =>
    let o := s.logOffset n job + mir.logUsed
    let s1 := s.putWords n (some job.part) none (wordsFrom o (bytesOf 16 (logHeader idx m) ++ payloadBytes m))
    s1.modMirror n j (fun x => { x with log := x.log ++ [{ idx := idx, msg := m }] })

/-- A flow-tracked message counted as not yet deposited (R370). -/
def State.noteSent (s : State) (n : Nat) (m : Msg) : State :=
  s.modCore n (fun c => { c with undeposited := (m.part, m.dest, m.cls) :: c.undeposited })

/-- The sequence number and the counts of a channel after a send (R235, R379). -/
def Channel.sent (c : Channel) (size : Nat) : Channel :=
  let c1 := { c with seq := c.seq + 1, s := c.s + BitVec.ofNat 32 size }
  match c1.catching with
  | some (t, tail) => if c1.seq = t then { c1 with c := tail, catching := none } else c1
  | none => c1

/-- A message of the executing slot on its way, and the instruction of `len` bytes complete: flow-tracked where a channel
record matches, with its checks and its waits; the outgoing buffer must have room (R220, R235). -/
def State.sendFrom (s : State) (len : Nat) (k : BitVec 5) (dest : Name) (bytes : Nat) (payload : Payload) : State :=
  let n := s.curCore
  let p := s.me.st.partition
  let m : Msg := { dest := dest, cls := k, part := p, source := s.nameOf n, kind := 0,
                   sslot := BitVec.ofNat 4 s.curSlot.val, seq := 0, len := bytes, retry := false, aux := 0,
                   payload := payload }
  let room := s.outRoom n p
  match s.channelFor n p dest k with
  | none => if room then (s.place n m).finish len else s.parkAs len .outgoing
  | some idx =>
    let c := s.chan n idx
    let size := recordSize bytes
    let line := s.line n idx
    let first := match line with
      | [] => true
      | i :: _ => i == s.curSlot
    let leave := s.modChan n idx (fun c => { c with waiters := c.waiters.filter (fun x => x != s.curSlot) })
    if c.k.toNat < size then leave.fault 0x34 (dest.setWidth 64)
    else if c.broken then leave.fault 0x33 (dest.setWidth 64)
    else if !first || !c.fits size then
      (s.modChan n idx (fun c => if line.contains s.curSlot then { c with waiters := line }
        else { c with waiters := line ++ [s.curSlot], lastReturn := if line = [] then s.ptime else c.lastReturn })
        ).parkAs len (.channel idx size)
    else
      let full : Bool := match s.me.job.bind (fun j => s.mirrorOf n j), s.myJob with
        | some mir, some job => job.recov && decide (job.logBytes < mir.logUsed + logSize bytes)
        | _, _ => false
      if full then leave.fault 0x74 (dest.setWidth 64)
      else if !room then s.parkAs len .outgoing
      else
        let m1 := { m with seq := c.seq }
        let s1 := (s.modChan n idx (fun c =>
          { (c.sent size) with waiters := c.waiters.filter (fun x => x != s.curSlot) })).modMe
            (fun sl => { sl with turnOn := none })
        let s2 := match s.me.job, s.myJob with
          | some j, some job => if job.recov then (s1.noteSent n m1).logSend n j job idx m1 else s1
          | _, _ => s1
        (s2.place n m1).finish len

end Sys2Proof.Machine
end

