-- ==== Sys2Proof/Machine/Mailing.lean ====
section
/-!
DEFINITION. The message, queue and channel instructions, majors 0x18 to 0x1B (R218 to R239), and the steps of messages:
arrival, holding, refusal, returns, probes and resynchronisation.
-/
namespace Sys2Proof.Machine

/-! ### Sends (R219, R220) -/

/-- The check of a span of the self window: 0x13 outside it, 0x03 off its alignment, 0x14 beyond the share (R220). -/
def State.selfSpan (s : State) (va : Dword) (align size : Nat) : Except Stop Unit :=
  if 0x200000 ≤ va.toNat then .error (.fault 0x13 va)
  else if va.toNat % align ≠ 0 then .error (.fault 0x03 va)
  else if !s.inShare s.curCore s.me.who va.toNat size then .error (.fault 0x14 va)
  else s.bankReady s.curCore s.me.who va.toNat size

/-- `n` bytes from an offset of the executing slot's share, lowest first. -/
def State.selfBytes (s : State) (o n : Nat) : List Byte :=
  (List.range n).map (fun k => Memory.get s.mem (s.sharePhys s.curCore s.me.who (o + k)))

/-- The first of `n` bytes from an offset of the executing slot's share that is uncorrectable (R159). -/
def State.selfBad (s : State) (o n : Nat) : Option Nat :=
  ((List.range n).find? (fun k => (s.badIn (s.sharePhys s.curCore s.me.who (o + k)) 1).isSome)).map (fun k => o + k)

/-- A class that only management mode sends on (R220, R222). -/
def State.classDenied (s : State) (k : BitVec 5) : Bool := decide (29 ≤ k.toNat) && s.me.st.mode != .management

/-- SEND: registers d to d + num (R219, R220). -/
def execSend (d a sc : BitVec 5) (num : BitVec 2) (s : State) : Host.Outcome State Fault Refusal :=
  if s.classDenied sc then .next s.privilege
  else
    match s.resolveName s.acc (s.getG a) with
    | .error e => .next (s.stop e)
    | .ok nm =>
      let n := num.toNat + 1
      let xs := (List.range n).map (fun k => (s.getG (d + BitVec.ofNat 5 k)).toNat)
      .next (s.sendFrom 4 sc nm (8 * n) (BitVec.ofNat 2048 (joinLanes 64 xs)))

/-- SENDM and SENDL to a resolved name: the length, the span, the payload (R220). A payload that holds uncorrectable data faults
0x1E, as do the records that CLSW and a raw replay read: R159 names the cause for loads (DEDUCED, log 55). -/
def State.sendMemory (s : State) (k : BitVec 5) (va count : Dword) (dest : Except Stop Name) : State :=
  if s.classDenied k then s.privilege
  else if 256 < count.toNat then s.fault 0x34 count
  else
    match s.selfSpan va 8 count.toNat with
    | .error e => s.stop e
    | .ok _ =>
      match dest with
      | .error e => s.stop e
      | .ok nm =>
        match s.selfBad va.toNat count.toNat with
        | some b => s.fault 0x1E (BitVec.ofNat 64 b)
        | none => s.sendFrom 4 k nm count.toNat (BitVec.ofNat 2048 (ofBytes (s.selfBytes va.toNat count.toNat)))

/-- SENDM (R219, R220). -/
def execSendm (d a b sc : BitVec 5) (s : State) : Host.Outcome State Fault Refusal :=
  .next (s.sendMemory sc (s.getG d) (s.getG b) (s.resolveName s.acc (s.getG a)))

/-- A raw message replayed at the own core: it is processed as though it had just left its recorded source and arrived, so
that source's interface retains it where the inbox refuses it (R221, R230). It counts as a message that is not resent (DESIGN
CHOICE, log 50). -/
def State.replayRaw (s : State) (va : Dword) : State :=
  let n := s.curCore
  match s.selfSpan va 8 64 with
  | .error e => s.stop e
  | .ok _ =>
    match s.selfBad va.toNat 64 with
    | some b => s.fault 0x1E (BitVec.ofNat 64 b)
    | none =>
      let h := BitVec.ofNat 512 (ofBytes (s.selfBytes va.toNat 64))
      let m0 := msgOfHeader h 0
      if m0.part ≠ s.me.st.partition ∨ m0.dest ≠ s.nameOf n ∨ m0.kind ≠ 0 ∨ 256 < m0.len then s.fault 0x38 va
      else
        match s.selfSpan va 8 (64 + m0.len) with
        | .error e => s.stop e
        | .ok _ =>
          match s.selfBad (va.toNat + 64) m0.len with
          | some b => s.fault 0x1E (BitVec.ofNat 64 b)
          | none =>
            let m := { m0 with payload := BitVec.ofNat 2048 (ofBytes (s.selfBytes (va.toNat + 64) m0.len)), retry := false }
            let s1 := if s.ownPanel n m.source then
                s.modCore (nameCore m.source) (fun c => { c with sent := c.sent ++ [m] })
              else s
            (s1.arrive n m).finish 4

/-- SENDL (R219, R230): bit 63 of b replays a raw message. -/
def execSendl (d b sc : BitVec 5) (s : State) : Host.Outcome State Fault Refusal :=
  if (s.getG b).getLsbD 63 then
    .next (if s.classDenied sc then s.privilege else s.replayRaw (s.getG d))
  else .next (s.sendMemory sc (s.getG d) (s.getG b) (.ok (s.nameOf s.curCore)))

/-- MRECV: the oldest held message that is not of a flow-tracked class, header and payload, into local store (R229). -/
def execMrecv (d a : BitVec 5) (s : State) : Host.Outcome State Fault Refusal :=
  let n := s.curCore
  let p := s.me.st.partition
  let va := s.getG a
  let mine := s.overflowSlot n p == some s.curSlot
  if !mine then .next (s.fault 0x36 s.noAddr)
  else if va.toNat % 64 ≠ 0 then .next (s.fault 0x03 va)
  else
    match s.selfSpan va 64 320 with
    | .error e => .next (s.stop e)
    | .ok _ =>
      match (s.core n).held.find? (fun h => h.msg.part == p && !(s.cls n h.msg.cls).flow) with
      | none => .next (s.write 4 d 0)
      | some h =>
        let bs := bytesOf 64 (msgHeader h.msg).toNat ++ payloadBytes h.msg
        let s1 := s.modCore n (fun c => { c with held := c.held.erase h })
        let s2 := s1.putWords n s.me.who none (wordsFrom va.toNat bs)
        .next (s2.write 4 d (BitVec.ofNat 64 bs.length))

/-! ### Names (R218) -/

/-- What NLOOK returns for a mapped core (R218); for a processor of a root chiplet the bits below 63 are free (log 14). -/
def State.nameInfo (s : State) (n : Nat) : Dword :=
  match s.kindOf n with
  | .grid =>
    BitVec.ofNat 64 (2 ^ 63 + s.zoneOfCore n * 2 ^ 26 + s.physCol n * 2 ^ 22 + s.physRow n * 2 ^ 18 + s.localCol n * 2 ^ 14 +
      s.rowOf n % 12 * 2 ^ 10 + s.chipY n * 2 ^ 5 + s.chipX n)
  | .edge e i => BitVec.ofNat 64 (2 ^ 63 + 2 ^ 62 + i * 2 ^ 5 + e)
  | _ => BitVec.ofNat 64 (2 ^ 63) ||| Config.freeDword s.tick

/-- NLOOK: a miss fills the name cache (R218). -/
def execNlook (d a : BitVec 5) (s : State) : Host.Outcome State Fault Refusal :=
  let x := s.getG a
  let n := x.toNat % 2 ^ 16
  if x.toNat / 2 ^ 16 ≠ 0 then .next (s.fault 0x30 x)
  else if s.nameKnown s.me.who n then .next ((s.fillName s.acc n).write 4 d (s.nameInfo n))
  else .next (s.write 4 d 0)

/-- NINV (R218). -/
def execNinv (a : BitVec 5) (s : State) : Host.Outcome State Fault Refusal :=
  let x := s.getG a
  let stays := fun (e : BitVec 6 × Nat) => x != BitVec.allOnes 64 && e.2 != x.toNat % 2 ^ 16
  .next ((s.modHere (fun c => { c with names := c.names.filter stays })).finish 4)

/-! ### Queue registers (R231 to R233) -/

/-- QCFGn (R231). -/
def QueueReg.config (r : QueueReg) : Dword :=
  BitVec.ofNat 64 (r.mode.toNat + 2 ^ 4 * natOfBool (r.writers != []) + 2 ^ 5 * natOfBool (r.readers != []) +
    2 ^ 8 * r.entries.length + 2 ^ 43 * r.cls.toNat + 2 ^ 48 * r.dest.toNat)

/-- QGET and C.QGET (R233). -/
def State.qget (s : State) (len : Nat) (d : BitVec 5) (q : BitVec 3) : State :=
  let n := s.curCore
  let r := s.queue n q
  if !s.ownsQueue q.toNat then s.fault 0x31 s.noAddr
  else if r.mode = 0 then s.fault 0x35 s.noAddr
  else
    match r.readers, r.entries with
    | [], x :: rest =>
      ((s.modQueue n q (fun r => { r with entries := rest })).serveQueue n q).write len d x
    | _, _ =>
      (s.modQueue n q (fun r => { r with readers := r.readers ++ [s.curSlot] })).parkAs len (.queueRead q false d)

/-- QGET (R233). -/
def execQget (d : BitVec 5) (qn : BitVec 3) (s : State) : Host.Outcome State Fault Refusal := .next (s.qget 4 d qn)

/-- VQGET (R233). -/
def execVqget (d : BitVec 4) (qn : BitVec 3) (s : State) : Host.Outcome State Fault Refusal :=
  let n := s.curCore
  let r := s.queue n qn
  if !s.ownsQueue qn.toNat then .next (s.fault 0x31 s.noAddr)
  else if r.mode = 0 then .next (s.fault 0x35 s.noAddr)
  else if r.readers = [] ∧ 8 ≤ r.entries.length then
    let s1 := (s.modQueue n qn (fun r => { r with entries := r.entries.drop 8 })).serveQueue n qn
    .next ((s1.setV d (ofLanes 64 ((r.entries.take 8).map BitVec.toNat))).finish 4)
  else
    .next ((s.modQueue n qn (fun r => { r with readers := r.readers ++ [s.curSlot] })).park
      (.queueRead qn true (d.setWidth 5)))

/-- QPUT and VQPUT in mode 3: a send to DEST of the own panel on CLASS (R233). -/
def State.queueSend (s : State) (q : BitVec 3) (xs : List Dword) : State :=
  let r := s.queue s.curCore q
  let nm := BitVec.ofNat 22 (s.here.panelId.toNat * 2 ^ 16 + r.dest.toNat)
  if s.classDenied r.cls then s.privilege
  else
    match s.resolveName s.acc (nm.setWidth 64) with
    | .error e => s.stop e
    | .ok nm => s.sendFrom 4 r.cls nm (8 * xs.length) (BitVec.ofNat 2048 (joinLanes 64 (xs.map BitVec.toNat)))

/-- QPUT and VQPUT with the values they add (R233). -/
def State.qput (s : State) (q : BitVec 3) (vec : Bool) (xs : List Dword) : State :=
  let n := s.curCore
  let r := s.queue n q
  if !s.ownsQueue q.toNat then s.fault 0x31 s.noAddr
  else if r.mode = 0 ∨ r.mode = 2 then s.fault 0x35 s.noAddr
  else if r.mode = 3 then s.queueSend q xs
  else if r.writers = [] ∧ (if vec then r.entries == [] else decide (r.entries.length < 8)) then
    (s.pushQueue n q xs).finish 4
  else (s.modQueue n q (fun r => { r with writers := r.writers ++ [s.curSlot] })).park (.queueWrite q vec xs)

/-- QPUT (R233). -/
def execQput (a : BitVec 5) (qn : BitVec 3) (s : State) : Host.Outcome State Fault Refusal :=
  .next (s.qput qn false [s.getG a])

/-- VQPUT (R233). -/
def execVqput (a : BitVec 4) (qn : BitVec 3) (s : State) : Host.Outcome State Fault Refusal :=
  .next (s.qput qn true ((List.range 8).map (fun k => BitVec.ofNat 64 (lane 64 k (s.getV a)))))

/-- QSTAT (R233). -/
def execQstat (d : BitVec 5) (qn : BitVec 3) (s : State) : Host.Outcome State Fault Refusal :=
  if !s.ownsQueue qn.toNat then .next (s.fault 0x31 s.noAddr)
  else .next (s.write 4 d (s.queue s.curCore qn).config)

/-! ### Class entries and channels (R224, R234, R237, R239) -/

/-- A class entry from a record: the RW fields, HEAD, TAIL, DUPS and DROPS zero (R223, R224). -/
def classOfRecord (r : Nat) : ClassEntry :=
  { ClassEntry.reset with
    base := bitsOf r 192 32, source := bitsOf r 106 22, expseq := bitsOf r 90 16, queue := bitsOf r 16 3,
    counter := bitsOf r 11 5, cnten := r.testBit 10, flow := r.testBit 9, fe := r.testBit 8, wrap := r.testBit 7,
    sizelog := bitsOf r 3 4, mode := bitsOf r 0 3 }

/-- Whether the reserved bits of a class record are zero and its fields agree with each other (R224). -/
def classRecordOk (r : Nat) : Bool :=
  let e := classOfRecord r
  r / 2 ^ 224 == 0 && r / 2 ^ 64 % 2 ^ 10 == 0 && r / 2 ^ 19 % 2 ^ 25 == 0 && decide (e.mode.toNat < 4) &&
    decide (e.sizelog.toNat < 13) && (e.mode != 2 || e.base.toNat % e.ringSize == 0) &&
    (e.mode != 1 || e.base.toNat % 8 == 0) && (!e.flow || (e.mode == 2 && !e.wrap))

/-- Whether a class entry's area lies in a share (R224). -/
def ClassEntry.inShare (e : ClassEntry) (share : Nat) : Bool :=
  match e.mode.toNat with
  | 1 => decide (e.base.toNat + 256 ≤ share)
  | 2 => decide (e.base.toNat + e.ringSize ≤ share)
  | _ => true

/-- CLSW of a class entry (R224). -/
def State.writeClass (s : State) (k : BitVec 5) (r : Nat) : State :=
  let n := s.curCore
  let e := classOfRecord r
  if k.toNat < 29 ∧ !s.ownsClass s.me.st.partition n k.toNat then s.fault 0x31 s.noAddr
  else if !classRecordOk r || !e.inShare (s.shareSize n s.me.who) then s.fault 0x32 s.noAddr
  else if e.cnten && !s.ownsCounter e.counter.toNat then s.fault 0x21 s.noAddr
  else if e.mode = 3 ∧ !s.ownsQueue e.queue.toNat then s.fault 0x31 s.noAddr
  else
    let held := (s.core n).held.filter (fun h => h.msg.cls == k)
    let s1 := s.modCls n k (fun _ => { e with drops := BitVec.ofNat 20 held.length })
    (s1.modCore n (fun c => { c with held := c.held.filter (fun h => h.msg.cls != k) })).finish 4

/-- A channel record from a record: S, C and SEQ zero, STALL and BROKEN clear (R234). -/
def channelOfRecord (r : Nat) (p : BitVec 6) (now : Nat) : Channel :=
  { Channel.reset with
    part := p, k := bitsOf r 128 32, dest := bitsOf r 106 22, cls := bitsOf r 101 5, probe := bitsOf r 69 16,
    valid := r.testBit 0, lastReturn := now }

/-- CLSW of a channel record (R234). It may write over a record of another partition, and the slots that wait on the record go on
waiting on it: the spec says neither (DESIGN CHOICE, log 55). -/
def State.writeChannel (s : State) (k : BitVec 5) (r : Nat) : State :=
  let n := s.curCore
  let p := s.me.st.partition
  let c := channelOfRecord r p s.ptime
  let idx : BitVec 6 := bitsOf r 232 6
  let reserved := r / 2 ^ 238 % 2 ^ 10 == 0 && r / 2 ^ 224 % 2 ^ 8 == 0 && r / 2 ^ 4 % 2 ^ 65 == 0 && !r.testBit 1
  let second : Bool := match s.channelFor n p c.dest c.cls with
    | some i => c.valid && i != idx
    | none => false
  if c.k.toNat < 8 ∨ 2 ^ 20 < c.k.toNat ∨ !reserved ∨ k ≠ 0 ∨ second then s.fault 0x32 s.noAddr
  else (s.modChan n idx (fun old => { c with waiters := old.waiters })).finish 4

/-- CLSW (R224, R234). -/
def execClsw (a cc : BitVec 5) (s : State) : Host.Outcome State Fault Refusal :=
  let va := s.getG a
  if s.classDenied cc then .next s.privilege
  else if va.toNat % 32 ≠ 0 then .next (s.fault 0x03 va)
  else
    match s.selfSpan va 32 32 with
    | .error e => .next (s.stop e)
    | .ok _ =>
      match s.selfBad va.toNat 32 with
      | some b => .next (s.fault 0x1E (BitVec.ofNat 64 b))
      | none =>
        let r := ofBytes (s.selfBytes va.toNat 32)
        let kind := r / 2 ^ 248
        if kind = 0 then .next (s.writeClass cc r)
        else if kind = 1 then .next (s.writeChannel cc r)
        else .next (s.fault 0x32 s.noAddr)

/-- CHFREE: a release at .co, TAIL advanced, and a return where the class is flow-tracked and one is due (R237). -/
def execChfree (a cc : BitVec 5) (s : State) : Host.Outcome State Fault Refusal :=
  let n := s.curCore
  let x : Word := (s.getG a).setWidth 32
  let e := s.cls n cc
  if s.classDenied cc then .next s.privilege
  else if cc.toNat < 29 ∧ !s.ownsClass s.me.st.partition n cc.toNat then .next (s.fault 0x31 s.noAddr)
  else if e.mode ≠ 2 ∨ (e.head - e.tail).toNat < x.toNat then .next (s.fault 0x32 (s.getG a))
  else
    .next (s.release 1 (fun s0 =>
      let s1 := s0.modCls n cc (fun e => { e with tail := e.tail + x, freed := e.freed + x.toNat })
      let e1 := s1.cls n cc
      let due := e1.flow && (decide (e1.ringSize ≤ 4 * e1.freed) || e1.tail == e1.head || e1.probed)
      (if due then s1.sendReturn n cc s.me.st.partition else s1).finish 4))

/-- Nanoseconds of 64 µs (R239). -/
def syncTime : Nat := 64000

/-- A CHSYNC request of kind 3 for a channel record (R239). -/
def State.syncRequest (s : State) (n : Nat) (idx : BitVec 6) : State :=
  let c := s.chan n idx
  s.transmit n { dest := c.dest, cls := c.cls, part := c.part, source := s.nameOf n, kind := 3, sslot := 0, seq := 0,
                 len := 0, retry := false, aux := 0, payload := 0 }

/-- CHSYNC (R239). A valid record of another partition counts as one that is not valid for the slot, 0x32: the spec is silent
(DESIGN CHOICE, log 55). -/
def execChsync (d a : BitVec 5) (s : State) : Host.Outcome State Fault Refusal :=
  let n := s.curCore
  let x := s.getG a
  let idx : BitVec 6 := x.setWidth 6
  let c := s.chan n idx
  if 63 < x.toNat ∨ !c.valid ∨ c.part ≠ s.me.st.partition then .next (s.fault 0x32 x)
  else .next ((s.park (.chsync d idx (s.ptime + syncTime))).syncRequest n idx)

/-! ### Steps of messages -/

/-- MESSAGE_ARRIVAL (R226). -/
def execMessageArrival (s : State) : Host.Outcome State Fault Refusal :=
  match s.arg with
  | .msg m => .next (s.arrive (nameCore m.dest) m)
  | _ => .next s

/-- HELD_MESSAGE_DEPOSIT (R227). -/
def execHeldMessageDeposit (s : State) : Host.Outcome State Fault Refusal :=
  match s.arg with
  | .coreClass n k => .next ((s.depositHeld n k).getD s)
  | _ => .next s

/-- Nanoseconds of a core's HOLD mesh cycles (R21, R228). -/
def Core.holdTime (c : Core) : Nat := c.hold.toNat / 2

/-- The held messages of a partition that MRECV may take and that HOLD has passed for (R228). -/
def State.overdue (s : State) (n : Nat) (p : BitVec 6) : List HeldMsg :=
  if (s.core n).handing p then []
  else ((s.core n).heldOf p).filter (fun h =>
    !(s.cls n h.msg.cls).flow && decide (h.since + (s.core n).holdTime ≤ s.ptime))

/-- HOLD_TIMEOUT: the overflow slot is woken; where there is none, the messages are discarded and counted (R228). -/
def execHoldTimeout (s : State) : Host.Outcome State Fault Refusal :=
  match s.arg with
  | .corePart n p =>
    let late := s.overdue n p
    if late = [] then .next s
    else if (s.overflowSlot n p).isSome then .next (s.overflowWake n p)
    else
      .next (late.foldl (fun t h =>
        ((t.modCore n (fun c => { c with held := c.held.erase h })).dropMsg n h.msg).log 0 n h.msg.cls.toNat
          (h.msg.source.setWidth 64)) s)
  | _ => .next s

/-- MESSAGE_REFUSAL: the source keeps the message and resends it after 256 mesh cycles (R221). -/
def execMessageRefusal (s : State) : Host.Outcome State Fault Refusal :=
  match s.arg with
  | .msg m =>
    .next (s.modCore (nameCore m.source) (fun c =>
      let m0 := { m with retry := false }
      { c with sent := c.sent.erase m0, retained := c.retained ++ [(s.ptime + retryTime, m0)] }))
  | _ => .next s

/-- Whether a refusal of a partition's message is still on its way back to core `n` from core `dest` (R221). -/
def State.refusalUnderWay (s : State) (n : Nat) (p : BitVec 6) (dest : Nat) : Bool :=
  s.due.any (fun d => match d.ev.kind, d.ev.arg with
    | .messageRefusal, .msg m => m.part == p && nameCore m.source == n && nameCore m.dest == dest
    | _, _ => false)

/-- A message of core `n` leaves again, ahead of everything that left the core after it (R176, R221). -/
def resent (n : Nat) (m : Msg) : Due :=
  { path := some (true, n, nameCore m.dest), ev := { kind := arrivalKind m, arg := .msg m } }

/-- REFUSAL_RESEND: the retained messages for a destination leave again in their order, RETRY on the first (R221). -/
def execRefusalResend (s : State) : Host.Outcome State Fault Refusal :=
  match s.arg with
  | .corePartDest n p dest =>
    let mine := fun (r : Nat × Msg) => r.2.part == p && r.2.dest == dest
    match (s.core n).retained.filter mine with
    | [] => .next s
    | first :: rest =>
      if s.ptime < first.1 || s.refusalUnderWay n p (nameCore dest) then .next s
      else
        let s1 := s.modCore n (fun c =>
          { c with retained := c.retained.filter (fun r => !mine r),
                   sent := c.sent ++ first.2 :: rest.map Prod.snd })
        .next { s1 with due := resent n { first.2 with retry := true } :: rest.map (fun r => resent n r.2) ++ s1.due }
  | _ => .next s

/-- The channel record of core `n` that a message of its receiver names. -/
def State.channelOf (s : State) (n : Nat) (m : Msg) : Option (BitVec 6) := s.channelFor n m.part m.source m.cls

/-- A message of kinds 1 to 4 at its destination: an isolated core's router discards it (R378), and one of a class that its
partition does not own there is discarded and logged (R448). -/
def State.ingress (s : State) (m : Msg) (k : State → State) : State :=
  let n := nameCore m.dest
  if (s.core n).isolated then s
  else if !s.ownsClass m.part n m.cls.toNat then s.log 0 n m.cls.toNat (m.source.setWidth 64)
  else k s

/-- CHANNEL_RETURN_ARRIVAL: C takes the count unless it is stale; STALL clears (R237, R238, R448). -/
def execChannelReturnArrival (s : State) : Host.Outcome State Fault Refusal :=
  match s.arg with
  | .msg m =>
    let n := nameCore m.dest
    .next (s.ingress m (fun s => match s.channelOf n m with
    | none => s
    | some idx =>
      let x : Word := m.aux.setWidth 32
      s.modChan n idx (fun c =>
        let c1 := { c with stall := false, probes := 0, lastReturn := s.ptime }
        if (x - c.c).toNat ≤ (c.s - c.c).toNat then { c1 with c := x } else c1)))
  | _ => .next s

/-- Nanoseconds of a channel's probe interval (R234). -/
def Channel.interval (c : Channel) : Nat := (if c.probe = 0 then 64 else c.probe.toNat) * 1000

/-- Whether a channel is to send a probe: a slot waits, and no return has come for the interval (R238). -/
def State.probeDue (s : State) (n : Nat) (idx : BitVec 6) : Bool :=
  let c := s.chan n idx
  c.valid && s.line n idx != [] && decide (c.lastReturn + c.interval ≤ s.ptime)

/-- CHANNEL_PROBE: a probe of kind 2; the sixteenth in a row sets STALL (R238). -/
def execChannelProbe (s : State) : Host.Outcome State Fault Refusal :=
  match s.arg with
  | .channel n idx =>
    let c := s.chan n idx
    if !s.probeDue n idx then .next s
    else
      let stall := decide (15 ≤ c.probes) && !c.stall
      let s1 := s.modChan n idx (fun c =>
        { c with probes := c.probes + 1, lastReturn := s.ptime, stall := c.stall || stall })
      let s2 := if stall then s1.log 0 n idx.toNat (c.dest.setWidth 64) else s1
      .next (s2.transmit n { dest := c.dest, cls := c.cls, part := c.part, source := s.nameOf n, kind := 2, sslot := 0,
                             seq := 0, len := 0, retry := false, aux := 0, payload := 0 })
  | _ => .next s

/-- CHANNEL_PROBE_ARRIVAL: every probe is answered with a return (R238, R448). -/
def execChannelProbeArrival (s : State) : Host.Outcome State Fault Refusal :=
  match s.arg with
  | .msg m =>
    let n := nameCore m.dest
    let e := s.cls n m.cls
    .next (s.ingress m (fun s => if !e.flow || e.source != m.source then s else s.sendReturn n m.cls m.part))
  | _ => .next s

/-- CHSYNC_REQUEST_ARRIVAL: a reply with HEAD and the record bytes of held messages of the sender, TAIL and EXPSEQ (R239);
AUX holds HEAD and TAIL, SEQ holds EXPSEQ. -/
def execChsyncRequestArrival (s : State) : Host.Outcome State Fault Refusal :=
  match s.arg with
  | .msg m =>
    let n := nameCore m.dest
    let e := s.cls n m.cls
    .next (s.ingress m (fun s =>
      let held := (s.core n).held.filter (fun h => h.msg.cls == m.cls && h.msg.source == m.source)
      let head := e.head + BitVec.ofNat 32 (held.foldl (fun a h => a + recordSize h.msg.len) 0)
      s.transmit n { m with dest := m.source, source := s.nameOf n, kind := 4, seq := e.expseq,
                            aux := BitVec.ofNat 64 (head.toNat + 2 ^ 32 * e.tail.toNat) }))
  | _ => .next s

/-- The slot that waits at CHSYNC for a record, with its destination. -/
def State.syncWaiter (s : State) (n : Nat) (idx : BitVec 6) : Option (SlotNo × BitVec 5) :=
  (List.finRange 16).findSome? (fun i =>
    match (s.slot n i).wait? with
    | some (.chsync d x _) => if x = idx then some (i, d) else none
    | _ => none)

/-- CHSYNC_REPLY_ARRIVAL: S, C and SEQ adopted, BROKEN and STALL clear, the slot goes on (R239). For a record under
resynchronisation the three values are kept for the rewind; once it is rewound a second reply changes nothing (R378). -/
def execChsyncReplyArrival (s : State) : Host.Outcome State Fault Refusal :=
  match s.arg with
  | .msg m =>
    let n := nameCore m.dest
    let head : Word := m.aux.setWidth 32
    let tail : Word := BitVec.ofNat 32 (m.aux.toNat / 2 ^ 32)
    .next (s.ingress m (fun s => match s.channelOf n m with
    | none => s
    | some idx =>
      let c := s.chan n idx
      if c.resync then
        (if c.resend = [] then s.modChan n idx (fun c => { c with answer := some (head, tail, m.seq) }) else s)
      else
        match s.syncWaiter n idx with
        | none => s
        | some (i, d) =>
          let s1 := s.modChan n idx (fun c =>
            { c with s := head, c := tail, seq := m.seq, broken := false, stall := false, probes := 0,
                     lastReturn := s.ptime })
          let v := BitVec.ofNat 64 ((head - tail).toNat + 2 ^ 32 * natOfBool c.broken)
          s1.modSlot n i (fun sl => { (sl.setG d v).finish with run := .waiting .rejoin })))
  | _ => .next s

/-- CHSYNC_TIMEOUT: no reply within 64 µs; the record stays as it is (R239). -/
def execChsyncTimeout (s : State) : Host.Outcome State Fault Refusal :=
  match s.arg with
  | .slot n i =>
    match (s.slot n i).wait? with
    | some (.chsync d idx dl) =>
      if s.ptime < dl then .next s
      else
        let c := s.chan n idx
        let v := BitVec.ofNat 64 ((c.s - c.c).toNat + 2 ^ 32 * natOfBool c.broken + 2 ^ 33)
        .next (s.modSlot n i (fun sl => { (sl.setG d v).finish with run := .waiting .rejoin }))
    | _ => .next s
  | _ => .next s

/-- FLOW_DEPOSIT_ACK: one flow-tracked message fewer is undeposited (R370). -/
def execFlowDepositAck (s : State) : Host.Outcome State Fault Refusal :=
  match s.arg with
  | .msg m =>
    .next (s.modCore (nameCore m.source) (fun c => { c with undeposited := c.undeposited.erase (m.part, m.dest, m.cls) }))
  | _ => .next s

end Sys2Proof.Machine
end

