-- ==== Sys2Proof/Machine/Engine.lean ====
section
/-!
DEFINITION. How an engine reads and writes memory for the slot that enqueued its command: the checks of R146 with the rights
of the recorded mode (R286, R305), walks included, then reads and writes piece by piece (R147, R159, R165, R178).
-/
namespace Sys2Proof.Machine

/-- The cause, never raised (R343), by which an engine's access tells that it must wait: its command stays where it is. -/
def notNow : BitVec 8 := 0

/-- Whether no bank of a partition's share on a core waits for its incoming data (R358). -/
def State.banksHere (s : State) (n : Nat) (p : BitVec 6) : Bool :=
  (s.core n).handovers.all (fun h => h.cmd.part != p || h.banks.isEmpty)

/-- Whether an engine's access must wait: for a bank of its target that is not yet restored, for the recovery of an isolated
core, or for what has left its core for the same core on the memory plane before it (R176, R358, R380). -/
def State.targetAway (s : State) (a : Acc) (size : Nat) : Target → Bool
  | .store c p => s.awaits c || s.dying c || (c != a.core && s.due.any (fun d => d.path == some (false, a.core, c))) || (match s.shareOffset c a.who p with
      | some o => (s.bankAway c a.who o size).isSome
      | none => false)
  | _ => false

/-- Whether an engine's access goes to an isolated core that will not be restored for its partition: 0x30 (R380). -/
def State.targetGone (s : State) (a : Acc) : Target → Bool
  | .store c _ => c != a.core && (s.core c).isolated && !(match a.who with
      | some p => s.comesBack c p
      | none => s.awaits c)
  | _ => false

/-- What a core's unit holds for an address, the page's and the name's walk made where it is missing; the target, or the
cause with its address (R135, R142, R146). -/
def State.engineTarget (s : State) (a : Acc) (k : AccKind) (size : Nat) (va : Dword) :
    Nat → State × Except (BitVec 8 × Dword) Target
  | 0 => (s, .error (0x11, va))
  | fuel + 1 =>
    match s.resolve a k size va with
    | .ok t =>
      if s.targetGone a t then (s, .error (0x30, va))
      else if s.targetAway a size t then (s, .error (notNow, va))
      else (s.plbTouch a va.toNat, .ok t)
    | .error (.fault c x) => (s, .error (c, x))
    | .error (.wait (.bank _)) => (s, .error (notNow, va))
    | .error (.wait (.discarded _)) => (s.contain a.core 0 va, .error (notNow, va))
    | .error (.wait (.nameWalk t _)) =>
      if s.nameKnown a.who t then (s.fillName a t).engineTarget a k size va fuel else (s, .error (0x30, va))
    | .error (.wait _) =>
      match s.walk a.who va.toNat with
      | .error c => (s, .error (c, va))
      | .ok _ => (s.plbFill a va.toNat).engineTarget a k size va fuel

/-- The checks of an engine's access of `size` bytes within one line. -/
def State.engineCheck (s : State) (a : Acc) (k : AccKind) (size : Nat) (va : Dword) :
    State × Except (BitVec 8 × Dword) Target :=
  s.engineTarget a k size va 3

/-- `n` bytes from address `va` cut at the lines' boundaries: address and length of each piece. -/
def linePieces (va n : Nat) : List (Nat × Nat) :=
  (linesOf va n).map (fun l =>
    let lo := max l va
    (lo, min (l + 64) (va + n) - lo))

/-- Bytes read at a checked target; the core's buffered stores to a cached line drain into the chiplet cache before it is read
(R165, R286, R306). -/
def State.engineGet (s : State) (a : Acc) (n : Nat) (va : Dword) : Target → State × Except (BitVec 8 × Dword) Nat
  | .self p | .store _ p =>
    match s.badIn p n with
    | some b => (s, .error (0x1E, va + BitVec.ofNat 64 (b - p)))
    | none => (s.countSoft p n, .ok (s.peek p n))
  | .cached v i =>
    match s.translate a.who v i.place with
    | (s1, .error c) => (s1, .error (c, va))
    | (s1, .ok _) =>
      match (if s.isGrid a.core then s1.drainLine a.core (lineBase v) else s1).readCached a v n i with
      | (s2, .ok x) => (s2, .ok x)
      | (s2, .error (.fault c x)) => (s2, .error (c, x))
      | (s2, .error (.wait _)) => (s2, .error (0x11, va))
  | .uncached _ v i =>
    match s.translate a.who v i.place with
    | (s1, .error c) => (s1, .error (c, va))
    | (s1, .ok p) =>
      match s1.badIn p.1 n with
      | some b => (s1, .error (0x1E, va + BitVec.ofNat 64 (b - p.1)))
      | none => (s1.countSoft p.1 n, .ok (s1.peek p.1 n))
  | .control v =>
    (s, .ok (ofBytes ((List.range n).map (fun k => byteAt (s.controlRead (v + k) 1).toNat 0))))

/-- The pieces of a read, checked and read in ascending order: the bytes, or the first fault. -/
def State.engineReadPieces (s : State) (a : Acc) (k : AccKind) :
    List (Nat × Nat) → State × Except (BitVec 8 × Dword) (List Byte)
  | [] => (s, .ok [])
  | (va, n) :: rest =>
    match s.engineCheck a k n (BitVec.ofNat 64 va) with
    | (s1, .error e) => (s1, .error e)
    | (s1, .ok t) =>
      match s1.engineGet a n (BitVec.ofNat 64 va) t with
      | (s2, .error e) => (s2, .error e)
      | (s2, .ok x) =>
        match s2.engineReadPieces a k rest with
        | (s3, .error e) => (s3, .error e)
        | (s3, .ok bs) => (s3, .ok (bytesOf n x ++ bs))

/-- `n` bytes from an address. -/
def State.engineRead (s : State) (a : Acc) (k : AccKind) (va n : Nat) :
    State × Except (BitVec 8 × Dword) (List Byte) :=
  s.engineReadPieces a k (linePieces va n)

/-- Words of 8 bytes written from a physical address upward, each with its full bit and scope in the same step (R178). Tells
whether bytes were discarded. -/
def State.putFull (s : State) (p : Nat) (sc : BitVec 2) (bs : List Byte) : State × Bool :=
  (wordsFrom p bs).foldl (fun r w =>
    let q := r.1.put w.1 w.2
    (q.1.fillWord w.1 sc, r.2 || q.2)) (s, false)

/-- The wider of two recorded scopes. -/
def widest (a b : BitVec 2) : BitVec 2 := if a.toNat < b.toNat then b else a

/-- Bytes of one line written at a checked target for slot `i`: full words at a scope where one is given, paged lines at
the scope's point of coherence (R173, R178, R289). What an uncorrectable unit discards is reported to the slot later
(R159). -/
def State.enginePut (s : State) (a : Acc) (i : SlotNo) (scope : BitVec 3) (full : Option (BitVec 2)) (va : Dword)
    (bs : List Byte) (t : Target) : State :=
  let late := fun (r : State × Bool) => if r.2 then r.1.defer a.core i 0x1E va else r.1
  let at_ := fun (n p : Nat) =>
    match full with
    | some sc => late (s.putFull p (widest sc (s.distance a.core n)) bs)
    | none => late (s.put p bs)
  match t with
  | .self p => at_ a.core p
  | .store c p => at_ c p
  | .cached v inf =>
    if scope.toNat < 3 ∧ s.isGrid a.core then
      if s.tornAt a v bs.length inf.place then s.defer a.core i 0x1E va else s.writeChip a v inf bs
    else
      let r := s.writeLlc a v inf bs
      match r.2 with
      | some c => if c = 0x1E then r.1.defer a.core i 0x1E va else r.1.log c a.core i.val va
      | none => r.1
  | .uncached _ v inf =>
    match s.translate a.who v inf.place with
    | (s1, .error c) => s1.log c a.core i.val va
    | (s1, .ok p) =>
      let r := s1.put p.1 bs
      if r.2 then r.1.defer a.core i 0x1E va else r.1
  | .control v => s.controlSteps a.core (wordsFrom v bs) []

end Sys2Proof.Machine
end

