-- ==== Sys2Proof/Machine/Matrix.lean ====
section
/-!
DEFINITION. The matrix unit, majors 0x2A and 0x2B (R273 to R302), and the formats only it reads (R77 to R79).
-/
namespace Sys2Proof.Machine

/-! ### Formats (R77 to R79) -/

/-- What an operand's element is: of a vector type, or one of the encodings of R77. -/
inductive MatElem where
  | ty (t : ElemTy)
  | t2
  | b1
  deriving DecidableEq, Repr

/-- A matrix operand format: element, width in memory, elements a scale byte covers (0 for none) and group size (R78,
R280). -/
structure MatFmt where
  elem : MatElem
  width : Nat
  block : Nat
  group : Nat
  deriving DecidableEq, Repr

/-- The matrix operand formats by code (R78). -/
def matFmt (c : Nat) : MatFmt :=
  let f := fun (x : Fmt) (w b g : Nat) => (⟨.ty (.flt x), w, b, g⟩ : MatFmt)
  let n := fun (sg : Bool) (w b g : Nat) => (⟨.ty (.int sg w), w, b, g⟩ : MatFmt)
  match c with
  | 0 => f fmtF32 32 0 8
  | 1 => f fmtF19 32 0 8
  | 2 => f fmtF16 16 0 16
  | 3 => f fmtBF16 16 0 16
  | 4 => f fmtE5M2 8 0 32
  | 5 => f fmtE4M3 8 0 32
  | 6 => f fmtE3M4 8 0 32
  | 7 => f fmtE3M2 6 0 32
  | 8 => f fmtE2M3 6 0 32
  | 9 => f fmtE2M1 4 0 32
  | 10 => n true 16 0 16
  | 11 => n true 8 0 32
  | 12 => n false 8 0 32
  | 13 => n true 4 0 32
  | 14 => n false 4 0 32
  | 15 => n true 2 0 32
  | 16 => ⟨.t2, 2, 0, 32⟩
  | 17 => ⟨.b1, 1, 0, 32⟩
  | 18 => f fmtE5M2 8 32 32
  | 19 => f fmtE4M3 8 32 32
  | 20 => f fmtE3M2 6 32 32
  | 21 => f fmtE2M3 6 32 32
  | 22 => f fmtE2M1 4 32 32
  | 23 => n true 8 32 32
  | 24 => n true 4 32 32
  | 25 => f fmtE2M1 4 16 16
  | 26 => n true 4 16 16
  | _ => f fmtE3M2 6 16 16

/-- An integer as an exact value. -/
def fvalOfInt (v : Int) : FVal := .fin (decide (v < 0)) v.natAbs 0

/-- The value of an element (R77, R279). -/
def MatElem.value (e : MatElem) (x : Nat) : FVal :=
  match e with
  | .ty (.flt f) => f.decode x
  | .ty (.int sg w) => fvalOfInt (intOf sg w x)
  | .t2 => fvalOfInt (if x % 4 = 1 then 1 else if x % 4 = 3 then -1 else 0)
  | .b1 => fvalOfInt (if x % 2 = 0 then 1 else -1)

/-- A value times the block scale of byte `e`: NaN for 255 (R79). -/
def scaled (v : FVal) (e : Nat) : FVal :=
  if e = 255 then .nan false
  else
    match v with
    | .fin n m x => .fin n m (x + ((e : Int) - 127))
    | other => other

/-! ### The record (R275, R276) -/

/-- bits(record, hi, lo). -/
def recField (r : BitVec 512) (hi lo : Nat) : Nat := fieldOf r hi lo

/-- The OP of a record. -/
def matOp (r : BitVec 512) : Nat := recField r 7 0
/-- The tile of a record. -/
def matTile (r : BitVec 512) : Nat := recField r 27 23

/-- Memory formats (R276). -/
def memFormat (c : Nat) : Bool := decide (c ≤ 6) || (decide (9 ≤ c) && decide (c ≤ 14))

/-- Bytes of a memory row of 16 elements (R276). -/
def rowBytes (c : Nat) : Nat := 2 * (matFmt c).width

/-- Whether a record is valid for a queue, in split mode or not (R276). -/
def recordValid (r : BitVec 512) (split : Bool) (q : BitVec 1) : Bool :=
  let f := recField r
  let op := matOp r
  let multiply := op == 1 || op == 2
  let move := op == 4 || op == 5 || op == 6
  let fa := f 12 8
  let fb := f 17 13
  let scales := fun (used : Bool) (addr stride : Nat) => used || (addr == 0 && stride == 0)
  decide (1 ≤ op) && decide (op ≤ 6) && f 511 416 == 0 && f 63 62 == 0 &&
  (if multiply then decide (fa ≤ 27) && decide (fb ≤ 27) else fa == 0 && fb == 0) &&
  (if move then memFormat (f 22 18) else f 22 18 == 0) &&
  (multiply || f 35 28 == 0) &&
  (if multiply then f 127 64 % 64 == 0 && f 159 128 % 64 == 0 && f 255 192 % 64 == 0 && f 191 160 % 64 == 0
   else f 255 192 == 0 && f 191 160 == 0 &&
    (if move then f 127 64 % 8 == 0 && f 159 128 % 8 == 0 else f 127 64 == 0 && f 159 128 == 0)) &&
  scales (multiply && (matFmt fa).block != 0) (f 319 256) (f 399 384) &&
  scales (multiply && (matFmt fb).block != 0) (f 383 320) (f 415 400) &&
  (if move then f 48 46 != 7 && (f 60 60 == 0 || f 22 18 == 0)
   else f 48 46 == 0 && f 49 49 == 0 && f 51 51 == 0 && f 60 60 == 0) &&
  (if op = 6 then f 50 50 == 1 else op == 5 || f 50 50 == 0) &&
  (if op = 5 ∨ op = 6 then decide (1 ≤ f 54 52) && decide (f 54 52 ≤ 4) else f 54 52 == 0) &&
  (if op = 6 then decide (f 59 55 ≤ 28) && decide (f 127 64 + 15 * f 159 128 + rowBytes (f 22 18) ≤ 0x200000)
   else f 59 55 == 0) &&
  (!split || matTile r / 16 == q.toNat)

/-- Whether a record is stochastic (R284). -/
def stochasticRecord (r : BitVec 512) : Bool :=
  (matOp r == 4 || matOp r == 5 || matOp r == 6) && recField r 60 60 == 0 && recField r 48 46 == 5

/-- Whether a command of an OP writes the tile it names (R297). -/
def writesTile (op : Nat) : Bool := decide (1 ≤ op) && decide (op ≤ 4)

/-! ### Ownership (R273) -/

/-- Partitions that own the matrix unit of a core. -/
def State.matOwners (s : State) (n : Nat) : List (BitVec 6 × BitVec 1) :=
  s.layout.parts.filterMap (fun e =>
    let p := BitVec.ofNat 6 e.1
    if s.isGrid n && s.inRegion p n then e.2.matrix.map (fun q => (p, q)) else none)

/-- Whether the unit of a core is in split mode. -/
def State.matSplit (s : State) (n : Nat) : Bool := decide (2 ≤ (s.matOwners n).length)

/-- Whether a partition owns a queue of a core. -/
def State.ownsMatQueue (s : State) (p : BitVec 6) (n : Nat) (q : BitVec 1) : Bool :=
  (s.matOwners n).any (fun o => o.1 == p && (!s.matSplit n || o.2 == q))

/-- Whether a partition owns a tile of a core. -/
def State.ownsTile (s : State) (p : BitVec 6) (n : Nat) (t : Nat) : Bool :=
  s.ownsMatQueue p n (BitVec.ofNat 1 (t / 16))

/-! ### Queues and tiles -/

/-- A matrix queue of a core. -/
def State.mat (s : State) (n : Nat) (q : BitVec 1) : MatQueue := (s.core n).mq.get q.toFin

/-- A matrix queue changed. -/
def State.modMat (s : State) (n : Nat) (q : BitVec 1) (f : MatQueue → MatQueue) : State :=
  s.modCore n (fun c => { c with mq := c.mq.set q.toFin (f (c.mq.get q.toFin)) })

/-- The entries of a queue: commands whose array work has not ended (R274). -/
def MatQueue.live (m : MatQueue) : List MatCmd := m.entries.filter (fun e => !e.done)

/-- The head command. -/
def MatQueue.headCmd (m : MatQueue) : Option MatCmd := m.live.head?

/-- An entry of a queue changed. -/
def MatQueue.modCmd (m : MatQueue) (id : Nat) (f : MatCmd → MatCmd) : MatQueue :=
  { m with entries := m.entries.map (fun e => if e.id = id then f e else e) }

/-- A tile of a core. -/
def State.tile (s : State) (n t : Nat) : BitVec 8192 := (s.core n).tiles.get (Fin.ofNat 32 t)

/-- Value (r, c) of a tile. -/
def tileAt (t : BitVec 8192) (r c : Nat) : Nat := t.toNat / 2 ^ (512 * r + 32 * c) % 2 ^ 32

/-- Row `r` of a tile. -/
def tileRow (t : BitVec 8192) (r : Nat) : VReg := bitsOf t.toNat (512 * r) 512

/-- A tile with row `r` replaced. -/
def setTileRow (t : BitVec 8192) (r : Nat) (x : VReg) : BitVec 8192 :=
  BitVec.ofNat 8192 (t.toNat - (tileRow t r).toNat * 2 ^ (512 * r) + x.toNat * 2 ^ (512 * r))

/-- A tile of a core written. -/
def State.setTile (s : State) (n t : Nat) (x : BitVec 8192) : State :=
  s.modCore n (fun c => { c with tiles := c.tiles.set (Fin.ofNat 32 t) x })

/-- Sticky flags of a queue (R293): invalid, overflow, underflow, inexact of a list of float flags. -/
def MatQueue.orFlags (m : MatQueue) (f : BitVec 5) : MatQueue :=
  { m with nv := m.nv || f.getLsbD 4, ovf := m.ovf || f.getLsbD 2, uf := m.uf || f.getLsbD 1, nx := m.nx || f.getLsbD 0 }

/-- Whether the head command waits for its term (R293). -/
def MatQueue.heldHead (m : MatQueue) : Bool :=
  match m.headCmd with
  | some e => recField e.record 40 40 == 1 && !e.fired
  | none => false

/-- STATE of a queue (R293). -/
def MatQueue.stateCode (m : MatQueue) : Nat :=
  if 2 ≤ m.state.toNat then m.state.toNat else if m.live = [] then 0 else 1

/-- The status register of a queue (R293). -/
def MatQueue.status (m : MatQueue) (split : Bool) : Dword :=
  let slot := match m.headCmd with
    | some e => e.slot.val
    | none => 0
  BitVec.ofNat 64 (m.stateCode + 2 ^ 2 * natOfBool m.heldHead + 2 ^ 3 * m.live.length + 2 ^ 7 * natOfBool m.nx +
    2 ^ 8 * natOfBool m.uf + 2 ^ 9 * natOfBool m.ovf + 2 ^ 10 * natOfBool m.nv + 2 ^ 11 * natOfBool m.sat +
    2 ^ 12 * natOfBool m.nc + 2 ^ 13 * natOfBool split + 2 ^ 20 * slot + 2 ^ 24 * m.doneCount.toNat +
    2 ^ 40 * m.opnd.toNat + 2 ^ 44 * m.row.toNat + 2 ^ 48 * m.kstep.toNat + 2 ^ 56 * m.fcause.toNat)

/-! ### MCMD, MRESUME, MABORT, MSTAT, MMAP -/

/-- A matrix instruction on a queue: illegal where there is no unit, 0x52 on a queue of another partition (R160, R273,
R426). -/
def State.onMatrix (s : State) (i : Instr) (q : BitVec 1) (k : State) : State :=
  if !s.isGrid s.curCore then s.illegal (wordOf i)
  else if !s.ownsMatQueue s.me.st.partition s.curCore q then s.fault 0x52 s.noAddr
  else k

/-- A record enqueued by slot `i` of core `n`, whose MCMD retires (R89, R284, R286). Its number is unique in the panel, so that a
command keeps it where a handover takes it to another core (R299). -/
def State.enqueueMat (s : State) (n : Nat) (i : SlotNo) (q : BitVec 1) (r : BitVec 512) : State :=
  let sl := s.slot n i
  let e : MatCmd := { id := (s.core n).nextCmd * 2 ^ 16 + n, record := r, slot := i, mode := sl.st.mode, part := sl.st.partition,
                      seed := sl.fp.seed, draw := sl.fp.draw, fired := false, started := false, kstep := 0, row := 0,
                      done := false }
  let s1 := (s.modMat n q (fun m => { m with entries := m.entries ++ [e] })).modCore n
    (fun c => { c with nextCmd := c.nextCmd + 1 })
  let drawn := if stochasticRecord r then sl.fp.draw + 1 else sl.fp.draw
  s1.modSlot n i (fun sl => { { sl with ilen := 4, fp := { sl.fp with draw := drawn } }.finish with run := .running })

/-- MCMD's effect once its wait is over: a deferred fault is taken, or the copy of its record is enqueued (R159, R284). -/
def State.mcmdDone (s : State) (n : Nat) (i : SlotNo) (q : BitVec 1) (r : BitVec 512) : State :=
  match (s.slot n i).deferred with
  | some d => (s.modSlot n i (fun sl => { sl with deferred := none })).turnFault n i d.1 d.2
  | none => s.enqueueMat n i q r

/-! ### Records in the self window -/

/-- A record of `size` bytes that an instruction reads from the self window: misalignment faults 0x03, another window the
chapter's cause, a record beyond the share 0x14, uncorrectable data 0x1E; it comes after the slot's own posted writes of the
same bytes (R148, R166, R284, R305, R316, R317). -/
def State.selfRecord (s : State) (size : Nat) (outside : BitVec 8) (p : Dword) : Except Stop Nat :=
  if p.toNat % size ≠ 0 then .error (.fault 0x03 p)
  else if 0x200000 ≤ p.toNat then .error (.fault outside p)
  else if !s.inShare s.curCore s.me.who p.toNat size then .error (.fault 0x14 p)
  else
    match s.bankReady s.curCore s.me.who p.toNat size with
    | .error e => .error e
    | .ok _ =>
      let a := s.sharePhys s.curCore s.me.who p.toNat
      if s.ownPosted s.curCore s.curSlot true (some a) p.toNat size then .error (.wait (.ordered true (some a) p.toNat size))
      else
        match s.badIn a size with
        | some b => .error (.fault 0x1E (p + BitVec.ofNat 64 (b - a)))
        | none => .ok (s.peek a size)

/-- The state after a record has been read: its single-bit errors are counted (R158). -/
def State.noteRecord (s : State) (size : Nat) (p : Dword) : State :=
  s.countSoft (s.sharePhys s.curCore s.me.who p.toNat) size

/-- MCMD (R284, R313). -/
def State.mcmd (s : State) (q : BitVec 1) (p : Dword) : State :=
  let n := s.curCore
  match s.selfRecord 64 0x50 p with
  | .error e => s.stop e
  | .ok x =>
    let s := s.noteRecord 64 p
    let r : BitVec 512 := BitVec.ofNat 512 x
    if recField r 40 40 = 1 ∧ !s.ownsTerm (recField r 39 36) then s.fault 0x63 s.noAddr
    else if !recordValid r (s.matSplit n) q then s.fault 0x50 p
    else if recField r 61 61 = 1 ∧ !s.ownsCounter (recField r 45 41) then s.fault 0x21 s.noAddr
    else if !s.released n s.curSlot 1 || decide (2 ≤ (s.mat n q).live.length) then s.park (.matrixRoom q r)
    else s.release 1 (fun t => t.enqueueMat n t.curSlot q r)

/-- MCMD Qn, [a] (R284). -/
def execMcmd (a : BitVec 5) (qn : BitVec 1) (s : State) : Host.Outcome State Fault Refusal :=
  .next (s.onMatrix (.mcmd a qn) qn (s.mcmd qn (s.getG a)))

/-- MRESUME Qn (R292). -/
def execMresume (qn : BitVec 1) (s : State) : Host.Outcome State Fault Refusal :=
  .next (s.onMatrix (.mresume qn) qn
    (if (s.mat s.curCore qn).state = 2 then (s.modMat s.curCore qn (fun m => { m with state := 1 })).finish 4
     else s.fault 0x54 s.noAddr))

/-- Whether a slot of a core waits for a queue to be aborted (R294). -/
def Core.aborting (c : Core) (q : BitVec 1) : Bool := c.slots.toList.any (fun sl => sl.wait? == some (.matrixAbort q))

/-- Messages of a command's STSPR that its destinations have not accepted (R288). -/
def State.stsprPending (s : State) (e : MatCmd) : Bool :=
  let mine := fun (m : Msg) => m.kind == 9 && m.cmd == e.id
  s.due.any (fun d => match d.ev.arg with
    | .msg m => mine m
    | _ => false) || s.cores.any (fun c => c.2.retained.any (fun r => mine r.2))

/-- Whether a queue's issued writes are all acknowledged and the commands that have left the array are complete (R294). -/
def State.matQuiet (s : State) (n : Nat) (q : BitVec 1) : Bool :=
  (s.mat n q).entries.all (fun e => !e.done && !(matOp e.record == 6 && s.stsprPending e))

/-- A queue emptied: its entries, flags, MPROG, FCAUSE, OPND and HELD, STATE 0 (R294). -/
def MatQueue.cleared (m : MatQueue) : MatQueue :=
  { m with entries := [], fcause := 0, kstep := 0, row := 0, opnd := 0, nc := false, sat := false, nv := false,
           ovf := false, uf := false, nx := false, state := 0 }

/-- MABORT Qn (R294). -/
def execMabort (qn : BitVec 1) (s : State) : Host.Outcome State Fault Refusal :=
  .next (s.onMatrix (.mabort qn) qn
    (if s.matQuiet s.curCore qn then (s.modMat s.curCore qn MatQueue.cleared).finish 4 else s.park (.matrixAbort qn)))

/-- MSTAT d, Qn (R292, R293). -/
def execMstat (d : BitVec 5) (qn : BitVec 1) (s : State) : Host.Outcome State Fault Refusal :=
  .next (s.onMatrix (.mstat d qn) qn
    ((s.setG d ((s.mat s.curCore qn).status (s.matSplit s.curCore))).finish 4))

/-- MMAP Qn, a, b (R291). -/
def execMmap (a b : BitVec 5) (qn : BitVec 1) (s : State) : Host.Outcome State Fault Refusal :=
  let x := s.getG a
  let y := s.getG b
  .next (s.onMatrix (.mmap a b qn) qn
    (if x.toNat / 16 ≠ 0 ∨ y.toNat / 2 ^ 17 ≠ 0 then s.fault 0x55 s.noAddr
     else if (s.mat s.curCore qn).live ≠ [] then s.park (.matrixEmpty qn)
     else
       (s.modMat s.curCore qn (fun m =>
         { m with map := m.map.set (Fin.ofNat 16 x.toNat)
                    (if y.getLsbD 16 then none else some (y.setWidth 16)) })).finish 4))

/-! ### MMOV and MMOVW (R297) -/

/-- The commands of a core that MMOV or MMOVW of a tile waits for: those that write it, or those that name it. -/
def State.tileUsers (s : State) (n t : Nat) (writers : Bool) : List Nat :=
  (((s.mat n 0).entries ++ (s.mat n 1).entries).filter (fun e =>
    matTile e.record == t && (!writers || writesTile (matOp e.record)))).map MatCmd.id

/-- Whether none of the commands named is left. -/
def State.cmdsGone (s : State) (n : Nat) (ids : List Nat) : Bool :=
  ((s.mat n 0).entries ++ (s.mat n 1).entries).all (fun e => !ids.contains e.id)

/-- MMOV's effect on slot `i`: the row read, or 0x53 of a tile in error (R296, R297). -/
def State.mmovDone (s : State) (n : Nat) (i : SlotNo) (d : BitVec 4) (t : BitVec 5) (row : BitVec 4) : State :=
  if (s.core n).badTiles.contains t.toNat then s.turnFault n i 0x53 0
  else s.modSlot n i (fun sl =>
    { { (sl.setV d (tileRow (s.tile n t.toNat) row.toNat)) with ilen := 4 }.finish with run := .running })

/-- MMOVW's effect for slot `i` (R297). -/
def State.mmovwDone (s : State) (n : Nat) (i : SlotNo) (x : VReg) (t : BitVec 5) (row : BitVec 4) : State :=
  (s.setTile n t.toNat (setTileRow (s.tile n t.toNat) row.toNat x)).modSlot n i (fun sl =>
    { { sl with ilen := 4 }.finish with run := .running })

/-- MMOV vd, tile, row (R297). -/
def execMmov (d : BitVec 4) (ty : BitVec 5) (row : BitVec 4) (s : State) : Host.Outcome State Fault Refusal :=
  let n := s.curCore
  if !s.isGrid n then .next (s.illegal (wordOf (.mmov d ty row)))
  else if !s.ownsTile s.me.st.partition n ty.toNat then .next (s.fault 0x52 s.noAddr)
  else
    match s.tileUsers n ty.toNat true with
    | [] =>
      if s.here.badTiles.contains ty.toNat then .next (s.fault 0x53 0) else .next (s.mmovDone n s.curSlot d ty row)
    | ids => .next (s.park (.mmov d ty row ids))

/-- MMOVW vd, tile, row (R297). -/
def execMmovw (d : BitVec 4) (ty : BitVec 5) (row : BitVec 4) (s : State) : Host.Outcome State Fault Refusal :=
  let n := s.curCore
  if !s.isGrid n then .next (s.illegal (wordOf (.mmovw d ty row)))
  else if !s.ownsTile s.me.st.partition n ty.toNat then .next (s.fault 0x52 s.noAddr)
  else
    match s.tileUsers n ty.toNat false with
    | [] => .next (s.mmovwDone n s.curSlot (s.getV d) ty row)
    | ids => .next (s.park (.mmovw (s.getV d) ty row ids))

/-! ### The array (R285) -/

/-- Whether a command comes after an MMOVW of its tile that has issued and not yet taken effect: it must see that value (R180,
R297). -/
def Core.afterMmovw (c : Core) (e : MatCmd) : Bool :=
  c.slots.toList.any (fun sl => match sl.wait? with
    | some (.mmovw _ t _ ids) => t.toNat == matTile e.record && !ids.contains e.id
    | _ => false)

/-- Whether a queue's head command is runnable (R285); not while banks of its partition are being exchanged (R358). -/
def State.runnable (s : State) (n : Nat) (q : BitVec 1) : Bool :=
  let m := s.mat n q
  match m.headCmd with
  | none => false
  | some e =>
    let earlier := ((s.mat n 0).entries ++ (s.mat n 1).entries).filter (fun x => decide (x.id < e.id))
    let reads := matOp e.record == 1 || matOp e.record == 2 || matOp e.record == 4
    decide (m.state.toNat < 2) && !m.heldHead && !(s.slot n e.slot).parked && !(s.core n).aborting q && !e.started &&
    !(s.core n).afterMmovw e && s.banksHere n e.part &&
    earlier.all (fun x => matTile x.record != matTile e.record) &&
    (!reads || m.entries.all (fun x => decide (e.id ≤ x.id) || !(matOp x.record == 5 || matOp x.record == 6)))

/-- Whether a command of a queue occupies the array. -/
def MatQueue.busy (m : MatQueue) : Bool := m.live.any (fun e => e.started)

/-- The queue whose head the array of a core takes next (R273, R285): in joined mode Q0 and Q1 in turn, in split mode each
half its own. -/
def State.arrayNext (s : State) (n : Nat) : Option (BitVec 1) :=
  let can := fun q => s.runnable n q && !(s.mat n q).busy
  if s.matSplit n then (if can 0 then some 0 else if can 1 then some 1 else none)
  else if (s.mat n 0).busy || (s.mat n 1).busy then none
  else
    let first : BitVec 1 := (s.core n).lastTaken + 1
    if can first then some first else if can (first + 1) then some (first + 1) else none

/-- Cycles for which a k-step or a row of a command occupies the array, in split mode twice as many (R277, R287). -/
def State.stepCycles (s : State) (n : Nat) (r : BitVec 512) : Nat :=
  let six := (matFmt (recField r 12 8)).width == 6 || (matFmt (recField r 17 13)).width == 6
  let k := if matOp r = 1 ∨ matOp r = 2 then (if six then 64 else 48) else 1
  if s.matSplit n then 2 * k else k

/-- MATRIX_COMMAND_START: the array takes a runnable head (R285), whose first k-step or row takes its cycles (R287). -/
def execMatrixCommandStart (s : State) : Host.Outcome State Fault Refusal :=
  match s.arg with
  | .core n =>
    match s.arrayNext n with
    | none => .next s
    | some q =>
      match (s.mat n q).headCmd with
      | none => .next s
      | some e =>
        .next ((s.modMat n q (fun m => m.modCmd e.id (fun x =>
            { x with started := true, busyTo := (s.core n).t + s.stepCycles n e.record }))).modCore n
          (fun c => { c with lastTaken := q }))
  | _ => .next s

/-! ### Faults of a running command (R295, R296) -/

/-- A queue halted at a k-step or row with a cause, reported to the issuing slot as 0x51 (R295). A command whose access must
wait stays where it is. -/
def State.haltMat (s : State) (n : Nat) (q : BitVec 1) (e : MatCmd) (row opnd : Nat) (c : BitVec 8) (addr : Dword) :
    State :=
  if c = notNow then s
  else
  (s.modMat n q (fun m =>
    { (m.modCmd e.id (fun x => { x with started := false })) with
      state := 2, fcause := c, kstep := BitVec.ofNat 8 e.kstep, row := BitVec.ofNat 4 row,
      opnd := BitVec.ofNat 3 opnd })).directTo n e.slot e.part 0x51 addr

/-- A queue halted for good by an uncorrectable error (R296); OPND names the tile where the error is in it. -/
def State.killMat (s : State) (n : Nat) (q : BitVec 1) (e : MatCmd) : State :=
  (s.modMat n q (fun m =>
    { (m.modCmd e.id (fun x => { x with started := false })) with
      state := 3, fcause := 0x53, kstep := BitVec.ofNat 8 e.kstep, row := BitVec.ofNat 4 e.row,
      opnd := 5 })).directTo n e.slot e.part 0x53 0

/-- MATRIX_STATE_ERROR: the head command meets an uncorrectable error, in its tile or in the queued state (R296). -/
def execMatrixStateError (s : State) : Host.Outcome State Fault Refusal :=
  match s.arg with
  | .matrixQueue n q =>
    match (s.mat n q).headCmd with
    | none => .next s
    | some e =>
      let t := matTile e.record
      let s1 := if Config.outcome s.tick && !(s.core n).badTiles.contains t then
          s.modCore n (fun c => { c with badTiles := t :: c.badTiles })
        else s
      .next (s1.killMat n q e)
  | _ => .next s

/-! ### Multiplies (R277 to R281) -/

/-- The fields of an operand: format, address, stride, scale address, scale stride. -/
structure MatOperand where
  fmt : MatFmt
  addr : Nat
  stride : Nat
  scale : Nat
  sstride : Nat
  deriving DecidableEq, Repr

/-- Operand A of a record. -/
def operandA (r : BitVec 512) : MatOperand :=
  ⟨matFmt (recField r 12 8), recField r 127 64, recField r 159 128, recField r 319 256, recField r 399 384⟩

/-- Operand B of a record. -/
def operandB (r : BitVec 512) : MatOperand :=
  ⟨matFmt (recField r 17 13), recField r 255 192, recField r 191 160, recField r 383 320, recField r 415 400⟩

/-- K of a k-step (R277). -/
def stepK (r : BitVec 512) : Nat := 1536 / max (operandA r).fmt.width (operandB r).fmt.width

/-- The range of memory that row `r` of an operand takes in k-step `k` (R278). -/
def MatOperand.rowRange (o : MatOperand) (kk step r : Nat) : Nat × Nat :=
  ((o.addr + r * o.stride + step * kk * o.fmt.width / 8) % 2 ^ 64, kk * o.fmt.width / 8)

/-- The range of its scale bytes; empty for a format without blocks (R278). -/
def MatOperand.scaleRange (o : MatOperand) (kk step r : Nat) : Nat × Nat :=
  if o.fmt.block = 0 then (0, 0)
  else
    let b0 := step * kk / o.fmt.block
    let b1 := (step * kk + kk - 1) / o.fmt.block
    ((o.scale + r * o.sstride + b0) % 2 ^ 64, b1 + 1 - b0)

/-- A row's elements in a k-step with the scale byte of each: codes and scales. -/
def MatOperand.elems (o : MatOperand) (kk step : Nat) (row scales : List Byte) : List (Nat × Nat) :=
  let x := ofBytes row
  let b0 := if o.fmt.block = 0 then 0 else step * kk / o.fmt.block
  (List.range kk).map (fun j =>
    (x / 2 ^ (j * o.fmt.width) % 2 ^ o.fmt.width,
      if o.fmt.block = 0 then 127 else (scales.getD ((step * kk + j) / o.fmt.block - b0) 0).toNat))

/-- The value of an element with its scale (R79, R279). -/
def MatOperand.value (o : MatOperand) (x : Nat × Nat) : FVal := scaled (o.fmt.elem.value x.1) x.2

/-- Whether reading an element sets NV: a signalling NaN or a scale of 255 (R279). -/
def MatOperand.invalid (o : MatOperand) (x : Nat × Nat) : Bool := x.2 == 255 || (o.fmt.elem.value x.1).isSig

/-- Whether reading an element sets NC (R77). -/
def MatOperand.nonCanonical (o : MatOperand) (x : Nat × Nat) : Bool := o.fmt.elem == .t2 && x.1 == 2

/-- An accumulator value with the flags it raises and whether it was clamped. -/
structure AccVal where
  code : Nat
  flags : BitVec 5
  sat : Bool
  deriving DecidableEq, Repr

/-- A group's exact sum of products, and whether it is invalid (R281). -/
def groupSum (ps : List (FVal × FVal)) : FVal × Bool :=
  let ms := ps.map (fun p => FVal.mul p.1 p.2)
  let r := sumOf (ms.map Prod.fst) false
  (r.1, r.2 || ms.any Prod.snd)

/-- A group accumulated in F32 (R281). -/
def accF32 (acc : AccVal) (ps : List (FVal × FVal)) : AccVal :=
  let g := groupSum ps
  let a := fmtF32.decode acc.code
  let fl := acc.flags ||| (if g.2 then flagNV else 0)
  if a.isNan || g.1.isNan then { acc with code := fmtF32.nanCode, flags := fl }
  else
    let t := sumOf [a, g.1] false
    let out := fmtF32.result 0 0 t.1
    { acc with code := out.1, flags := fl ||| out.2 ||| (if t.2 then flagNV else 0) }

/-- The integer of an exact integral value. -/
def intOfFVal : FVal → Int
  | .fin n m e => (if n then -(m : Int) else m) * 2 ^ e.toNat
  | _ => 0

/-- A group accumulated in S32 (R281). -/
def accS32 (acc : AccVal) (ps : List (FVal × FVal)) : AccVal :=
  let p := ps.foldl (fun t x => t + intOfFVal x.1 * intOfFVal x.2) (0 : Int)
  let v := intOf true 32 acc.code + p
  let c := clampInt true 32 v
  { acc with code := codeOf 32 c, sat := acc.sat || c != v }

/-- Whether the accumulator of a record is S32 (R280). -/
def accInt (r : BitVec 512) : Bool :=
  let int := fun (c : Nat) => decide (10 ≤ c) && decide (c ≤ 17)
  int (recField r 12 8) && int (recField r 17 13)

/-- One k-step on a tile: rows of A and of B as values (R281). -/
def kstepTile (isInt : Bool) (g : Nat) (rowsA rowsB : List (List FVal)) (start : Nat → Nat → Nat) :
    BitVec 8192 × BitVec 5 × Bool :=
  let cut := fun (xs : List FVal) => piecesOf g (xs.length + 1) xs
  let as := rowsA.map cut
  let bs := rowsB.map cut
  let vals := (List.range 256).map (fun i =>
    let r := i / 16
    let c := i % 16
    ((as.getD r []).zip (bs.getD c [])).foldl
      (fun acc gg => if isInt then accS32 acc (gg.1.zip gg.2) else accF32 acc (gg.1.zip gg.2))
      { code := start r c, flags := 0, sat := false })
  (BitVec.ofNat 8192 (joinLanes 32 (vals.map AccVal.code)), vals.foldl (fun f v => f ||| v.flags) 0,
    vals.any AccVal.sat)

/-- The bytes of the ranges of one row of a k-step, item by item, or the first that faults with its item number. -/
def State.readItems (s : State) (a : Acc) :
    List (Nat × Nat × Nat) → State × Except (Nat × BitVec 8 × Dword) (List (List Byte))
  | [] => (s, .ok [])
  | (item, va, n) :: rest =>
    match s.engineRead a .read va n with
    | (s1, .error e) => (s1, .error (item, e))
    | (s1, .ok bs) =>
      match s1.readItems a rest with
      | (s2, .error e) => (s2, .error e)
      | (s2, .ok more) => (s2, .ok (bs :: more))

/-- The operand bytes of rows `row` and up in a k-step, or the lowest row that faults (R286, R293). Where several items of that
row fault, R293 does not say which of them OPND names: the model looks at A, B, the scale of A and the scale of B, in that order
(DESIGN CHOICE, log 56). -/
def State.readRows (s : State) (a : Acc) (oa ob : MatOperand) (kk step : Nat) :
    List Nat → State × Except (Nat × Nat × BitVec 8 × Dword) (List (List (List Byte)))
  | [] => (s, .ok [])
  | row :: rest =>
    let items := [(0, oa.rowRange kk step row), (1, ob.rowRange kk step row), (2, oa.scaleRange kk step row),
                  (3, ob.scaleRange kk step row)]
    match s.readItems a items with
    | (s1, .error e) => (s1, .error (row, e))
    | (s1, .ok bs) =>
      match s1.readRows a oa ob kk step rest with
      | (s2, .error e) => (s2, .error e)
      | (s2, .ok more) => (s2, .ok (bs :: more))

/-- The array work of a command ends: its entry is free, and its tile is written or its last write issued 20 cycles later (R274,
R287). -/
def State.endArray (s : State) (n : Nat) (q : BitVec 1) (id : Nat) : State :=
  s.modMat n q (fun m => m.modCmd id (fun x => { x with started := false, done := true, busyTo := (s.core n).t + 20 }))

/-- A k-step of MMA or MMAZ (R281, R286, R295). -/
def State.multiplyStep (s : State) (n : Nat) (q : BitVec 1) (e : MatCmd) : State :=
  let r := e.record
  let oa := operandA r
  let ob := operandB r
  let kk := stepK r
  let t := matTile r
  let fresh := matOp r == 2 && e.kstep == 0
  if (s.core n).badTiles.contains t && !fresh then s.killMat n q e
  else
    match s.readRows (engineAcc n e.part e.mode) oa ob kk e.kstep (List.range 16) with
    | (s1, .error (row, item, c, addr)) => s1.haltMat n q e row item c addr
    | (s1, .ok rows) =>
      let as := rows.map (fun b => oa.elems kk e.kstep (b.getD 0 []) (b.getD 2 []))
      let bs := rows.map (fun b => ob.elems kk e.kstep (b.getD 1 []) (b.getD 3 []))
      let old := s.tile n t
      let res := kstepTile (accInt r) (min oa.fmt.group ob.fmt.group) (as.map (·.map oa.value)) (bs.map (·.map ob.value))
        (fun i j => if fresh then 0 else tileAt old i j)
      let nv := as.any (·.any oa.invalid) || bs.any (·.any ob.invalid)
      let nc := as.any (·.any oa.nonCanonical) || bs.any (·.any ob.nonCanonical)
      let s2 := (s1.setTile n t res.1).modCore n (fun c => { c with badTiles := c.badTiles.filter (· != t) })
      let s3 := s2.modMat n q (fun m =>
        { ((m.orFlags res.2.1).modCmd e.id (fun x =>
            { x with kstep := x.kstep + 1, busyTo := (s.core n).t + s.stepCycles n r })) with
          nv := (m.orFlags res.2.1).nv || nv, nc := m.nc || nc, sat := m.sat || res.2.2, mksteps := m.mksteps + 1,
          mstallc := m.mstallc + BitVec.ofNat 64 (Config.stall s.tick) })
      if recField r 35 28 ≤ e.kstep then s3.endArray n q e.id else s3

/-! ### Moving tiles (R282, R289, R290) -/

/-- The type of a tile's values for a record (R282). -/
def tileTy (r : BitVec 512) : ElemTy := if recField r 51 51 = 1 then .int true 32 else .flt fmtF32

/-- The type of a memory format. -/
def memTy (c : Nat) : ElemTy :=
  match (matFmt c).elem with
  | .ty t => t
  | _ => .int true 8

/-- A row converted element by element, with its flags (R87, R282). -/
def convertRow (e : MatCmd) (src dst : ElemTy) (ws wd row : Nat) (x : Nat) : Nat × BitVec 5 :=
  let rs := (List.range 16).map (fun c =>
    let y := x / 2 ^ (ws * c) % 2 ^ ws
    if recField e.record 60 60 = 1 then (y, 0)
    else convert src dst (recField e.record 48 46) (randWord e.seed e.draw (16 * row + c))
      (recField e.record 49 49 == 1) y)
  (joinLanes wd (rs.map Prod.fst), rs.foldl (fun f r => f ||| r.2) 0)

/-- The bytes of tile row `row` in memory's format, with the conversion's flags (R282). -/
def rowToMemory (e : MatCmd) (t : BitVec 8192) (row : Nat) : List Byte × BitVec 5 :=
  let c := recField e.record 22 18
  let w := (matFmt c).width
  let y := convertRow e (tileTy e.record) (memTy c) 32 w row (tileRow t row).toNat
  (bytesOf (2 * w) y.1, y.2)

/-- Address of memory row `row` (R282). -/
def memRowAddr (r : BitVec 512) (row : Nat) : Nat := (recField r 127 64 + row * recField r 159 128) % 2 ^ 64

/-- A row is done: progress and flags; the array's work ends with row 15. -/
def State.rowDone (s : State) (n : Nat) (q : BitVec 1) (e : MatCmd) (f : BitVec 5) : State :=
  let s1 := s.modMat n q (fun m => (m.orFlags f).modCmd e.id (fun x =>
    { x with row := x.row + 1, busyTo := (s.core n).t + s.stepCycles n e.record }))
  if 15 ≤ e.row then s1.endArray n q e.id else s1

/-- A row of LDACC (R282). -/
def State.ldaccRow (s : State) (n : Nat) (q : BitVec 1) (e : MatCmd) : State :=
  let r := e.record
  let c := recField r 22 18
  let t := matTile r
  match s.engineRead (engineAcc n e.part e.mode) .read (memRowAddr r e.row) (rowBytes c) with
  | (s1, .error x) => s1.haltMat n q e e.row 0 x.1 x.2
  | (s1, .ok bs) =>
    let y := convertRow e (memTy c) (tileTy r) (matFmt c).width 32 e.row (ofBytes bs)
    let s2 := s1.setTile n t (setTileRow (s1.tile n t) e.row (BitVec.ofNat 512 y.1))
    let s3 := if e.row = 15 then s2.modCore n (fun k => { k with badTiles := k.badTiles.filter (· != t) }) else s2
    s3.rowDone n q e y.2

/-- The pieces of a row checked for a write; the targets, or the first fault (R286). -/
def State.checkPieces (s : State) (a : Acc) (k : AccKind) :
    List (Nat × Nat) → State × Except (BitVec 8 × Dword) (List (Nat × Nat × Target))
  | [] => (s, .ok [])
  | (va, n) :: rest =>
    match s.engineCheck a k n (BitVec.ofNat 64 va) with
    | (s1, .error e) => (s1, .error e)
    | (s1, .ok t) =>
      match s1.checkPieces a k rest with
      | (s2, .error e) => (s2, .error e)
      | (s2, .ok ts) => (s2, .ok ((va, n, t) :: ts))

/-- Bytes written piece by piece at checked targets in ascending order. -/
def State.putPieces (s : State) (a : Acc) (i : SlotNo) (scope : BitVec 3) (full : Option (BitVec 2)) (bs : List Byte) :
    List (Nat × Nat × Target) → State
  | [] => s
  | (va, n, t) :: rest =>
    (s.enginePut a i scope full (BitVec.ofNat 64 va) (bs.take n) t).putPieces a i scope full (bs.drop n) rest

/-- The scope of a record, and as a recorded scope of full words (R289). -/
def recScope (r : BitVec 512) : BitVec 3 := BitVec.ofNat 3 (recField r 54 52)

/-- The recorded scope of a record (R153). -/
def recFullScope (r : BitVec 512) : BitVec 2 := BitVec.ofNat 2 (recField r 54 52 - 1)

/-- A release's write-back for a slot of a core (R170, R178). -/
def State.engineRelease (s : State) (n : Nat) (scope : BitVec 3) : State :=
  if 3 ≤ scope.toNat then s.flushOwned n else s

/-- A row of STACC (R289). -/
def State.staccRow (s : State) (n : Nat) (q : BitVec 1) (e : MatCmd) : State :=
  let r := e.record
  let t := matTile r
  let a := engineAcc n e.part e.mode
  if (s.core n).badTiles.contains t then s.killMat n q e
  else
    let s0 := if e.row = 0 then s.engineRelease n (recScope r) else s
    let fe := recField r 50 50 == 1
    let y := rowToMemory e (s0.tile n t) e.row
    match s0.checkPieces a (if fe then .feWrite else .write) (linePieces (memRowAddr r e.row) y.1.length) with
    | (s1, .error x) => s1.haltMat n q e e.row 4 x.1 x.2
    | (s1, .ok ts) =>
      (s1.putPieces a e.slot (recScope r) (if fe then some (recFullScope r) else none) y.1 ts).rowDone n q e y.2

/-- The enabled rows of an STSPR with their destinations (R290). -/
def MatQueue.destinations (m : MatQueue) : List (Nat × Nat) :=
  (List.range 16).filterMap (fun r => (m.map.get (Fin.ofNat 16 r)).map (fun x => (r, x.toNat)))

/-- The first enabled row of an STSPR that fails its check, with the sub-cause and address (R290). -/
def State.stsprBad (s : State) (a : Acc) (r : BitVec 512) (ds : List (Nat × Nat)) : Option (Nat × BitVec 8 × Dword) :=
  (ds.filterMap (fun d =>
    let o := memRowAddr r d.1
    if !s.nameKnown a.who d.2 then some (d.1, 0x30, BitVec.ofNat 64 o)
    else if !s.inShare d.2 a.who o (rowBytes (recField r 22 18)) then some (d.1, 0x14, BitVec.ofNat 64 o)
    else none)).head?

/-- A message of kind 9 (R215, R290). A row carries its offset in AUX and, above it, the scope it is recorded at. -/
def State.stsprMsg (s : State) (n : Nat) (e : MatCmd) (dest : Nat) (aux : Nat) (bs : List Byte) : Msg :=
  { dest := s.nameOf n / 2 ^ 16 * 2 ^ 16 + BitVec.ofNat 22 dest, cls := BitVec.ofNat 5 (recField e.record 59 55),
    part := e.part, source := s.nameOf n, kind := 9, sslot := BitVec.ofNat 4 e.slot.val, seq := 0, len := bs.length,
    retry := false, aux := BitVec.ofNat 64 aux, payload := BitVec.ofNat 2048 (ofBytes bs), cmd := e.id }

/-- A row of STSPR: the checks of every row before the first, then the row's message (R290). After the last row of its core the
closing message comes as a step of its own, each of them when the outgoing buffer has room (R221). -/
def State.stsprRow (s : State) (n : Nat) (q : BitVec 1) (e : MatCmd) : State :=
  let r := e.record
  let t := matTile r
  let ds := (s.mat n q).destinations
  let a := engineAcc n e.part e.mode
  match e.owed with
  | some d =>
    ((s.place n (s.stsprMsg n e d 0 [])).modMat n q (fun m => m.modCmd e.id (fun x => { x with owed := none }))).rowDone n q e 0
  | none =>
  if (s.core n).badTiles.contains t then s.killMat n q e
  else
    match (if e.row = 0 then s.stsprBad a r ds else none) with
    | some x => s.haltMat n q e x.1 4 x.2.1 x.2.2
    | none =>
      let wide := ds.foldl (fun w d => widest w (s.distance n d.2)) (recFullScope r)
      let s0 := if e.row = 0 then s.engineRelease n (acquireScope wide) else s
      match ds.find? (fun d => d.1 == e.row) with
      | none => s0.rowDone n q e 0
      | some d =>
        let y := rowToMemory e (s0.tile n t) e.row
        let sc := widest (recFullScope r) (s0.distance n d.2)
        let s1 := s0.transmit n (s0.stsprMsg n e d.2 (memRowAddr r e.row + 2 ^ 32 * sc.toNat) y.1)
        let last := !ds.any (fun x => x.2 == d.2 && decide (e.row < x.1))
        if last then s1.modMat n q (fun m => (m.orFlags y.2).modCmd e.id (fun x => { x with owed := some d.2 }))
        else s1.rowDone n q e y.2

/-- ZERO (R283). -/
def State.zeroTile (s : State) (n : Nat) (q : BitVec 1) (e : MatCmd) : State :=
  let t := matTile e.record
  ((s.setTile n t 0).modCore n (fun c => { c with badTiles := c.badTiles.filter (· != t) })).endArray n q e.id

/-- Whether the next k-step or row of a command may be made: its cycles have passed, the release that precedes the first write has
nothing to wait for, a message of it has room in the outgoing buffer, the command's job is not parked, and fetch duty lets the
array advance (R221, R287, R289, R290, R405). -/
def State.stepReady (s : State) (n : Nat) (q : BitVec 1) (e : MatCmd) : Bool :=
  let writes := (matOp e.record == 5 || matOp e.record == 6) && e.row == 0
  let scope := if matOp e.record = 6 then
      acquireScope ((s.mat n q).destinations.foldl (fun w d => widest w (s.distance n d.2)) (recFullScope e.record))
    else recScope e.record
  (s.core n).fduty != 0 && !(s.slot n e.slot).parked && decide (e.busyTo ≤ (s.core n).t) &&
    (matOp e.record != 6 || s.outRoom n e.part) && s.banksHere n e.part && (!writes || s.released n e.slot scope)

/-- MATRIX_KSTEP: the array completes one k-step or row of the command it works on (R281, R282, R289, R290). -/
def execMatrixKstep (s : State) : Host.Outcome State Fault Refusal :=
  match s.arg with
  | .matrixQueue n q =>
    match (s.mat n q).headCmd with
    | none => .next s
    | some e =>
      if !e.started || (s.core n).aborting q || !s.stepReady n q e then .next s
      else
        match matOp e.record with
        | 3 => .next (s.zeroTile n q e)
        | 4 => .next (s.ldaccRow n q e)
        | 5 => .next (s.staccRow n q e)
        | 6 => .next (s.stsprRow n q e)
        | _ => .next (s.multiplyStep n q e)
  | _ => .next s

/-- The first command of a queue whose array work has ended and whose writes are acknowledged: one that waits for its
acknowledgements holds back no other (R288). A tile is written 20 cycles after the array work has ended, and the array takes a
runnable head in the cycle after it, so that the head comes first (R287, R468). -/
def State.completable (s : State) (n : Nat) (q : BitVec 1) : Option MatCmd :=
  (s.mat n q).entries.find? (fun e => e.done && decide (e.busyTo ≤ (s.core n).t) &&
    !(writesTile (matOp e.record) && (s.arrayNext n).isSome) && !(matOp e.record == 6 && s.stsprPending e))

/-- MATRIX_COMMAND_COMPLETE: the counter, DONE, and the command leaves the set that MMOV waits for (R288). -/
def execMatrixCommandComplete (s : State) : Host.Outcome State Fault Refusal :=
  match s.arg with
  | .matrixQueue n q =>
    match s.completable n q with
    | none => .next s
    | some e =>
      let s1 := s.modMat n q (fun m =>
        { m with entries := m.entries.filter (fun x => x.id != e.id), doneCount := m.doneCount + 1 })
      .next (if recField e.record 61 61 = 1 then s1.bump n (BitVec.ofNat 5 (recField e.record 45 41)) 1 else s1)
  | _ => .next s

/-- STSPR_ROW_ARRIVAL: the row's words are written full, at their recorded scope; no class entry is consulted (R290). -/
def execStsprRowArrival (s : State) : Host.Outcome State Fault Refusal :=
  match s.arg with
  | .msg m =>
    let n := nameCore m.dest
    if (s.core n).isolated then .next s
    else
      .next (s.putWords n (s.homeWho n m.part) (some (bitsOf m.aux.toNat 32 2))
        (wordsFrom (m.aux.toNat % 2 ^ 32) (payloadBytes m)))
  | _ => .next s

/-- STSPR_CLOSING_ARRIVAL: processed as a kind-0 message without payload on its class (R215, R226, R290). -/
def execStsprClosingArrival (s : State) : Host.Outcome State Fault Refusal :=
  match s.arg with
  | .msg m => .next (s.arrive (nameCore m.dest) m)
  | _ => .next s

/-- The moves of a core's matrix unit. -/
def State.matrixMoves (s : State) (n : Nat) : List Event :=
  if (s.mat n 0).entries = [] ∧ (s.mat n 1).entries = [] then []
  else
    let start : List Event := if (s.arrayNext n).isSome then [{ kind := .matrixCommandStart, arg := .core n }] else []
    let per := fun (q : BitVec 1) =>
      let step : List Event := match (s.mat n q).headCmd with
        | some e =>
          if e.started && !(s.core n).aborting q && s.stepReady n q e then
            [{ kind := .matrixKstep, arg := .matrixQueue n q }]
          else []
        | none => []
      let fin : List Event :=
        if (s.completable n q).isSome then [{ kind := .matrixCommandComplete, arg := .matrixQueue n q }] else []
      step ++ fin
    start ++ per 0 ++ per 1

end Sys2Proof.Machine
end

