-- ==== Sys2Proof/Machine/Copy.lean ====
section
/-!
DEFINITION. The copy engine (R303 to R312), the event crossbar (R313 to R316) and the configuration of a queue register
(R231, R308), majors 0x2C and 0x2D.
-/
namespace Sys2Proof.Machine

/-- bits(x, hi, lo) of a number. -/
def numField (x hi lo : Nat) : Nat := x / 2 ^ lo % 2 ^ (hi + 1 - lo)

/-! ### Checks at issue (R305) -/

/-- The windows of the address space (R131). -/
inductive Window where
  | self
  | core (n : Nat)
  | paged
  | control
  deriving DecidableEq, Repr

/-- The window an address lies in (R131). -/
def windowOf (va : Nat) : Option Window :=
  if va < 0x200000 then some .self
  else if 0x10000000000 ≤ va ∧ va < 0x12000000000 then some (.core ((va - 0x10000000000) / 2 ^ 21))
  else if isControl va then some .control
  else if 2 ^ 48 ≤ va ∧ va < 2 ^ 56 then some .paged
  else none

/-- Where a window that shows a local store begins. -/
def Window.base : Window → Nat
  | .core n => 0x10000000000 + n * 2 ^ 21
  | _ => 0

/-- A range's first and last byte lie in one window, and its local part in the share (R305). -/
def State.checkRange (s : State) (va len : Nat) : Except Stop Unit :=
  let at_ := fun (x : Nat) => BitVec.ofNat 64 x
  if len = 0 then .ok ()
  else
    match windowOf va with
    | none => .error (.fault 0x13 (at_ va))
    | some w =>
      let inShare := fun (n : Nat) =>
        let size := s.shareSize n s.me.who
        if va - w.base + len ≤ size then Except.ok ()
        else Except.error (Stop.fault 0x14 (at_ (max va (w.base + size))))
      if windowOf (va + len - 1) ≠ some w then .error (.fault 0x13 (at_ (va + len - 1)))
      else
        match w with
        | .paged | .control => .ok ()
        | .self => inShare s.curCore
        | .core n =>
          match s.name s.acc n (at_ va) with
          | .error e => .error e
          | .ok _ => inShare n

/-- The source and destination ranges of the rows of a copy (R305, R307). -/
def State.checkRows (s : State) (c : CopyCmd) (hasDst : Bool) : Nat → Nat → Except Stop Unit
  | 0, _ => .ok ()
  | k + 1, r =>
    match s.checkRange ((c.src + c.sstride * BitVec.ofNat 64 r).toNat) c.rowBytes with
    | .error e => .error e
    | .ok _ =>
      match (if hasDst then s.checkRange ((c.dst + c.dstride * BitVec.ofNat 64 r).toNat) c.rowBytes else .ok ()) with
      | .error e => .error e
      | .ok _ => s.checkRows c hasDst k (r + 1)

/-- With .fe a paged destination must be a HOME 10 page with full/empty tracking; the first page is looked at (R305). -/
def State.checkTracking (s : State) (c : CopyCmd) : Except Stop Unit :=
  if c.fe ∧ (windowOf c.dst.toNat = some .paged ∨ windowOf c.dst.toNat = some .control) ∧ c.rowBytes ≠ 0 then
    match s.page s.acc c.dst.toNat with
    | .ok (_, i) =>
      match i.place with
      | .store _ _ => if i.fe then .ok () else .error (.fault 0x17 c.dst)
      | _ => .error (.fault 0x17 c.dst)
    | .error _ => .ok ()
  else .ok ()

/-- A copy command checked, then enqueued behind a release at .co, or the slot waits for an entry (R303, R305). -/
def State.enqueueCopy (s : State) (c : CopyCmd) (hasDst : Bool) : State :=
  match s.checkRows c hasDst c.rows 0 with
  | .error e => s.stop e
  | .ok _ =>
    match s.checkTracking c with
    | .error e => s.stop e
    | .ok _ =>
      s.release 1 (fun t =>
        if 2 ≤ t.here.copies.length then t.park .copyRoom
        else (t.modHere (fun k => { k with copies := k.copies ++ [c] })).finish 4)

/-- A command of the executing slot, with its current mode (R305). -/
def State.copyCmd (s : State) (kind : CopyKind) (src dst : Dword) (rowBytes rows : Nat) (ss ds : Dword) (fe : Bool)
    (cnt : Option (BitVec 5)) (term : Option (BitVec 4)) : CopyCmd :=
  { kind := kind, src := src, dst := dst, rowBytes := rowBytes, rows := rows, sstride := ss, dstride := ds, fe := fe,
    counter := cnt, term := term, slot := s.curSlot, mode := s.me.st.mode, part := s.me.st.partition, fired := false,
    released := false, prog := 0 }

/-- The counter a copy instruction names, and whether the job may not use it (R305). -/
def State.copyCounter (s : State) (num : BitVec 5) (cc : BitVec 1) : Option (BitVec 5) × Bool :=
  if cc = 1 then (some num, !s.ownsCounter num.toNat) else (none, false)

/-- CPY (R305, R306). -/
def execCpy (d a b num : BitVec 5) (fl cc : BitVec 1) (s : State) : Host.Outcome State Fault Refusal :=
  let dst := s.getG d
  let src := s.getG a
  let len := (s.getG b).toNat
  let c := s.copyCounter num cc
  let fe := fl == 1
  if c.2 then .next (s.fault 0x21 s.noAddr)
  else if 2 ^ 24 ≤ len then .next (s.fault 0x60 s.noAddr)
  else if fe ∧ (dst.toNat % 8 ≠ 0 ∨ len % 8 ≠ 0) then .next (s.fault 0x03 dst)
  else .next (s.enqueueCopy (s.copyCmd .bytes src dst len 1 0 0 fe c.1 none) true)

/-- CPYS (R305, R308). -/
def execCpys (qn : BitVec 3) (a b num : BitVec 5) (cc : BitVec 1) (s : State) : Host.Outcome State Fault Refusal :=
  let src := s.getG a
  let len := (s.getG b).toNat
  let c := s.copyCounter num cc
  if c.2 then .next (s.fault 0x21 s.noAddr)
  else if 2 ^ 24 ≤ len then .next (s.fault 0x60 s.noAddr)
  else if src.toNat % 8 ≠ 0 ∨ len % 8 ≠ 0 then .next (s.fault 0x03 src)
  else if !s.ownsQueue qn.toNat then .next (s.fault 0x31 s.noAddr)
  else if (s.queue s.curCore qn).mode ≠ 2 then .next (s.fault 0x35 s.noAddr)
  else .next (s.enqueueCopy (s.copyCmd (.stream qn) src 0 len 1 0 0 false c.1 none) false)

/-- Whether a CPY2D descriptor is valid (R307). -/
def desc2Valid (x : Nat) (fe : Bool) : Bool :=
  let f := numField x
  f 511 264 == 0 && f 259 257 == 0 && f 175 160 == 0 && decide (1 ≤ f 191 176) && decide (1 ≤ f 159 128) &&
  decide (f 191 176 * f 159 128 < 2 ^ 24) && (decide (f 159 128 ≤ f 255 224) || f 191 176 == 1) &&
  (!fe || (f 127 64 % 8 == 0 && f 255 224 % 8 == 0 && f 159 128 % 8 == 0))

/-- CPY2D (R305, R307). -/
def execCpy2d (a num : BitVec 5) (fl cc : BitVec 1) (s : State) : Host.Outcome State Fault Refusal :=
  let p := s.getG a
  let c := s.copyCounter num cc
  let fe := fl == 1
  if c.2 then .next (s.fault 0x21 s.noAddr)
  else
    match s.selfRecord 64 0x60 p with
    | .error e => .next (s.stop e)
    | .ok x =>
      let s := s.noteRecord 64 p
      let term : Option (BitVec 4) := if numField x 256 256 = 1 then some (BitVec.ofNat 4 (numField x 263 260)) else none
      if numField x 256 256 = 1 ∧ !s.ownsTerm (numField x 263 260) then .next (s.fault 0x63 s.noAddr)
      else if !desc2Valid x fe then .next (s.fault 0x60 p)
      else
        let ss : Dword := (BitVec.ofNat 32 (numField x 223 192)).signExtend 64
        .next (s.enqueueCopy (s.copyCmd .bytes (BitVec.ofNat 64 (numField x 63 0)) (BitVec.ofNat 64 (numField x 127 64))
          (numField x 159 128) (numField x 191 176) ss (BitVec.ofNat 64 (numField x 255 224)) fe c.1 term) true)

/-! ### The engine -/

/-- Bytes a command moves. -/
def CopyCmd.total (c : CopyCmd) : Nat := c.rowBytes * c.rows

/-- Whether a command is held for its term (R311, R315). -/
def CopyCmd.heldFor (c : CopyCmd) : Bool := c.term.isSome && !c.fired

/-- Source address, destination address and length of the next piece of a byte copy: it ends at a 64-byte boundary of the
destination or at the row's end (R306, R307). -/
def CopyCmd.piece (c : CopyCmd) : Dword × Dword × Nat :=
  let row := BitVec.ofNat 64 (c.prog / c.rowBytes)
  let off := c.prog % c.rowBytes
  let src := c.src + c.sstride * row + BitVec.ofNat 64 off
  let dst := c.dst + c.dstride * row + BitVec.ofNat 64 off
  (src, dst, min (c.rowBytes - off) (64 - dst.toNat % 64))

/-- The head command of a copy engine changed. -/
def State.modCopy (s : State) (n : Nat) (f : CopyCmd → CopyCmd) : State :=
  s.modCore n (fun k => { k with copies := match k.copies with
    | [] => []
    | c :: rest => f c :: rest })

/-- The head command leaves the queue. -/
def State.popCopy (s : State) (n : Nat) : State := s.modCore n (fun k => { k with copies := k.copies.drop 1 })

/-- The head command abandoned at a run-time check: CPSTAT and cause 0x61 (R310, R311). -/
def State.abandonCopy (s : State) (n : Nat) (c : CopyCmd) (cause : BitVec 8) (addr : Dword) : State :=
  ((s.popCopy n).modCore n (fun k =>
    { k with cpstat := { k.cpstat with fcause := cause, prog := BitVec.ofNat 24 c.prog, slot := BitVec.ofNat 4 c.slot.val,
                                       fault := true } })).directTo n c.slot c.part 0x61 addr

/-- Where a byte lies, for finding overlaps through different windows: the store and the offset in the share, or the
address. -/
def State.placeOfTarget (s : State) (a : Acc) (va : Nat) : Target → Option Nat × Nat
  | .self p => (some a.core, (s.shareOffset a.core a.who p).getD p)
  | .store c p => (some c, (s.shareOffset c a.who p).getD p)
  | _ => (none, va)

/-- What a byte-by-byte copy in ascending order leaves, where the destination starts `d` bytes after the source (R306). -/
def rippled (d : Nat) (bs : List Byte) : List Byte :=
  if d = 0 ∨ bs.length ≤ d then bs else (List.range bs.length).map (fun k => bs.getD (k % d) 0)

/-- The widest distance scope over a command's destination: page by page (R309). -/
def State.copyScope (s : State) (n : Nat) (c : CopyCmd) : BitVec 2 :=
  let a := engineAcc n c.part c.mode
  let rows := (List.range c.rows).flatMap (fun r =>
    let lo := (c.dst + c.dstride * BitVec.ofNat 64 r).toNat
    (List.range ((lo + c.rowBytes - 1) / 4096 - lo / 4096 + 1)).map (fun k => max lo ((lo / 4096 + k) * 4096)))
  rows.foldl (fun w va =>
    match (s.engineCheck a .feWrite 1 (BitVec.ofNat 64 va)).2 with
    | .ok (.store m _) => widest w (s.distance n m)
    | _ => w) 0

/-- Whether `n` bytes at a target would cover part of an uncorrectable unit (R159). -/
def State.tornTarget (s : State) (a : Acc) (n : Nat) : Target → Bool
  | .self p | .store _ p => (granulesOf p n).any (fun g => s.bad.contains g && !(decide (p ≤ g) && decide (g + 8 ≤ p + n)))
  | .cached v i => s.tornAt a v n i.place
  | .uncached _ v i => s.tornAt a v n i.place
  | .control _ => false

/-- The head command of a copy engine abandoned at a check, or left standing where its target is not there yet (R310,
R358, R380). -/
def State.copyStop (s : State) (n : Nat) (c : CopyCmd) (e : BitVec 8 × Dword) : State :=
  if e.1 = notNow then s else s.abandonCopy n c e.1 e.2

/-- A piece of a byte copy: checked, read, written; it is not written over part of an uncorrectable unit (R159, R306, R309,
R310). -/
def State.copyPiece (s : State) (n : Nat) (c : CopyCmd) : State :=
  let a := engineAcc n c.part c.mode
  let (src, dst, len) := c.piece
  let s0 := if c.fe && !c.released then
      (s.engineRelease n (acquireScope (s.copyScope n c))).modCopy n (fun x => { x with released := true })
    else s
  match s0.engineCheck a (if c.fe then .feWrite else .write) len dst with
  | (s1, .error e) => s1.copyStop n c e
  | (s1, .ok t) =>
    match s1.engineRead a .read src.toNat len with
    | (s2, .error e) => s2.copyStop n c e
    | (s2, .ok bs) =>
      if s2.tornTarget a len t then s2.abandonCopy n c 0x1E dst
      else
      let from_ := match (s2.engineCheck a .read 1 src).2 with
        | .ok u => s2.placeOfTarget a src.toNat u
        | .error _ => (none, src.toNat)
      let place := s2.placeOfTarget a dst.toNat t
      let out := if from_.1 = place.1 ∧ from_.2 < place.2 then rippled (place.2 - from_.2) bs else bs
      let s3 := match t with
        | .cached v _ => s2.purgeLine n (lineBase v)
        | _ => s2
      (s3.enginePut a c.slot 3 (if c.fe then some 0 else none) dst out t).modCopy n
        (fun x => { x with prog := x.prog + len })

/-- A dword of a stream enters its queue register (R308). -/
def State.streamPiece (s : State) (n : Nat) (c : CopyCmd) (q : BitVec 3) : State :=
  match s.engineRead (engineAcc n c.part c.mode) .read (c.src.toNat + c.prog) 8 with
  | (s1, .error e) => s1.copyStop n c e
  | (s1, .ok bs) =>
    (s1.modCopy n (fun x => { x with prog := x.prog + 8 })).pushQueue n q [BitVec.ofNat 64 (ofBytes bs)]

/-- Whether the copy engine of a core can move a piece of its head command (R303, R308, R309, R312). -/
def State.pieceReady (s : State) (n : Nat) : Option CopyCmd :=
  match (s.core n).copies with
  | [] => none
  | c :: _ =>
    let room := match c.kind with
      | .stream q => decide ((s.queue n q).entries.length < 8)
      | .bytes => !c.fe || c.released || s.released n c.slot (acquireScope (s.copyScope n c))
    if !c.heldFor && decide (c.prog < c.total) && (s.core n).fduty != 0 && !(s.slot n c.slot).parked && s.banksHere n c.part &&
        room then
      some c
    else none

/-- COPY_PIECE: the engine checks, reads and writes one piece (R306, R308). -/
def execCopyPiece (s : State) : Host.Outcome State Fault Refusal :=
  match s.arg with
  | .core n =>
    match s.pieceReady n with
    | none => .next s
    | some c =>
      match c.kind with
      | .bytes => .next (s.copyPiece n c)
      | .stream q => .next (s.streamPiece n c q)
  | _ => .next s

/-- Whether the head command has moved all its bytes and its engine is not held (R312). -/
def State.copyDone (s : State) (n : Nat) : Option CopyCmd :=
  match (s.core n).copies with
  | [] => none
  | c :: _ => if !c.heldFor && decide (c.total ≤ c.prog) && (s.core n).fduty != 0 then some c else none

/-- COPY_COMPLETE: DONE, the entry free, the counter (R309, R311). -/
def execCopyComplete (s : State) : Host.Outcome State Fault Refusal :=
  match s.arg with
  | .core n =>
    match s.copyDone n with
    | none => .next s
    | some c =>
      let s1 := (s.popCopy n).modCore n (fun k => { k with cpstat := { k.cpstat with doneCount := k.cpstat.doneCount + 1 } })
      match c.counter with
      | some x => .next (s1.bump n x 1)
      | none => .next s1
  | _ => .next s

/-- CPSTAT (R311). -/
def Core.cpstatDword (k : Core) : Dword :=
  let held := match k.copies with
    | [] => false
    | c :: _ => c.heldFor
  BitVec.ofNat 64 (k.copies.length + 2 ^ 2 * natOfBool held + 2 ^ 3 * natOfBool k.cpstat.fault +
    2 ^ 20 * k.cpstat.slot.toNat + 2 ^ 24 * k.cpstat.doneCount.toNat + 2 ^ 32 * k.cpstat.prog.toNat +
    2 ^ 56 * k.cpstat.fcause.toNat)

/-! ### Configuring a queue register (R231, R308) -/

/-- QCFG of a queue register (R231). -/
def QueueReg.qcfg (r : QueueReg) : Dword :=
  BitVec.ofNat 64 (r.mode.toNat + 2 ^ 4 * natOfBool (!r.writers.isEmpty) + 2 ^ 5 * natOfBool (!r.readers.isEmpty) +
    2 ^ 8 * r.entries.length + 2 ^ 43 * r.cls.toNat + 2 ^ 48 * r.dest.toNat)

/-- The copies that stream into a queue register abandoned with trap 0x62, as CPSTAT shows; FCAUSE names R146's causes alone
and stays (R308, R311; log 47). -/
def State.dropStreams (s : State) (n : Nat) (q : BitVec 3) : State :=
  let mine := (s.core n).copies.filter (fun c => c.kind == .stream q)
  mine.foldl (fun t c =>
      (t.modCore n (fun k => { k with cpstat :=
        { k.cpstat with prog := BitVec.ofNat 24 c.prog, slot := BitVec.ofNat 4 c.slot.val, fault := true } })).directTo n
        c.slot c.part 0x62 t.noAddr)
    (s.modCore n (fun k => { k with copies := k.copies.filter (fun c => c.kind != .stream q) }))

/-- An uncorrectable error in a queued copy command: it is abandoned with trap 0x68, as CPSTAT shows (R311, R327). -/
def State.copyError (s : State) (n k : Nat) : State :=
  match (s.core n).copies[k]? with
  | none => s
  | some c =>
    (s.modCore n (fun x => { x with
      copies := x.copies.eraseIdx k,
      cpstat := { x.cpstat with prog := BitVec.ofNat 24 c.prog, slot := BitVec.ofNat 4 c.slot.val, fault := true } })).directTo
        n c.slot c.part 0x68 s.noAddr

/-- A write of QCFG: DEST, CLASS and MODE; a change of MODE empties the queue, faults its parked slots 0x35 and ends a
stream into it (R231, R308). -/
def State.setQcfg (s : State) (n : Nat) (q : BitVec 3) (v : Dword) : State :=
  let old := s.queue n q
  let mode : BitVec 2 := bitsOf v.toNat 0 2
  let s1 := s.modQueue n q (fun r => { r with dest := bitsOf v.toNat 48 16, cls := bitsOf v.toNat 43 5, mode := mode })
  if mode = old.mode then s1
  else
    let s2 := s1.modQueue n q (fun r => { r with entries := [], readers := [], writers := [] })
    let s3 := (old.readers ++ old.writers).foldl (fun t i => t.answerFault n i 0x35 t.noAddr) s2
    s3.dropStreams n q

/-- QCFG_WRITE (R231). -/
def execQcfgWrite (s : State) : Host.Outcome State Fault Refusal :=
  match s.arg with
  | .queueVal n q v => .next (s.setQcfg n q v)
  | _ => .next s

/-! ### The event crossbar (R313 to R316) -/

/-- A term of a core. -/
def State.term (s : State) (n : Nat) (e : BitVec 4) : Term := (s.core n).terms.get e.toFin

/-- A term changed. -/
def State.modTerm (s : State) (n : Nat) (e : BitVec 4) (f : Term → Term) : State :=
  s.modCore n (fun c => { c with terms := c.terms.set e.toFin (f (c.terms.get e.toFin)) })

/-- A term record's condition `k` (R314). -/
def condOf (x k : Nat) : TermCond :=
  { en := numField x (48 * k + 37) (48 * k + 37) == 1, cnt := BitVec.ofNat 5 (numField x (48 * k + 36) (48 * k + 32)),
    thr := BitVec.ofNat 32 (numField x (48 * k + 31) (48 * k)) }

/-- A term from its record (R314). -/
def termOf (x : Nat) : Term :=
  { valid := numField x 224 224 == 1, oneshot := numField x 225 225 == 1, outen := numField x 226 226 == 1,
    outcnt := BitVec.ofNat 5 (numField x 231 227), incr := BitVec.ofNat 16 (numField x 247 232),
    conds := Vector.ofFn (fun k => condOf x k.val) }

/-- Whether a term record is valid for the executing slot's job (R314). -/
def State.termRecordOk (s : State) (x : Nat) : Bool :=
  let t := termOf x
  numField x 255 248 == 0 && numField x 223 192 == 0 &&
  (List.range 4).all (fun k => numField x (48 * k + 47) (48 * k + 38) == 0) &&
  !(t.valid && t.conds.toList.any (fun c => c.en) && !t.oneshot && t.incr == 0) &&
  t.conds.toList.all (fun c => !c.en || s.ownsCounter c.cnt.toNat) && (!t.outen || s.ownsCounter t.outcnt.toNat)

/-- An uncorrectable error in a term record: the term is not valid, and its slot receives trap 0x68, in its saved context where it
has been captured (R313, R327). -/
def State.termError (s : State) (n : Nat) (e : BitVec 4) : State :=
  let s1 := s.modTerm n e (fun t => { t with valid := false })
  let sl := s.slot n e.toFin
  if !s.savedAway n e.toFin sl.st.partition ∧ (sl.run = .off ∨ sl.run = .halted) then s1
  else s1.directTo n e.toFin sl.st.partition 0x68 s.noAddr

/-- A firing releases every held command of the core that names the term (R315). -/
def State.releaseHeld (s : State) (n : Nat) (e : BitVec 4) : State :=
  s.modCore n (fun c =>
    { c with
      mq := c.mq.map (fun m => { m with entries := m.entries.map (fun x =>
        if recField x.record 40 40 = 1 ∧ recField x.record 39 36 = e.toNat then { x with fired := true } else x) }),
      copies := c.copies.map (fun x => if x.term = some e then { x with fired := true } else x),
      colls := c.colls.map (fun x =>
        if recField x.desc 187 187 = 1 ∧ recField x.desc 191 188 = e.toNat then { x with fired := true } else x) })

/-- A term's output: OUTCNT increments in the core's next cycle (R315). -/
def State.termOut (s : State) (n : Nat) (e : BitVec 4) : State :=
  let t := s.term n e
  if t.outen then s.modCore n (fun c => { c with outs := c.outs ++ [t.outcnt] }) else s

/-- The increments that the firings of the cycle before bring (R315). -/
def State.countOuts (s : State) (n : Nat) (outs : List (BitVec 5)) : State := outs.foldl (fun t c => t.bump n c 1) s

/-- Whether a term fires by condition: valid, and every one of its enabled conditions holds (R315). -/
def State.termFires (s : State) (n : Nat) (e : BitVec 4) : Bool :=
  let t := s.term n e
  t.valid && t.conds.toList.any (fun c => c.en) &&
    t.conds.toList.all (fun c => !c.en || reached (s.counter n c.cnt) c.thr)

/-- ECFG e, a (R316). -/
def execEcfg (a : BitVec 5) (tm : BitVec 4) (s : State) : Host.Outcome State Fault Refusal :=
  let p := s.getG a
  if !s.ownsTerm tm.toNat then .next (s.fault 0x63 s.noAddr)
  else
    match s.selfRecord 32 0x60 p with
    | .error e => .next (s.stop e)
    | .ok x =>
      let s := s.noteRecord 32 p
      if !s.termRecordOk x then .next (s.fault 0x63 p)
      else .next ((s.modTerm s.curCore tm (fun _ => termOf x)).finish 4)

end Sys2Proof.Machine
end

