-- ==== Sys2Proof/Machine/Collective.lean ====
section
/-!
DEFINITION. Collectives (R317 to R322), and the firing of event terms, which may release them (R315, R316).
-/
namespace Sys2Proof.Machine

/-! ### Terms fire -/

/-- TERM_FIRE: a term fires by condition (R315). -/
def execTermFire (s : State) : Host.Outcome State Fault Refusal :=
  match s.arg with
  | .term n e =>
    if s.termFires n e then
      let s1 := (s.releaseHeld n e).modTerm n e (fun t =>
        if t.oneshot then { t with valid := false }
        else { t with conds := t.conds.map (fun c => if c.en then { c with thr := c.thr + t.incr.setWidth 32 } else c) })
      .next (s1.termOut n e)
    else .next s
  | _ => .next s

/-- ETRIG e (R316). -/
def execEtrig (tm : BitVec 4) (s : State) : Host.Outcome State Fault Refusal :=
  if !s.ownsTerm tm.toNat then .next (s.fault 0x63 s.noAddr)
  else .next (((s.releaseHeld s.curCore tm).termOut s.curCore tm).finish 4)

/-! ### Ports and descriptors -/

/-- A job's ports on a core (R210). -/
def State.portsOf (s : State) (n j : Nat) : Option Ports :=
  match (s.core n).ports.find? (fun p => p.job == j) with
  | some p => some p
  | none => s.contexts.findSome? (fun x => if x.core = n then x.state.ports.find? (fun p => p.job == j) else none)

/-- A job's ports on a core changed. -/
def State.modPorts (s : State) (n j : Nat) (f : Ports → Ports) : State :=
  let g := fun (l : List Ports) => l.map (fun p => if p.job = j then f p else p)
  { s.modCore n (fun c => { c with ports := g c.ports }) with
    contexts := s.contexts.map (fun x =>
      if x.core = n then { x with state := { x.state with ports := g x.state.ports } } else x) }

/-- The group that a port of a job names on a core: none where the port is not valid there (R210). -/
def State.portGroup (s : State) (n : Nat) (j : Option Nat) (port : BitVec 2) : Option (BitVec 8) :=
  match j with
  | some x => (s.portsOf n x).bind (fun p => p.port.get port.toFin)
  | none => none

/-- A group of a job. -/
def State.groupOfJob (s : State) (j : Nat) (g : BitVec 8) : Option Group :=
  s.groups.find? (fun x => x.job == j && x.index == g)

/-- The fields of a COLL descriptor: type, op, count, root (R318). -/
structure CollDesc where
  src : Nat
  dst : Nat
  count : Nat
  root : Nat
  ty : Nat
  redop : Nat
  fe : Bool
  counter : Option (BitVec 5)
  deriving DecidableEq, Repr

/-- A descriptor's fields (R318). -/
def collDesc (x : BitVec 512) : CollDesc :=
  let f := recField x
  { src := f 63 0, dst := f 127 64, count := f 159 128, root := f 175 160, ty := f 177 176, redop := f 179 178,
    fe := f 180 180 == 1, counter := if f 181 181 = 1 then some (BitVec.ofNat 5 (f 186 182)) else none }

/-- Bytes of a collective's element (R318). -/
def CollDesc.elem (d : CollDesc) : Nat := if d.ty = 1 ∨ d.ty = 2 then 2 else 4

/-- Bytes of a block (R318). -/
def CollDesc.block (d : CollDesc) : Nat := d.count * d.elem

/-- Source span of member `i` of `m` (R318). -/
def CollDesc.srcSpan (d : CollDesc) (op m i : Nat) : Nat :=
  match op with
  | 2 => if i = d.root then d.block else 0
  | 4 => m * d.block
  | _ => d.block

/-- Destination span of member `i` of `m` (R318). -/
def CollDesc.dstSpan (d : CollDesc) (op m i : Nat) : Nat :=
  match op with
  | 1 => if i = d.root then d.block else 0
  | 3 => m * d.block
  | _ => d.block

/-- Whether a descriptor is valid for a member (R318). -/
def State.collValid (s : State) (x : BitVec 512) (op m i : Nat) : Bool :=
  let d := collDesc x
  let f := recField x
  let share := s.shareSize s.curCore s.me.who
  let a := d.srcSpan op m i
  let b := d.dstSpan op m i
  let apart := decide (d.src + a ≤ d.dst) || decide (d.dst + b ≤ d.src) || a == 0 || b == 0
  f 511 192 == 0 && d.src % 64 == 0 && d.dst % 64 == 0 && decide (d.src + a ≤ share) && decide (d.dst + b ≤ share) &&
  (apart || (d.src == d.dst && (op == 0 || op == 2))) && decide (1 ≤ d.count) && decide (d.count ≤ 2 ^ 20) &&
  (if op = 1 ∨ op = 2 then decide (d.root < m) else d.root == 0) &&
  (if op = 2 ∨ op = 3 then d.redop == 0 else decide (d.redop ≤ 2)) &&
  (match d.counter with
   | some c => s.ownsCounter c.toNat
   | none => f 186 182 == 0) &&
  (f 187 187 == 1 || f 191 188 == 0)

/-- Position of a core in a group's member list (R318). -/
def Group.indexOf (g : Group) (n : Nat) : Nat := (g.members.findIdx? (fun x => x == n)).getD 0

/-- A collective enqueued by the executing slot as its core's next use of the port; a use abandoned before it came reports
so (R317, R319, R322). -/
def State.enqueueColl (s : State) (x : BitVec 512) (op : BitVec 3) (port : BitVec 2) (j : Nat) (g : BitVec 8) : State :=
  let n := s.curCore
  let use := ((s.portsOf n j).map (fun p => p.collUses.get port.toFin)).getD 0 + 1
  let s1 := s.modPorts n j (fun p => { p with collUses := p.collUses.set port.toFin use })
  let key : UseKey := { job := j, group := g, use := use }
  if s.collUses.any (fun u => u.key == key && u.dead) then
    (s1.finish 4).direct n s.curSlot 0x68 s.noAddr
  else
    (s1.modHere (fun c => { c with colls := c.colls ++
      [{ desc := x, op := op, port := port, slot := s.curSlot, job := j, group := g, use := use, fired := false }] })).finish 4

/-- COLL.op gpN, [a] (R317). -/
def execColl (a : BitVec 5) (off : BitVec 3) (pos : BitVec 2) (s : State) : Host.Outcome State Fault Refusal :=
  let p := s.getG a
  let n := s.curCore
  if !s.isGrid n then .next (s.illegal (wordOf (.coll a off pos)))
  else
    match s.selfRecord 64 0x64 p with
    | .error e => .next (s.stop e)
    | .ok v =>
      let s := s.noteRecord 64 p
      let x : BitVec 512 := BitVec.ofNat 512 v
      match s.me.job, s.portGroup n s.me.job pos with
      | some j, some g =>
        match s.groupOfJob j g with
        | none => .next (s.fault 0x23 s.noAddr)
        | some gr =>
          if recField x 187 187 = 1 ∧ !s.ownsTerm (recField x 191 188) then .next (s.fault 0x63 s.noAddr)
          else if !s.collValid x off.toNat gr.members.length (gr.indexOf n) then .next (s.fault 0x64 p)
          else if s.recoverable then .next (s.fault 0x65 s.noAddr)
          else
            .next (s.release 1 (fun t =>
              if 2 ≤ t.here.colls.length then t.park .collRoom else t.enqueueColl x off pos j g))
      | _, _ => .next (s.fault 0x23 s.noAddr)

/-! ### Uses (R319 to R322) -/

/-- The key of a command's use. -/
def CollCmd.key (c : CollCmd) : UseKey := { job := c.job, group := c.group, use := c.use }

/-- Whether a command waits for its term (R317). -/
def CollCmd.heldFor (c : CollCmd) : Bool := recField c.desc 187 187 == 1 && !c.fired

/-- The command by which a core contributes to a use: not held, and not behind a held one (R317). -/
def Core.contributes (c : Core) (k : UseKey) : Option CollCmd :=
  ((c.colls.takeWhile (fun x => !x.heldFor)).find? (fun x => x.key == k))

/-- The members' commands of a use, once every member has contributed. -/
def State.contributions (s : State) (g : Group) (k : UseKey) : Option (List (Nat × CollCmd)) :=
  let cs := g.members.filterMap (fun m => ((s.core m).contributes k).map (fun c => (m, c)))
  if cs.length = g.members.length then some cs else none

/-- Whether the members of a use agree on op, TYPE, REDOP, COUNT and ROOT (R319). -/
def agree (cs : List (Nat × CollCmd)) : Bool :=
  match cs with
  | [] => true
  | c :: rest => rest.all (fun x => x.2.op == c.2.op && (collDesc x.2.desc).ty == (collDesc c.2.desc).ty &&
      (collDesc x.2.desc).redop == (collDesc c.2.desc).redop && (collDesc x.2.desc).count == (collDesc c.2.desc).count &&
      (collDesc x.2.desc).root == (collDesc c.2.desc).root)

/-- The tree a unit travels on: the cumulative weights of the present trees, in ascending number (R320). -/
def treeOfUnit (ts : List Tree) (u : Nat) : Option Tree :=
  let w := ts.foldl (fun a t => a + t.weight) 0
  let pick := ts.foldl (fun (acc : Nat × Option Tree) t =>
    match acc.2 with
    | some x => (acc.1, some x)
    | none => if u % max 1 w < acc.1 + t.weight then (acc.1, some t) else (acc.1 + t.weight, none)) (0, none)
  pick.2

/-- The children of a node in a tree, in ascending number (R321). -/
def Tree.children (t : Tree) (members : List Nat) (v : Nat) : List Nat :=
  members.filter (fun m => m != t.root && lookupNat m t.parent == some v)

/-- x ⊕ y for a unit, element by element (R321). -/
def combine (d : CollDesc) (x y : VReg) : VReg :=
  let w := 8 * d.elem
  let f := match d.ty with
    | 1 => fmtBF16
    | 2 => fmtF16
    | _ => fmtF32
  let one := fun (a b : Nat) =>
    if d.ty = 3 then
      match d.redop with
      | 0 => (a + b) % 2 ^ 32
      | 1 => if intOf true 32 a ≤ intOf true 32 b then a else b
      | _ => if intOf true 32 a ≤ intOf true 32 b then b else a
    else
      match d.redop with
      | 0 => (f.add 0 0 a b).1
      | 1 => (f.minMax false a b).1
      | _ => (f.minMax true a b).1
  ofLanes w ((List.range (512 / w)).map (fun i => one (lane w i x) (lane w i y)))

/-- The use's partial results so far. -/
def State.collUse (s : State) (k : UseKey) : CollUse :=
  (s.collUses.find? (fun u => u.key == k)).getD { key := k, parts := [], completed := [], dead := false }

/-- A use's record replaced. -/
def State.setCollUse (s : State) (u : CollUse) : State :=
  { s with collUses := u :: s.collUses.filter (fun x => x.key != u.key) }

/-- The partial result of a unit at a node. -/
def CollUse.part (u : CollUse) (unit node : Nat) : Option VReg :=
  (u.parts.find? (fun p => p.1 == unit && p.2.1 == node)).map (fun p => p.2.2)

/-- The destination span of a member of an abandoned use: each word is its old value or one that cannot be known (R322,
log 13). -/
def State.spoil (s : State) (n : Nat) (who : Option (BitVec 6)) (off len : Nat) : State :=
  ((List.range len).map (fun k => off + k)).foldl (fun t o =>
    if Config.outcome (t.tick + o) then (t.put (t.sharePhys n who o) [Config.freeByte (t.tick + o)]).1 else t) s

/-- A use abandoned on every member with a trap at each issuing slot, where it has been captured in its saved context (R319,
R322). -/
def State.abandonUse (s : State) (k : UseKey) (g : Group) (cause : BitVec 8) (spoils : Bool) : State :=
  let s1 := g.members.foldl (fun t m =>
    match (t.core m).colls.find? (fun x => x.key == k) with
    | none => t
    | some c =>
      let t1 := t.modCore m (fun x => { x with colls := x.colls.filter (fun y => y.key != k) })
      let d := collDesc c.desc
      let t2 := if spoils then
          t1.spoil m (some g.part) d.dst (d.dstSpan c.op.toNat g.members.length (g.indexOf m))
        else t1
      t2.directTo m c.slot g.part cause t2.noAddr) s
  s1.setCollUse { (s1.collUse k) with dead := true }

/-- Unit `u` of a member's source span, the last one padded with zeros: its value, or the offset in the share of an
uncorrectable byte (R320, R322). -/
def State.sourceUnit (s : State) (n : Nat) (g : Group) (c : CollCmd) (u : Nat) : Except Nat VReg :=
  let d := collDesc c.desc
  let span := d.srcSpan c.op.toNat g.members.length (g.indexOf n)
  let len := min 64 (span - 64 * u)
  let a := s.sharePhys n (some g.part) (d.src + 64 * u)
  match s.badIn a len with
  | some b => .error (d.src + 64 * u + (b - a))
  | none => .ok (BitVec.ofNat 512 (s.peek a len))

/-- Units of a use (R320). -/
def unitsOf (c : CollCmd) (g : Group) : Nat :=
  let d := collDesc c.desc
  ((if c.op = 4 then g.members.length * d.block else d.block) + 63) / 64

/-- The children whose parts a node's unit needs (R321): none for a broadcast or a gather. -/
def needs (c : CollCmd) (g : Group) (u n : Nat) : List Nat :=
  if c.op = 2 ∨ c.op = 3 then []
  else
    match treeOfUnit g.trees u with
    | some t => t.children g.members n
    | none => []

/-- Whether what comes to a node from others in a tree of the group comes behind the messages that left them before: from its
children, or from its parent (R19, R176). -/
def State.treeClear (s : State) (g : Group) (n : Nat) (up : Bool) : Bool :=
  g.trees.all (fun t =>
    if up then (t.children g.members n).all (fun m => s.pairClear m n g.part)
    else match lookupNat n t.parent with
      | some m => n == t.root || s.pairClear m n g.part
      | none => true)

/-- Whether a node handles units of its own: in a broadcast only the root (R321). -/
def sends (c : CollCmd) (g : Group) (n : Nat) : Bool := c.op != 2 || g.indexOf n == (collDesc c.desc).root

/-- COLL_UNIT_TRANSFER: a node combines a unit with its children's in ascending order and forwards it; a disagreement or
uncorrectable data ends the use (R319, R321, R322). -/
def execCollUnitTransfer (s : State) : Host.Outcome State Fault Refusal :=
  match s.arg with
  | .collUnit k unit n =>
    match s.groupOfJob k.job k.group, (s.core n).contributes k with
    | some g, some c =>
      match s.contributions g k with
      | none => .next s
      | some cs =>
        if !agree cs then .next (s.abandonUse k g 0x64 false)
        else
          let u := s.collUse k
          let kids := (needs c g unit n).map (fun m => u.part unit m)
          if (u.part unit n).isSome || !sends c g n || kids.any (fun x => x.isNone) || decide (unitsOf c g ≤ unit) ||
              !s.banksHere n g.part || !s.treeClear g n true then .next s
          else
            match s.sourceUnit n g c unit with
            | .error off => .next ((s.log 0x68 n c.slot.val (BitVec.ofNat 64 off)).abandonUse k g 0x68 true)
            | .ok x =>
              let v := (kids.filterMap id).foldl (combine (collDesc c.desc)) x
              .next (s.setCollUse { u with parts := (unit, n, v) :: u.parts })
    | _, _ => .next s
  | _ => .next s

/-- COLL_BAD_DATA: an error in a source span or in the engine's state abandons the use on every member (R322, R327). -/
def execCollBadData (s : State) : Host.Outcome State Fault Refusal :=
  match s.arg with
  | .useAddr k addr =>
    match s.groupOfJob k.job k.group with
    | some g => .next ((s.log 0x68 (g.members.headD 0) 0 addr).abandonUse k g 0x68 true)
    | none => .next s
  | _ => .next s

/-- The bytes of a span of units that a list of partial results gives; none while one is missing. -/
def gatherUnits (u : CollUse) (node : Nat → Nat) (units : Nat) : Option (List Byte) :=
  (List.range units).foldl (fun acc k =>
    match acc, u.part k (node k) with
    | some bs, some v => some (bs ++ bytesOf 64 v.toNat)
    | _, _ => none) (some [])

/-- What a member writes at its destination, once it is known (R321). -/
def State.collResult (s : State) (k : UseKey) (g : Group) (c : CollCmd) (n : Nat) : Option (List Byte) :=
  let u := s.collUse k
  let d := collDesc c.desc
  let m := g.members.length
  let i := g.indexOf n
  let units := unitsOf c g
  let root := fun (x : Nat) => ((treeOfUnit g.trees x).map Tree.root).getD 0
  match c.op.toNat with
  | 2 => (gatherUnits u (fun _ => g.members.getD d.root 0) units).map (fun bs => bs.take d.block)
  | 3 =>
    g.members.foldl (fun acc x =>
      match acc, gatherUnits u (fun _ => x) units with
      | some bs, some more => some (bs ++ more.take d.block)
      | _, _ => none) (some [])
  | 4 => (gatherUnits u root units).map (fun bs => (bs.drop (i * d.block)).take d.block)
  | _ => (gatherUnits u root units).map (fun bs => bs.take (d.dstSpan c.op.toNat m i))

/-- Whether the member's use may complete: its result is known, no earlier use of its port is open there, and the share has its
banks back (R319, R358). -/
def State.collReady (s : State) (k : UseKey) (n : Nat) : Option (Group × CollCmd × List Byte) :=
  match s.groupOfJob k.job k.group, (s.core n).contributes k with
  | some g, some c =>
    let first := ((s.core n).colls.find? (fun x => x.port == c.port && x.job == c.job)).map CollCmd.key == some k
    match s.collResult k g c n with
    | some bs => if first && s.banksHere n g.part && s.treeClear g n false then some (g, c, bs) else none
    | none => none
  | _, _ => none

/-- COLL_USE_COMPLETE: the destination is written, then its words set full at .co, then the counter (R322). -/
def execCollUseComplete (s : State) : Host.Outcome State Fault Refusal :=
  match s.arg with
  | .useCore k n =>
    match s.collReady k n with
    | none => .next s
    | some (g, c, bs) =>
      let d := collDesc c.desc
      let who := some g.part
      let s1 := (linePieces d.dst bs.length).foldl (fun t p =>
        (t.put (t.sharePhys n who p.1) ((bs.drop (p.1 - d.dst)).take p.2)).1) s
      let s2 := if d.fe then
          s1.fillWords ((List.range ((bs.length + 7) / 8)).map (fun w => s1.sharePhys n who (d.dst + 8 * w))) 0
        else s1
      let s3 := s2.modCore n (fun x => { x with colls := x.colls.filter (fun y => y.key != k) })
      let u := s3.collUse k
      let done := n :: u.completed
      let s4 := if g.members.all done.contains then
          { s3 with collUses := s3.collUses.filter (fun x => x.key != k) }
        else s3.setCollUse { u with completed := done }
      match d.counter with
      | some x => .next (s4.bump n x 1)
      | none => .next s4
  | _ => .next s

/-- The collective moves of a core: for each command that contributes, its next unit, or its completion; those of a parked slot
stand still (R405). -/
def State.collMoves (s : State) (n : Nat) : List Event :=
  (((s.core n).colls.takeWhile (fun x => !x.heldFor)).filter (fun x => !(s.slot n x.slot).parked)).flatMap (fun c =>
    let k := c.key
    match s.groupOfJob k.job k.group with
    | none => []
    | some g =>
      match s.contributions g k with
      | none => if (s.collReady k n).isSome then [{ kind := .collUseComplete, arg := .useCore k n }] else []
      | some cs =>
        if !agree cs then [{ kind := .collUnitTransfer, arg := .collUnit k 0 n }]
        else
          let u := s.collUse k
          let next := if sends c g n then (List.range (unitsOf c g)).find? (fun x => (u.part x n).isNone) else none
          let step : List Event := match next with
            | some x =>
              if (needs c g x n).all (fun m => (u.part x m).isSome) && s.banksHere n g.part && s.treeClear g n true then
                [{ kind := .collUnitTransfer, arg := .collUnit k x n }]
              else []
            | none => []
          step ++ (if (s.collReady k n).isSome then [{ kind := .collUseComplete, arg := .useCore k n }] else []))

/-- The moves of a core's copy engine; its terms fire in its cycles. -/
def State.engineMoves (s : State) (n : Nat) : List Event :=
  (if (s.pieceReady n).isSome then [{ kind := .copyPiece, arg := .core n }] else []) ++
  (if (s.copyDone n).isSome then [{ kind := .copyComplete, arg := .core n }] else [])

/-- The terms of a core that fire in a cycle that begins now (R315). -/
def State.firing (s : State) (n : Nat) : List (BitVec 4) :=
  ((List.finRange 16).map (fun e => BitVec.ofNat 4 e.val)).filter (s.termFires n)

end Sys2Proof.Machine
end

