-- ==== Sys2Proof/Machine/Compact.lean ====
section
/-!
DEFINITION. The compact forms, each as its expansion with a length of two bytes (R59, R107, R113), the illegal instruction
(R51, R53) and the failed fetch (R52, R341).
-/
namespace Sys2Proof.Machine

/-- The register of a 3-bit field: g8 to g15 (R59). -/
def compactReg (r : BitVec 3) : BitVec 5 := BitVec.ofNat 5 (r.toNat + 8)

/-- A compact form (R59): its expansion, with the next sequential PC at PC + 2. -/
def State.compact (s : State) : Compact → State
  | .cMov d a => s.alu 2 (compactReg d) (compactReg a) 0 (· + ·)
  | .cAdd d a => s.alu 2 (compactReg d) (compactReg d) (compactReg a) (· + ·)
  | .cSub d a => s.alu 2 (compactReg d) (compactReg d) (compactReg a) (· - ·)
  | .cAddi d imm => s.aluImm 2 (compactReg d) (compactReg d) (imm.signExtend 64) (· + ·)
  | .cLi d imm => s.aluImm 2 (compactReg d) 0 (imm.signExtend 64) (· + ·)
  | .cAnd d a => s.alu 2 (compactReg d) (compactReg d) (compactReg a) (· &&& ·)
  | .cShli d sh => s.aluImm 2 (compactReg d) (compactReg d) (sh.setWidth 64) shiftLeft
  | .cShri d sh => s.aluImm 2 (compactReg d) (compactReg d) (sh.setWidth 64) shiftRight
  | .cLd64 d a off => s.loadScalar 2 8 false (compactReg d) (s.getG (compactReg a) + off.setWidth 64 * 8)
  | .cSt64 b a off => s.storeScalar 2 8 (s.getG (compactReg a) + off.setWidth 64 * 8) (s.getG (compactReg b))
  | .cLd32 d a off => s.loadScalar 2 4 true (compactReg d) (s.getG (compactReg a) + off.setWidth 64 * 4)
  | .cSt32 b a off => s.storeScalar 2 4 (s.getG (compactReg a) + off.setWidth 64 * 4) (s.getG (compactReg b))
  | .cBez a off => s.branch 2 (s.getG (compactReg a) == 0) (halfOff off)
  | .cBnz a off => s.branch 2 (s.getG (compactReg a) != 0) (halfOff off)
  | .cJ off => s.jumpLink 2 0 (s.me.pc + halfOff off)
  | .cQget d q => s.qget 2 (compactReg d) q

/-- A compact form (R59). -/
def execCompactForm (form : Compact) (s : State) : Host.Outcome State Fault Refusal := .next (s.compact form)

/-- ILLEGAL_INSTRUCTION: cause 0x01 with the instruction, 16 bits of a compact form, in EADDR (R51, R53). -/
def execIllegalInstruction (long : Bool) (word : BitVec 32) (s : State) : Host.Outcome State Fault Refusal :=
  .next (s.illegal (if long then word.toNat else word.toNat % 2 ^ 16))

/-- FETCH_FAULT: 0x07 with EPC at the instruction before it, or at the failed address where there is none, and that address in
EADDR (R52); an uncorrectable halfword faults 0x1E (R341). -/
def execFetchFault (addr : BitVec 64) (bad : Bool) (s : State) : Host.Outcome State Fault Refusal :=
  if bad then .next (s.fault 0x1E addr)
  else .next (s.deliver s.curCore s.curSlot 0x07 addr (s.me.lastPc.getD addr))

end Sys2Proof.Machine
end

