-- ==== Sys2Proof/Machine/WorkList.lean ====
section
/-!
DEFINITION. Work lists and load levelling, major 0x2D (R323 to R326). An item lies in a cell of the list region; the list
keeps beside it what was pushed, in order, so that a store by software into the cell is known (log 27).
-/
namespace Sys2Proof.Machine

/-- Capacity of a work list in items (R323). -/
def WorkList.capacity (w : WorkList) : Nat := 2 ^ (4 + w.sizelog.toNat)

/-- The items of a list that have a cell. -/
def celled (items : List WorkItem) : Nat := (items.filter (fun x => x.cell.isSome)).length

/-- The cell of the ring that an item takes on the top, or at the bottom; none where every cell is taken (R323; log 27). -/
def WorkList.nextCell (w : WorkList) (top : Bool) : Option Nat :=
  let k := celled w.items
  if w.capacity ≤ k then none
  else some ((w.bottom + (if top then k else w.capacity - 1)) % w.capacity)

/-- A list with an item put on its top, or at its bottom (R323). -/
def WorkList.put (w : WorkList) (x : WorkItem) (top : Bool) : WorkList :=
  if top then { w with items := w.items ++ [x] }
  else { w with items := x :: w.items, bottom := x.cell.getD w.bottom }

/-- A list without its `k` oldest items (R325). -/
def WorkList.ship (w : WorkList) (k : Nat) : WorkList :=
  { w with items := w.items.drop k, bottom := (w.bottom + celled (w.items.take k)) % w.capacity }

/-- WLCFG (R323). -/
def WorkList.config (w : WorkList) : Dword :=
  BitVec.ofNat 64 (natOfBool w.en + 2 * natOfBool w.bal + 2 ^ 16 * w.interval.toNat + 2 ^ 20 * w.thresh.toNat +
    2 ^ 28 * w.sizelog.toNat + 2 ^ 32 * w.base.toNat)

/-- The work list of a core changed. -/
def State.modWl (s : State) (n : Nat) (f : WorkList → WorkList) : State :=
  s.modCore n (fun c => { c with wl := f c.wl })

/-- Whether a value of WLCFG is valid for a partition on a core: SIZELOG, BASE and the region (R323). -/
def State.wlcfgOk (s : State) (n : Nat) (p : BitVec 6) (v : Dword) : Bool :=
  let base := fieldOf v 52 32
  let sz := fieldOf v 31 28
  decide (sz ≤ 12) && base % 16 == 0 && decide (base + 16 * 2 ^ (4 + sz) ≤ s.shareSize n (some p))

/-- A write of WLCFG by a thread of a job (R323). -/
def State.setWlcfg (s : State) (n : Nat) (j : Option Nat) (v : Dword) : State :=
  let base : BitVec 21 := bitsOf v.toNat 32 21
  let sz : BitVec 4 := bitsOf v.toNat 28 4
  let iv : BitVec 4 := bitsOf v.toNat 16 4
  s.modWl n (fun w =>
    let w1 := if base ≠ w.base ∨ sz ≠ w.sizelog then { w with items := [], bottom := 0 } else w
    { w1 with base := base, sizelog := sz, thresh := bitsOf v.toNat 20 8, interval := iv, bal := v.getLsbD 1,
              en := v.getLsbD 0, job := if v.getLsbD 0 then j else w.job, nextAt := s.ptime + 250 * 2 ^ iv.toNat })

/-- WLCFG_WRITE (R323). -/
def execWlcfgWrite (s : State) : Host.Outcome State Fault Refusal :=
  match s.arg with
  | .coreJobVal n j v => .next (s.setWlcfg n (some j) v)
  | _ => .next s

/-- Whether the executing slot may use its core's work list (R324). -/
def State.wlOwned (s : State) : Bool := s.here.wl.en && s.me.job.isSome && s.here.wl.job == s.me.job

/-- Every WQUIET waiting on a core completes with d = 0 once the list holds an item (R326). -/
def State.wakeQuiet (s : State) (n : Nat) : State :=
  if (s.core n).wl.items = [] then s
  else
    (List.finRange 16).foldl (fun t i =>
      match (t.slot n i).wait? with
      | some (.wquiet d _) => t.modSlot n i (fun sl => { (sl.setG d 0).finish with run := .waiting .rejoin })
      | _ => t) s

/-- Address of a cell of a core's list region, in the share of its owning job's partition (R323). -/
def State.cellAt (s : State) (n k : Nat) : Nat :=
  let w := (s.core n).wl
  s.sharePhys n ((w.job.bind s.job?).map Job.part) (w.base.toNat + 16 * k)

/-- An item placed in the next cell of the ring, on the top of a core's list or at its bottom (R323 to R325). -/
def State.placeItem (s : State) (n : Nat) (lo hi : Dword) (levelled top : Bool) : State :=
  let cell := (s.core n).wl.nextCell top
  let x : WorkItem := { lo := lo, hi := hi, levelled := levelled, cell := cell }
  let s1 := match cell with
    | some k => (s.put (s.cellAt n k) (bytesOf 8 lo.toNat ++ bytesOf 8 hi.toNat)).1
    | none => s
  s1.modWl n (fun w => w.put x top)

/-- What an item is when it leaves its list: what was pushed, or, where software has stored something else into its cell, a
free value (R323). -/
def State.itemValue (s : State) (n : Nat) (x : WorkItem) : Dword × Dword :=
  match x.cell with
  | some k =>
    if s.peek (s.cellAt n k) 16 = x.lo.toNat + 2 ^ 64 * x.hi.toNat then (x.lo, x.hi)
    else (Config.freeDword (2 ^ 64 * s.tick + 2 * k), Config.freeDword (2 ^ 64 * s.tick + 2 * k + 1))
  | none => (x.lo, x.hi)

/-- The bank of a cell of the executing core's list region that a handover has not brought in yet (R358). -/
def State.cellAway (s : State) (cell : Option Nat) : Option Nat :=
  cell.bind (fun k => s.bankAway s.curCore s.me.who (s.here.wl.base.toNat + 16 * k) 16)

/-- WPUSH a, b (R324); it waits for the bank of the cell (R358). -/
def execWpush (a b : BitVec 5) (s : State) : Host.Outcome State Fault Refusal :=
  let x := s.getG a
  let y := s.getG b
  if !s.wlOwned then .next (s.fault 0x66 s.noAddr)
  else if s.here.wl.capacity ≤ s.here.wl.items.length then .next (s.fault 0x67 s.noAddr)
  else
    match s.cellAway (s.here.wl.nextCell true) with
    | some k => .next (s.park (.bank k))
    | none =>
      .next (s.release 1 (fun t =>
        ((t.placeItem t.curCore x y false true).wakeQuiet t.curCore).finish 4))

/-- WPOP d, b (R324), which waits for the banks of its operand and of the item's cell (R358); its result is traced (R387). In replay an empty list is found where the trace has one, and an item it
recorded is waited for (R388). -/
def execWpop (d b : BitVec 5) (s : State) : Host.Outcome State Fault Refusal :=
  let p := s.getG b
  let n := s.curCore
  if !s.wlOwned then .next (s.fault 0x66 s.noAddr)
  else if p.toNat % 16 ≠ 0 then .next (s.fault 0x03 p)
  else if 0x200000 ≤ p.toNat then .next (s.fault 0x13 p)
  else if !s.inShare n s.me.who p.toNat 16 then .next (s.fault 0x14 p)
  else
    let rec_ := s.replayedWait n s.curSlot
    let found := match rec_ with
      | some v => if v.msb then s.here.wl.items.getLast? else none
      | none => s.here.wl.items.getLast?
    match (s.bankAway n s.me.who p.toNat 16).or (s.cellAway (found.bind WorkItem.cell)), found with
    | some k, _ => .next (s.park (.bank k))
    | none, none =>
      if timedOut rec_ 63 then .next (s.park .rejoin)
      else
      let r := s.traced n s.curSlot traceWait 0
      .next ((r.1.setG d r.2).finish 4)
    | none, some x =>
      let left := s.here.wl.items.dropLast
      let v := s.itemValue n x
      let s1 := s.modWl n (fun w => { w with items := left })
      let q := s1.put (s1.sharePhys n s.me.who p.toNat) (bytesOf 8 v.1.toNat ++ bytesOf 8 v.2.toNat)
      let r := q.1.traced n s.curSlot traceWait (0x8000000000000000 ||| BitVec.ofNat 64 left.length)
      .next ((((r.1.setG d r.2).acquire (if x.levelled then 3 else 1)).deferIf q.2 p).finish 4)

/-- WQUIET d, gpN (R324, R326). -/
def execWquiet (d : BitVec 5) (pos : BitVec 2) (s : State) : Host.Outcome State Fault Refusal :=
  if !s.wlOwned then .next (s.fault 0x66 s.noAddr)
  else if (s.portGroup s.curCore s.me.job pos).isNone then .next (s.fault 0x23 s.noAddr)
  else if s.here.wl.items ≠ [] then .next ((s.setG d 0).finish 4)
  else .next (s.park (.wquiet d pos))

/-- The neighbour of a core in a job's region: north, east, south, west (R324). -/
def State.neighbour (s : State) (j : Job) (n k : Nat) : Option Nat :=
  let r := s.rowOf n
  let c := s.colOf n
  let inside := fun (r c : Nat) =>
    decide (j.row0 ≤ r) && decide (r < j.row0 + j.rows) && decide (j.col0 ≤ c) && decide (c < j.col0 + j.cols)
  let go := fun (ok : Bool) (r c : Nat) => if ok && inside r c then some (r * s.gridCols + c) else none
  if !s.isGrid n then none
  else
    match k with
    | 1 => go (decide (0 < r)) (r - 1) c
    | 2 => go true r (c + 1)
    | 3 => go true (r + 1) c
    | _ => go (decide (0 < c)) r (c - 1)

/-- WLVL d, a (R324). -/
def execWlvl (d a : BitVec 5) (s : State) : Host.Outcome State Fault Refusal :=
  let x := (s.getG a).toNat
  if !s.wlOwned ∨ 5 ≤ x then .next (s.fault 0x66 s.noAddr)
  else
    let v : Dword :=
      if x = 0 then BitVec.ofNat 64 s.here.wl.items.length
      else
        match s.myJob.bind (fun j => s.neighbour j s.curCore x) with
        | some m =>
          match lookupNat m s.here.wl.reported with
          | some k => BitVec.ofNat 64 k
          | none => BitVec.allOnes 64
        | none => BitVec.allOnes 64
    .next ((s.setG d v).finish 4)

/-! ### Levelling (R325) -/

/-- Whether a core's next balancing interval has come; levelling pauses during a handover (R325). -/
def State.levelDue (s : State) (n : Nat) : Bool :=
  let c := s.core n
  c.wl.en && c.wl.bal && c.handovers.isEmpty && decide (c.wl.nextAt ≤ s.ptime)

/-- The neighbours of a core with levelling enabled (R325). -/
def State.levelNeighbours (s : State) (n : Nat) : List Nat :=
  match (s.core n).wl.job.bind s.job? with
  | none => []
  | some j => (([1, 2, 3, 4].filterMap (s.neighbour j n)).filter (fun m => (s.core m).wl.bal))

/-- Everything a core has written is made visible at .pa before items leave it (R325). -/
def State.publish (s : State) (n : Nat) : State := (s.drainUntil n (fun _ => true)).flushOwned n

/-- LEVELLING_INTERVAL: the core reports its count and ships its oldest items to the least loaded neighbour (R325). -/
def execLevellingInterval (s : State) : Host.Outcome State Fault Refusal :=
  match s.arg with
  | .core n =>
    if !s.levelDue n then .next s
    else
      let w := (s.core n).wl
      let count := w.items.length
      let ms := s.levelNeighbours n
      let s1 := ms.foldl (fun t m => t.modWl m (fun x => { x with reported := insertNat n count x.reported })) s
      let s2 := s1.modWl n (fun x => { x with nextAt := s.ptime + 250 * 2 ^ w.interval.toNat })
      let heard := w.reported.filter (fun r => ms.contains r.1)
      match heard with
      | [] => .next s2
      | r0 :: rest =>
        let best := rest.foldl (fun (b r : Nat × Nat) => if r.2 < b.2 then r else b) r0
        if count < best.2 ∨ count - best.2 ≤ w.thresh.toNat then .next s2
        else
          let k := min 8 ((count - best.2) / 2)
          let out := w.items.take k
          let s3 := (s2.publish n).modWl n (fun x => { x.ship k with inFlight := x.inFlight + k })
          let m : ItemsMsg := { source := n, dest := best.1, job := w.job.getD 0, items := out.map (fun x => (s.itemValue n x, x.levelled)) }
          .next (s3.send (some (true, n, best.1)) .workItemsArrival (.items m))
  | _ => .next s

/-- WORK_ITEMS_ARRIVAL: the items go on the receiver's top in the order shipped; what it lacks room for, or all where the
context is not resident, goes back (R325). -/
def execWorkItemsArrival (s : State) : Host.Outcome State Fault Refusal :=
  match s.arg with
  | .items m =>
    let c := s.core m.dest
    let resident := c.wl.en && c.wl.job == some m.job && c.handovers.isEmpty
    let room := if resident then c.wl.capacity - c.wl.items.length else 0
    let taken := m.items.take room
    let back := m.items.drop room
    let s1 := (taken.foldl (fun t i => t.placeItem m.dest i.1.1 i.1.2 true true) s).wakeQuiet m.dest
    let s2 := s1.modWl m.source (fun w => { w with inFlight := w.inFlight - taken.length })
    match back with
    | [] => .next s2
    | _ => .next (s2.send (some (true, m.dest, m.source)) .workItemsReturn (.items { m with items := back }))
  | _ => .next s

/-- WORK_ITEMS_RETURN: the items are put back at the sender's bottom in their order, each as it was there, while its job owns the
list and has not ended, whatever EN holds by now (R323, R325); a handover waits for them (`State.sharedReady`). -/
def execWorkItemsReturn (s : State) : Host.Outcome State Fault Refusal :=
  match s.arg with
  | .items m =>
    let mine := (s.core m.source).wl.job == some m.job && (s.job? m.job).any (fun j => j.phase != .done)
    let s1 := if mine then m.items.reverse.foldl (fun t i => t.placeItem m.source i.1.1 i.1.2 i.2 false) s else s
    .next ((s1.modWl m.source (fun w => { w with inFlight := w.inFlight - m.items.length })).wakeQuiet m.source)
  | _ => .next s

/-! ### Quiescence (R326) -/

/-- Whether no context of a job that is saved from a core has a started slot that has not halted, or an item (R326). -/
def State.savedQuiet (s : State) (j n : Nat) : Bool :=
  s.contexts.all (fun x => x.core != n ||
    ((x.slots.all (fun e => e.2.job != some j || e.2.run == .off || e.2.run == .halted)) &&
      (x.state.wl.job != some j || x.state.wl.items.isEmpty)))

/-- Whether a core takes part in quiescence: every started slot of the job that has not halted waits in WQUIET on the
group's port, the list is empty and no item of it is in flight. -/
def State.coreQuiet (s : State) (j : Nat) (g : BitVec 8) (n : Nat) : Bool :=
  let c := s.core n
  c.slots.toList.all (fun sl => sl.job != some j || sl.run == .off || sl.run == .halted ||
    (match sl.wait? with
     | some (.wquiet _ p) => s.portGroup n (some j) p == some g
     | _ => false)) &&
  (c.wl.job != some j || (c.wl.items.isEmpty && c.wl.inFlight == 0)) && s.savedQuiet j n

/-- Whether an item of a job is on its way to or back to one of some cores (R326). -/
def State.itemsUnderWay (s : State) (j : Nat) (cores : List Nat) : Bool :=
  s.due.any (fun d => match d.ev.arg with
    | .items m => m.job == j && (cores.contains m.dest || cores.contains m.source)
    | _ => false)

/-- Whether a group of a job is quiescent (R326). -/
def State.quiescent (s : State) (j : Nat) (g : BitVec 8) : Bool :=
  match s.groupOfJob j g with
  | some x => x.members.all (s.coreQuiet j g) && !s.itemsUnderWay j x.members
  | none => false

/-- WQUIET_QUIESCENT: every waiting member completes with d = 1 and acquires at .pa (R326). -/
def execWquietQuiescent (s : State) : Host.Outcome State Fault Refusal :=
  match s.arg with
  | .jobGroup j g =>
    match s.groupOfJob j g with
    | none => .next s
    | some x =>
      if !s.quiescent j g then .next s
      else
        .next (x.members.foldl (fun t m =>
          (List.finRange 16).foldl (fun t i =>
            match (t.slot m i).wait? with
            | some (.wquiet d p) =>
              if (t.slot m i).job = some j ∧ t.portGroup m (some j) p = some g then
                (t.modSlot m i (fun sl => { (sl.setG d 1).finish with run := .waiting .rejoin })).acquireOn m 3
              else t
            | _ => t) t) s)
  | _ => .next s

/-- The work-list moves of a core. -/
def State.workMoves (s : State) (n : Nat) : List Event :=
  (if s.levelDue n then [{ kind := .levellingInterval, arg := .core n }] else []) ++
  (List.finRange 16).filterMap (fun i =>
    match (s.slot n i).wait?, (s.slot n i).job with
    | some (.wquiet _ p), some j =>
      match s.portGroup n (some j) p with
      | some g => if s.quiescent j g then some { kind := .wquietQuiescent, arg := .jobGroup j g } else none
      | none => none
    | _, _ => none)

end Sys2Proof.Machine
end

