-- ==== Sys2Proof/Machine/Groups.lean ====
section
/-!
DEFINITION. Group barriers (R208 to R211): arrivals of cores, their gathering up a tree and the completion down it; parking
at a gp0 use (R405); RBAR (R370) and the phases of a commit (R371); mirrored ranges and RSTAT (R366 to R373).
-/
namespace Sys2Proof.Machine

/-! ### Arrival -/

/-- The started slots of a job on a core that have not halted (R211). -/
def State.jobSlots (s : State) (n j : Nat) : List SlotNo :=
  (List.finRange 16).filter (fun i =>
    let sl := s.slot n i
    sl.job == some j && sl.run != .off && sl.run != .halted)

/-- Whether the slots of a job on a core have all halted, captured ones included (R211, R212). -/
def State.jobHalted (s : State) (n j : Nat) : Bool :=
  let mine := (s.core n).slots.toList.filter (fun sl => sl.job == some j) ++ s.savedSlots n j
  !mine.isEmpty && mine.all (fun sl => sl.run == .halted)

/-- Whether a slot waits at a port of its job. -/
def Slot.atPort (sl : Slot) (port : BitVec 2) : Bool :=
  match sl.wait? with
  | some (.gbar p _) => p == port
  | _ => false

/-- Whether a slot waits at RBAR. -/
def Slot.atRbar (sl : Slot) : Bool :=
  match sl.wait? with
  | some (.gbar _ r) => r
  | _ => false

/-- A use of a group's barrier. -/
def State.groupUse (s : State) (j : Nat) (g : BitVec 8) (use : Nat) : Option GroupUse :=
  s.uses.find? (fun u => u.job == j && u.group == g && u.use == use)

/-- A use changed. -/
def State.modUse (s : State) (j : Nat) (g : BitVec 8) (use : Nat) (f : GroupUse → GroupUse) : State :=
  { s with uses := s.uses.map (fun u => if u.job = j ∧ u.group = g ∧ u.use = use then f u else u) }

/-- A core arrives at the current use of a port; the use opens with its first arrival (R211). -/
def State.arriveAt (s : State) (n j : Nat) (port : BitVec 2) (g : BitVec 8) (rbar : Bool) : State :=
  let use := ((s.portsOf n j).map (fun p => p.completed.get port.toFin)).getD 0 + 1
  let s1 := s.modPorts n j (fun p => { p with arrived := p.arrived.set port.toFin use, rbar := rbar })
  match s1.groupUse j g use with
  | some _ => s1.modUse j g use (fun u => { u with rbar := u.rbar || rbar })
  | none =>
    { s1 with uses := s1.uses ++ [{ job := j, group := g, use := use, gathered := [], rbar := rbar, phase := 0, acks := [] }] }

/-- A core arrives at a port when every started slot of the job on it that has not halted waits there, one that is captured
in its wait included (R211, R212, R370). -/
def State.tryArrive (s : State) (n j : Nat) : State :=
  let ss := s.jobSlots n j
  let away := (s.savedSlots n j).filter (fun sl => sl.run != .off && sl.run != .halted)
  (List.finRange 4).foldl (fun t k =>
    let port : BitVec 2 := BitVec.ofNat 2 k.val
    match t.portsOf n j with
    | none => t
    | some p =>
      match p.port.get k with
      | none => t
      | some g =>
        if !(ss.isEmpty && away.isEmpty) && ss.all (fun i => (t.slot n i).atPort port) && away.all (fun sl => sl.atPort port) &&
            p.arrived.get k == p.completed.get k then
          t.arriveAt n j port g (ss.any (fun i => (t.slot n i).atRbar) || away.any Slot.atRbar)
        else t) s

/-- Whether the members of a group lie on one chiplet (R179). -/
def State.oneChiplet (s : State) (g : Group) : Bool :=
  match g.members with
  | [] => true
  | m :: rest => rest.all (fun x => s.chipOf x == s.chipOf m)

/-- GBAR gpN (R210, R211). -/
def execGbar (pos : BitVec 2) (s : State) : Host.Outcome State Fault Refusal :=
  match s.me.job, s.portGroup s.curCore s.me.job pos with
  | some j, some g =>
    if pos = 0 ∧ s.recoverable then .next (s.fault 0x24 s.noAddr)
    else
      let scope : BitVec 3 := match s.groupOfJob j g with
        | some x => if s.oneChiplet x then 2 else 3
        | none => 3
      .next (s.release scope (fun t => (t.park (.gbar pos false)).tryArrive s.curCore j))
  | _, _ => .next (s.fault 0x23 s.noAddr)

/-! ### Mirrored ranges (R366, R367, R369, R372) -/

/-- The leaves below an entry of a partition's tables (R136, R366). -/
def State.leavesFrom (s : State) (p : BitVec 6) : Nat → Nat → List Nat
  | level, e =>
    if e / 2 ^ 63 % 2 = 0 then []
    else if e / 2 ^ 40 % 2 = 1 then [e]
    else
      match level with
      | 0 => []
      | l + 1 =>
        let stack := e / 2 ^ 24 % 32
        let frame := e % 2 ^ 24
        if 3 ≤ l ∨ s.frameAllowed (some p) stack frame true then
          (List.range 512).flatMap (fun i => s.leavesFrom p l (s.tableEntry l stack frame (i * 2 ^ (12 + 9 * l))))
        else []

/-- Offsets of the 4 KiB pages of the partition's share on a core that leaves of its tables map with HOME 10 and MIR, each once
(R366). -/
def State.mirPages (s : State) (p : BitVec 6) (n : Nat) : List Nat :=
  let leaves := (s.rootEntries.flatMap (fun e => s.leavesFrom p 4 e)).filter (fun e =>
    e / 2 ^ 60 % 4 == 2 && e / 2 ^ 54 % 2 == 1 && e / 2 ^ 21 % 2 ^ 16 == n)
  ((leaves.flatMap (fun e =>
    (List.range (sizePages (e / 2 ^ 38 % 4))).map (fun k => (e % 2 ^ 9 + k) * 4096))).filter (fun o =>
      s.inShare n (some p) o 4096)).eraseDups

/-- Bytes of ranges. -/
def rangeBytes (rs : List (Nat × Nat)) : Nat := rs.foldl (fun a r => a + r.2) 0

/-- The mirror use U of a core for a recoverable job with given ranges (R366). -/
def State.mirrorUse (s : State) (n : Nat) (j : Job) (rs : List (Nat × Nat)) : Nat :=
  4096 + 1536 * (maskSlots j.slotMask).length + rangeBytes rs + 4096 * (s.mirPages j.part n).length

/-- A range put into a list of ranges kept in rising order, none touching another. -/
def addRange : List (Nat × Nat) → Nat → Nat → List (Nat × Nat)
  | [], b, l => [(b, l)]
  | (x, k) :: rest, b, l =>
    if x + k < b then (x, k) :: addRange rest b l
    else if b + l < x then (b, l) :: (x, k) :: rest
    else addRange rest (min x b) (max (x + k) (b + l) - min x b)

/-- A range taken out of a list of ranges. -/
def dropRange (rs : List (Nat × Nat)) (b l : Nat) : List (Nat × Nat) :=
  rs.flatMap (fun r =>
    let lo := r.1
    let hi := r.1 + r.2
    (if lo < b then [(lo, min hi b - lo)] else []) ++ (if b + l < hi then [(max lo (b + l), hi - max lo (b + l))] else []))

/-- Lines of ranges. -/
def rangeLines (rs : List (Nat × Nat)) : List Nat := rs.flatMap (fun r => linesOf r.1 r.2)

/-- The lines a core mirrors for a job: its ranges and its MIR pages (R366). -/
def State.mirroredLines (s : State) (n : Nat) (j : Job) (m : Mirror) : List Nat :=
  (rangeLines m.ranges ++ (s.mirPages j.part n).flatMap (fun o => linesOf o 4096)).eraseDups

/-- The checks of MIRADD and MIRDEL, then their effect on the ranges of the job's mirror (R369). -/
def State.changeRanges (s : State) (a b : Dword) (f : Nat → Job → Mirror → Option Mirror) : State :=
  if a.toNat % 64 ≠ 0 then s.fault 0x03 a
  else if b.toNat % 64 ≠ 0 then s.fault 0x03 b
  else if b = 0 then s.finish 4
  else if s.shareSize s.curCore s.me.who < a.toNat + b.toNat then
    s.fault 0x14 (BitVec.ofNat 64 (max a.toNat (s.shareSize s.curCore s.me.who)))
  else if !s.recoverable then s.finish 4
  else
    match s.me.job, s.myJob with
    | some j, some job =>
      match s.mirrorOf s.curCore j with
      | none => s.finish 4
      | some m =>
        match f j job m with
        | none => s.fault 0x75 a
        | some m1 => (s.modMirror s.curCore j (fun _ => m1)).finish 4
    | _, _ => s.finish 4

/-- MIRADD a, b (R369). -/
def execMiradd (a b : BitVec 5) (s : State) : Host.Outcome State Fault Refusal :=
  let x := s.getG a
  let y := s.getG b
  if !s.isGrid s.curCore then .next (s.illegal (wordOf (.miradd a b)))
  else
    .next (s.changeRanges x y (fun _ job m =>
      let new := addRange m.ranges x.toNat y.toNat
      if 16 < new.length ∨ m.allow < s.mirrorUse s.curCore job new then none
      else
        let fresh := (rangeLines new).filter (fun l => !(rangeLines m.ranges).contains l)
        some { m with ranges := new, dirty := (fresh ++ m.dirty).eraseDups, prev := (fresh ++ m.prev).eraseDups }))

/-- MIRDEL a, b (R369). -/
def execMirdel (a b : BitVec 5) (s : State) : Host.Outcome State Fault Refusal :=
  let x := s.getG a
  let y := s.getG b
  if !s.isGrid s.curCore then .next (s.illegal (wordOf (.mirdel a b)))
  else
    .next (s.changeRanges x y (fun _ _ m =>
      let new := dropRange m.ranges x.toNat y.toNat
      if 16 < new.length then none else some { m with ranges := new }))

/-- RSTAT's value (R372). -/
def State.rstat (s : State) : Dword :=
  match s.me.job, s.myJob with
  | some j, some job =>
    let m := s.mirrorOf s.curCore j
    let mf := fun (f : Mirror → Nat) => (m.map f).getD 0
    BitVec.ofNat 64 ((if job.recov then mf (fun x => s.mirrorUse s.curCore job x.ranges) else 0) % 2 ^ 22 +
      2 ^ 27 * mf (fun x => x.ranges.length) + 2 ^ 32 * mf (fun x => natOfBool x.reexec) +
      2 ^ 33 * mf (fun x => natOfBool x.unprot) + 2 ^ 34 * natOfBool job.recording + 2 ^ 35 * natOfBool job.replay +
      2 ^ 40 * mf (fun x => x.lcause.toNat) + 2 ^ 48 * mf (fun x => x.nrec.toNat))
  | _, _ => 0

/-- RSTAT d (R372). -/
def execRstat (d : BitVec 5) (s : State) : Host.Outcome State Fault Refusal :=
  if !s.isGrid s.curCore then .next (s.illegal (wordOf (.rstat d)))
  else .next ((s.setG d s.rstat).finish 4)

/-! ### RBAR (R370) -/

/-- Whether every flow-tracked message that a core has sent for a partition is deposited (R370). -/
def Core.allDeposited (c : Core) (p : BitVec 6) : Bool :=
  c.undeposited.all (fun x => x.1 != p) && c.channels.toList.all (fun ch => !ch.valid || ch.part != p || !ch.resync)

/-- RBAR (R370). -/
def execRbar (s : State) : Host.Outcome State Fault Refusal :=
  let n := s.curCore
  if !s.isGrid n then .next (s.illegal (wordOf .rbar))
  else
    match s.me.job, s.myJob with
    | some j, some job =>
      let exceeds := match s.mirrorOf n j with
        | some m => job.recov && decide (m.allow < s.mirrorUse n job m.ranges)
        | none => false
      if (s.portGroup n s.me.job 0).isNone then .next (s.fault 0x23 s.noAddr)
      else if exceeds then .next (s.fault 0x75 s.noAddr)
      else
        .next (s.release 3 (fun t =>
          if job.recov && !t.here.allDeposited job.part then t.park .deposits
          else (t.park (.gbar 0 true)).tryArrive n j))
    | _, _ => .next (s.fault 0x23 s.noAddr)

/-! ### Gathering and completion (R211) -/

/-- The tree of a barrier: the highest weight, the lowest number on a tie (R211). -/
def Group.mainTree (g : Group) : Tree :=
  match g.trees with
  | [] => { root := g.members.headD 0, weight := 1, depth := 0, parent := [] }
  | t :: rest => rest.foldl (fun b x => if b.weight < x.weight then x else b) t

/-- The port by which a core's job names a group. -/
def Ports.portFor (p : Ports) (g : BitVec 8) : Option (BitVec 2) :=
  ((List.finRange 4).find? (fun k => p.port.get k == some g)).map (fun k => BitVec.ofNat 2 k.val)

/-- Whether a member's arrival at a use can be gathered: its own core has arrived, or its slots have all halted, its children's
arrivals are gathered, and its message to its parent comes behind those that left before it (R176, R221); the root of a
recoverable commit waits while a recovery is under way or about to begin (R211, R376). -/
def State.canGather (s : State) (u : GroupUse) (g : Group) (m : Nat) : Bool :=
  let t := g.mainTree
  let own := match s.portsOf m u.job with
    | some p =>
      match p.portFor u.group with
      | some k => decide (u.use ≤ p.arrived.get k.toFin) || s.jobHalted m u.job
      | none => false
    | none => false
  let held := m == t.root && (match s.job? u.job with
    | some j => j.recov && (j.recovering != [] || g.members.any s.dying)
    | none => false)
  let behind := m == t.root || (match lookupNat m t.parent with
    | some x => s.pairClear m x g.part
    | none => true)
  u.phase == 0 && !u.gathered.contains m && own && !(s.core m).isolated && !s.dying m && !held && behind &&
    (t.children g.members m).all u.gathered.contains

/-- The slots of a job on a core parked as its gp0 use completes, where the job is shed (R405). -/
def State.parkIfShed (s : State) (n j : Nat) : State :=
  match s.job? j with
  | some job =>
    if job.shed then
      (s.jobSlots n j).foldl (fun t i => t.modSlot n i (fun sl => { sl with parked := true })) s
    else s
  | none => s

/-- A job that is shed counts as parked once its gp0 use completes (R405, R406). -/
def State.markParked (s : State) (j : Nat) : State :=
  s.modJob j (fun x => if x.shed then { x with parked := true } else x)

/-- The round counted on slots of a core (R370). -/
def State.countRound (s : State) (n : Nat) (ss : List SlotNo) : State :=
  ss.foldl (fun t i => t.modSlot n i (fun sl => { sl with cnt := { sl.cnt with round := sl.cnt.round + 1 } })) s

/-- The slots of a job on a core that have not halted, those that have not started included. -/
def State.everySlot (s : State) (n j : Nat) : List SlotNo :=
  (List.finRange 16).filter (fun i => (s.slot n i).job == some j && (s.slot n i).run != .halted)

/-- Use number `use` of a port completes on a core, once: the round is counted where the use counts one, on every slot of the
job that has not halted at a commit and on the started ones of them otherwise (R370, R501); the slots that wait at the port go on, captured ones
once restored; then the acquire (R211, R212, R370). -/
def State.completePort (s : State) (n j : Nat) (port : BitVec 2) (use : Nat) (rbar commit : Bool) (scope : BitVec 3) :
    State :=
  match s.portsOf n j with
  | none => s
  | some p =>
    if p.completed.get port.toFin + 1 ≠ use then s
    else
      let s1 := s.modPorts n j (fun p =>
        { p with completed := p.completed.set port.toFin use,
                 arrived := p.arrived.set port.toFin (max (p.arrived.get port.toFin) use) })
      let s2 := if rbar then s1.countRound n (if commit then s1.everySlot n j else s1.jobSlots n j) else s1
      let s3 := (s2.jobSlots n j).foldl (fun t i => if (t.slot n i).atPort port then t.completeSlot n i else t) s2
      let s4 := s3.endSaved n j (fun w => match w with
        | .gbar q _ => if q = port then some rbar else none
        | _ => none)
      let s5 := if s.jobSlots n j = [] then s4 else s4.acquireOn n scope
      if port = 0 then s5.parkIfShed n j else s5

/-- A use's arrivals are all gathered at the root: a commit streams, another use completes (R211, R371). -/
def State.useGathered (s : State) (u : GroupUse) (g : Group) : State :=
  let recov := match s.job? u.job with
    | some j => j.recov
    | none => false
  let port := ((s.portsOf g.mainTree.root u.job).bind (fun p => p.portFor u.group)).getD 0
  if recov && port == 0 then
    g.members.foldl (fun t m => t.send (some (true, g.mainTree.root, m)) .roundStream (.coreJob m u.job))
      (s.modUse u.job u.group u.use (fun x => { x with phase := 1, acks := [] }))
  else
    let s1 := { s with uses := s.uses.filter (fun x => !(x.job == u.job && x.group == u.group && x.use == u.use)) }
    let s2 := if port = 0 then s1.markParked u.job else s1
    s2.send (some (true, g.mainTree.root, g.mainTree.root)) .groupCompletionMessage
      (.group { job := u.job, group := u.group, port := port, use := u.use, node := g.mainTree.root, child := 0,
                rbar := u.rbar && port == 0, phase := 0 })

/-- GROUP_ARRIVAL_MESSAGE: a member's arrival, with those below it, is gathered (R211). -/
def execGroupArrivalMessage (s : State) : Host.Outcome State Fault Refusal :=
  match s.arg with
  | .group m =>
    match s.groupUse m.job m.group m.use, s.groupOfJob m.job m.group with
    | some u, some g =>
      if !s.canGather u g m.node then .next s
      else
        let u1 := { u with gathered := m.node :: u.gathered }
        let s1 := s.modUse u.job u.group u.use (fun _ => u1)
        .next (if m.node = g.mainTree.root then s1.useGathered u1 g else s1)
    | _, _ => .next s
  | _ => .next s

/-- GROUP_COMPLETION_MESSAGE: a member's waiting slots complete and the message goes down to its children (R211). -/
def execGroupCompletionMessage (s : State) : Host.Outcome State Fault Refusal :=
  match s.arg with
  | .group m =>
    match s.groupOfJob m.job m.group with
    | none => .next s
    | some g =>
      let scope : BitVec 3 := if m.rbar then 3 else if s.oneChiplet g then 2 else 3
      let s1 := s.completePort m.node m.job m.port m.use m.rbar false scope
      .next ((g.mainTree.children g.members m.node).foldl (fun t k =>
        t.send (some (true, m.node, k)) .groupCompletionMessage (.group { m with node := k, child := m.node })) s1)
  | _ => .next s

/-- The gatherings that can happen now. -/
def State.groupMoves (s : State) : List Event :=
  s.uses.flatMap (fun u =>
    match s.groupOfJob u.job u.group with
    | none => []
    | some g =>
      (g.members.filter (fun m => s.canGather u g m)).map (fun m =>
        { kind := .groupArrivalMessage,
          arg := .group { job := u.job, group := u.group, port := 0, use := u.use, node := m, child := m, rbar := u.rbar,
                          phase := u.phase } }))

/-! ### The commit (R371) -/

/-- A slot as a commit mirrors it: after its RBAR, the round counted where it has not halted (R366, R370, R377, R501). -/
def Slot.committed (sl : Slot) : Slot :=
  let x := if sl.atRbar then { sl.finish with run := .running, ilen := 4 } else sl
  if sl.run = .halted then x else { x with cnt := { x.cnt with round := x.cnt.round + 1 } }

/-- The state of a rank that a commit mirrors (R366). -/
def State.copyOf (s : State) (n j : Nat) (job : Job) (m : Mirror) (round : Nat) : Copy :=
  let c := s.core n
  let idx := (maskSlots job.slotMask).flatMap (fun i => [2 * i.val, 2 * i.val + 1])
  let words := (s.mirroredLines n job m).flatMap (fun l =>
    (List.range 8).map (fun k => s.sharePhys n (some job.part) (l + 8 * k)))
  { job := j, core := n, staging := true, round := round,
    slots := ((maskSlots job.slotMask).filter (fun i => (s.slot n i).job == some j)).map
      (fun i => (i, (s.slot n i).committed)),
    counters := idx.map (fun k => (k, c.c.get (Fin.ofNat 32 k))),
    bars := idx.map (fun k => (k, c.bars.get (Fin.ofNat 32 k))),
    queues := ((List.finRange 8).filter (fun q => job.slotMask.getLsbD (2 * q.val) || job.slotMask.getLsbD (2 * q.val + 1))).map
      (fun q => (q.val, { QueueReg.reset with dest := (c.q.get q).dest, cls := (c.q.get q).cls, mode := (c.q.get q).mode })),
    classes := ((List.finRange 32).filter (fun k => s.ownsClass job.part n k.val)).map (fun k => (k.val, c.classes.get k)),
    channels := ((List.finRange 64).filter (fun k => (c.channels.get k).valid && (c.channels.get k).part == job.part)).map
      (fun k => (k.val, { (c.channels.get k) with waiters := [] })),
    row := lookupNat job.part.toNat c.rows,
    ranges := m.ranges,
    cells := words.flatMap (fun w => (List.range 8).map (fun b => (w + b, Memory.get s.mem (w + b)))),
    full := (words.filter (fun w => s.isFull w || s.scopeAt w != 0)).map (fun w => (w, s.isFull w, s.scopeAt w)) }

/-- The open use of a job's gp0, whose phases a commit goes through. -/
def State.commitUse (s : State) (j : Nat) : Option GroupUse := s.uses.find? (fun u => u.job == j && u.phase != 0)

/-- ROUND_STREAM: a member streams its state into its staging copy and acknowledges (R371). -/
def execRoundStream (s : State) : Host.Outcome State Fault Refusal :=
  match s.arg with
  | .coreJob n j =>
    match s.commitUse j, s.job? j, s.mirrorOf n j with
    | some u, some job, some m =>
      if u.phase ≠ 1 then .next s
      else
        let k := s.copyOf n j job m (job.round + 1)
        let s1 := { s with copies := k :: s.copies.filter (fun x => !(x.job == j && x.core == n && x.staging)) }
        let root := ((s.groupOfJob j u.group).map (fun g => g.mainTree.root)).getD n
        .next ((s1.modMirror n j (fun x => { x with streamed := true })).send (some (true, n, root)) .mirrorStreamComplete
          (.coreJob n j))
    | _, _, _ => .next s
  | _ => .next s

/-- MIRROR_STREAM_COMPLETE: a member's acknowledgement reaches the root; the last one is the commit point (R371). -/
def execMirrorStreamComplete (s : State) : Host.Outcome State Fault Refusal :=
  match s.arg with
  | .coreJob n j =>
    match s.commitUse j with
    | some u =>
      if u.phase ≠ 1 then .next s
      else
        let acks := if u.acks.contains n then u.acks else n :: u.acks
        let s1 := s.modUse u.job u.group u.use (fun x => { x with acks := acks })
        match s.groupOfJob j u.group with
        | some g => .next (if g.members.all acks.contains then s1.send none .commitPoint (.job j) else s1)
        | none => .next s1
    | none => .next s
  | _ => .next s

/-- COMMIT_POINT: the round table records the round, and the root broadcasts commit (R371). -/
def execCommitPoint (s : State) : Host.Outcome State Fault Refusal :=
  match s.arg with
  | .job j =>
    match s.commitUse j with
    | some u =>
      match s.groupOfJob j u.group with
      | some g =>
        if u.phase ≠ 1 ∨ !(g.members.all u.acks.contains) then .next s
        else
          let s1 := (s.modJob j (fun x => { x with round := x.round + 1 })).modUse u.job u.group u.use
            (fun x => { x with phase := 2, acks := [] })
          .next (g.members.foldl (fun t m => t.send (some (true, g.mainTree.root, m)) .roundCommit (.coreJob m j))
            (s1.markParked j))
      | none => .next s
    | none => .next s
  | _ => .next s

/-- The staging copy of a rank becomes its committed copy (R371). -/
def State.adoptCopy (s : State) (n j : Nat) : State :=
  let mine := fun (x : Copy) => x.job == j && x.core == n
  match s.copies.find? (fun x => mine x && x.staging) with
  | some k => { s with copies := { k with staging := false } :: s.copies.filter (fun x => !mine x) }
  | none => s

/-- The slots of a job that is shed while the last cores of a commit are still to be released: those that have gone on already are
captured where they are (R410). -/
def State.parkRest (s : State) (j : Nat) : State :=
  match s.job? j with
  | none => s
  | some job =>
    if job.shed && !job.parked then
      let s1 := s.markParked j
      { s1 with cores := s1.cores.map (fun e => (e.1, { e.2 with slots := e.2.slots.map (fun sl =>
          if sl.job = some j ∧ sl.run ≠ .off ∧ sl.run ≠ .halted ∧ !sl.parked then { sl with capture := true } else sl) })) }
    else s

/-- ROUND_COMMIT: a core adopts its staging copy, empties its log, steps its flags and releases its slots (R367, R370,
R371); with the last core the commit is complete, and a job that was shed meanwhile parks (R410). -/
def execRoundCommit (s : State) : Host.Outcome State Fault Refusal :=
  match s.arg with
  | .coreJob n j =>
    match s.commitUse j with
    | some u =>
      if u.phase ≠ 2 ∨ u.acks.contains n then .next s
      else
        let s1 := (s.adoptCopy n j).modMirror n j (fun m =>
          { m with log := [], prev := m.dirty, dirty := [], reexec := false, streamed := false,
                   unprot := if m.streamed then m.noSpace else m.unprot })
        let s2 := s1.completePort n j 0 u.use true true 3
        let acks := n :: u.acks
        match s.groupOfJob j u.group with
        | some g =>
          if g.members.all acks.contains then
            .next (State.parkRest
              { s2 with uses := s2.uses.filter (fun x => !(x.job == j && x.group == u.group && x.use == u.use)) } j)
          else .next (s2.modUse u.job u.group u.use (fun x => { x with acks := acks }))
        | none => .next s2
    | none => .next s
  | _ => .next s

end Sys2Proof.Machine
end

