-- ==== Sys2Proof/Machine/System.lean ====
section
/-!
DEFINITION. Control registers (R330 to R332), major 0x2E (R333 to R339), the timer and asynchronous causes (R340, R341),
slots that rejoin (R27), and the supervisor instructions on slots, code and PLBs (R345 to R349).
-/
namespace Sys2Proof.Machine

/-! ### Control registers -/

/-- SSTAT (R330). -/
def Status.word (x : Status) : Dword :=
  BitVec.ofNat 64 (x.mode.code * 2 ^ 8 + x.pmode.code * 2 ^ 10 + natOfBool x.tie * 2 ^ 13 + natOfBool x.exl * 2 ^ 14 +
    natOfBool x.upc * 2 ^ 15 + natOfBool x.ovf * 2 ^ 16 + x.brole.toNat * 2 ^ 18 + x.bend.toNat * 2 ^ 20 +
    x.slotNo.toNat * 2 ^ 28 + x.partition.toNat * 2 ^ 32)

/-- A write to SSTAT: BEND and TIE always, EXL and PMODE above user mode; PMODE takes no value 2, nor 3 on a grid core or an
edge core (R330). -/
def Status.write (x : Status) (root : Bool) (v : Dword) : Status :=
  let y := { x with bend := bitsOf v.toNat 20 3, tie := v.getLsbD 13 }
  if x.mode = .user then y
  else
    { y with exl := v.getLsbD 14,
             pmode := match fieldOf v 11 10 with
               | 0 => .user
               | 1 => .supervisor
               | 3 => if root then .management else y.pmode
               | _ => y.pmode }

/-- A monitor register (R332). -/
def Monitor.word (m : Monitor) : Dword :=
  BitVec.ofNat 64 (m.line.toNat * 2 ^ 6 + natOfBool m.triggered * 2 ^ 62 + natOfBool m.armed * 2 ^ 63)

/-- CAPS of the executing slot (R332). -/
def State.capsWord (s : State) : Dword :=
  let n := s.curCore
  let who := s.me.who
  let p := s.me.st.partition
  let slots := if who.isNone then s.liveSlots n else (s.partSlots p n).length
  let mq := (s.matOwners n).find? (fun o => o.1 == p && who.isSome)
  BitVec.ofNat 64 (slots + (s.shareBanks n who).length * 2 ^ 5 +
    natOfBool (s.isGrid n && (s.capOf n).benchOk) * 2 ^ 10 + natOfBool mq.isSome * 2 ^ 11 +
    ((mq.map (fun o => o.2.toNat)).getD 0) * 2 ^ 12 + natOfBool (s.matSplit n) * 2 ^ 13 +
    (s.slice n who).2 / 0x1000 % 2 ^ 6 * 2 ^ 16 + s.liveSlots n * 2 ^ 22)

/-- FNCFG of a partition's row (R350). -/
def PartRow.fncfg (r : PartRow) : Dword :=
  BitVec.ofNat 64 (r.fnBase.toNat + natOfBool r.fnEn * 2 ^ 21 + r.fnSizelog.toNat * 2 ^ 22 + r.fnCounter.toNat * 2 ^ 27 +
    r.fnHead.toNat * 2 ^ 32)

/-- The value of a control register of the executing slot (R332). -/
def State.ctl (s : State) (num : Nat) : Dword :=
  let sl := s.me
  let c := s.here
  let row := s.row s.curCore sl.st.partition
  match num with
  | 0x000 => sl.st.word
  | 0x001 => sl.fp.rmode.setWidth 64
  | 0x002 => sl.fp.fflags.setWidth 64
  | 0x003 => sl.fp.seed
  | 0x004 => sl.fp.draw
  | 0x005 => sl.cnt.round
  | 0x006 => BitVec.ofNat 64 c.t - sl.cnt.cycleOff
  | 0x007 => sl.cnt.instret
  | 0x008 => sl.cnt.tcmp
  | 0x009 => BitVec.ofNat 64 s.ptime
  | 0x010 => sl.loops.lcnt0.setWidth 64
  | 0x011 => sl.loops.lbeg0.setWidth 64
  | 0x012 => sl.loops.lend0.setWidth 64
  | 0x013 => sl.loops.lcnt1.setWidth 64
  | 0x014 => sl.loops.lbeg1.setWidth 64
  | 0x015 => sl.loops.lend1.setWidth 64
  | 0x018 => (sl.mons.get 0).word
  | 0x019 => (sl.mons.get 1).word
  | 0x01A => (sl.mons.get 2).word
  | 0x01B => (sl.mons.get 3).word
  | 0x020 => sl.vec.uepc
  | 0x021 => sl.vec.ucause.setWidth 64
  | 0x022 => sl.vec.uaddr
  | 0x023 => sl.vec.upvec.setWidth 64
  | 0x024 => sl.vec.uscr
  | 0x028 => sl.vec.epc
  | 0x029 => sl.vec.ecause.setWidth 64
  | 0x02A => sl.vec.eaddr
  | 0x02B => sl.vec.tvec.setWidth 64
  | 0x02C => sl.vec.escr
  | 0x100 => c.fduty.setWidth 64
  | 0x101 => c.hold.setWidth 64
  | 0x102 => row.ovfslot.setWidth 64
  | 0x103 => row.ovfvec.setWidth 64
  | 0x104 => c.panelId.setWidth 64
  | 0x105 => BitVec.ofNat 64 s.curCore
  | 0x106 => s.capsWord
  | 0x110 => c.cpstatDword
  | 0x111 => c.wl.config
  | 0x112 => row.fncfg
  | 0x118 => (s.mat s.curCore 0).mksteps
  | 0x119 => (s.mat s.curCore 0).mstallc
  | 0x11A => (s.mat s.curCore 1).mksteps
  | 0x11B => (s.mat s.curCore 1).mstallc
  | _ => if 0x108 ≤ num ∧ num ≤ 0x10F then (s.queue s.curCore (BitVec.ofNat 3 (num - 0x108))).qcfg else 0

/-- What a mode may do with a control register (R332). -/
inductive CtlAccess where
  | none | ro | rw
  deriving DecidableEq, Repr

/-- The access of a mode to a control register (R332). -/
def ctlAccess (num : Nat) (m : Mode) : CtlAccess :=
  let byMode := fun (u sv mg : CtlAccess) => match m with
    | .user => u
    | .supervisor => sv
    | .management => mg
  if num = 0x005 ∨ num = 0x100 then byMode .ro .ro .rw
  else if num = 0x006 ∨ num = 0x007 ∨ num = 0x101 ∨ num = 0x102 ∨ num = 0x103 ∨ num = 0x112 then byMode .ro .rw .rw
  else if 0x028 ≤ num ∧ num ≤ 0x02C then byMode .none .rw .rw
  else if num = 0x009 ∨ (0x018 ≤ num ∧ num ≤ 0x01B) ∨ (0x104 ≤ num ∧ num ≤ 0x106) ∨ num = 0x110 ∨
      (0x118 ≤ num ∧ num ≤ 0x11B) then .ro
  else .rw

/-- Whether a partition's work list is on the executing slot's core (R323). -/
def State.ownsWorkList (s : State) : Bool :=
  match s.me.who with
  | some p =>
    match s.partEntry p with
    | some e => e.workList && s.inRegion p s.curCore
    | none => false
  | none => false

/-- The ownership fault of a control register for the executing slot (R331). -/
def State.ctlOwner (s : State) (num : Nat) : Option (BitVec 8) :=
  if 0x108 ≤ num ∧ num ≤ 0x10F then (if s.ownsQueue (num - 0x108) then none else some 0x31)
  else if num = 0x111 then (if s.ownsWorkList then none else some 0x66)
  else if 0x118 ≤ num ∧ num ≤ 0x11B then
    (if s.ownsMatQueue s.me.st.partition s.curCore (BitVec.ofNat 1 ((num - 0x118) / 2)) then none else some 0x52)
  else none

/-- Whether a value of FNCFG is valid for a partition on a core (R350). -/
def State.fncfgOk (s : State) (n : Nat) (who : Option (BitVec 6)) (v : Dword) : Bool :=
  let sz := fieldOf v 25 22
  let base := fieldOf v 20 0
  decide (sz ≤ 12) && base % (8 * 2 ^ (4 + sz)) == 0 && decide (base + 8 * 2 ^ (4 + sz) ≤ s.shareSize n who)

/-- A write of FNCFG: the fields, and HEAD zero (R350). -/
def State.setFncfg (s : State) (n : Nat) (p : BitVec 6) (v : Dword) : State :=
  s.modRow n p (fun r =>
    { r with fnBase := bitsOf v.toNat 0 21, fnEn := v.getLsbD 21, fnSizelog := bitsOf v.toNat 22 4,
             fnCounter := bitsOf v.toNat 27 5, fnHead := 0 })

/-- FNCFG_WRITE (R350). -/
def execFncfgWrite (s : State) : Host.Outcome State Fault Refusal :=
  match s.arg with
  | .corePartVal n p v => .next (s.setFncfg n p v)
  | _ => .next s

/-- The fault of a value that a control register does not take, if any (R323, R350). -/
def State.ctlReject (s : State) (num : Nat) (v : Dword) : Option (BitVec 8) :=
  if num = 0x111 then (if s.wlcfgOk s.curCore s.me.st.partition v then none else some 0x66)
  else if num = 0x112 then
    if !s.fncfgOk s.curCore s.me.who v then some 0x0B
    else if !s.ownsCounter (fieldOf v 31 27) then some 0x21 else none
  else none

/-- A slot's register written (R330, R332). LBEGn and LENDn take an odd value whole: R116 calls targets even and does not say
what an odd one does (DESIGN CHOICE, log 54). -/
def Slot.writeCtl (sl : Slot) (root : Bool) (t num : Nat) (v : Dword) : Slot :=
  let vec := fun (f : Vectors → Vectors) => { sl with vec := f sl.vec }
  let lp := fun (f : Loops → Loops) => { sl with loops := f sl.loops }
  match num with
  | 0x000 => { sl with st := sl.st.write root v }
  | 0x001 => if fieldOf v 2 0 = 7 then sl else { sl with fp := { sl.fp with rmode := v.setWidth 3 } }
  | 0x002 => { sl with fp := { sl.fp with fflags := v.setWidth 5 } }
  | 0x003 => { sl with fp := { sl.fp with seed := v } }
  | 0x004 => { sl with fp := { sl.fp with draw := v } }
  | 0x005 => { sl with cnt := { sl.cnt with round := v } }
  | 0x006 => { sl with cnt := { sl.cnt with cycleOff := BitVec.ofNat 64 t - v } }
  | 0x007 => { sl with cnt := { sl.cnt with instret := v } }
  | 0x008 => { sl with cnt := { sl.cnt with tcmp := v } }
  | 0x010 => lp (fun l => { l with lcnt0 := v.setWidth 32 })
  | 0x011 => lp (fun l => { l with lbeg0 := v.setWidth 17 })
  | 0x012 => lp (fun l => { l with lend0 := v.setWidth 17 })
  | 0x013 => lp (fun l => { l with lcnt1 := v.setWidth 32 })
  | 0x014 => lp (fun l => { l with lbeg1 := v.setWidth 17 })
  | 0x015 => lp (fun l => { l with lend1 := v.setWidth 17 })
  | 0x020 => vec (fun x => { x with uepc := v })
  | 0x021 => vec (fun x => { x with ucause := v.setWidth 8 })
  | 0x022 => vec (fun x => { x with uaddr := v })
  | 0x023 => vec (fun x => { x with upvec := v.setWidth 17 })
  | 0x024 => vec (fun x => { x with uscr := v })
  | 0x028 => vec (fun x => { x with epc := v })
  | 0x029 => vec (fun x => { x with ecause := v.setWidth 8 })
  | 0x02A => vec (fun x => { x with eaddr := v })
  | 0x02B => vec (fun x => { x with tvec := v.setWidth 17 })
  | 0x02C => vec (fun x => { x with escr := v })
  | _ => sl

/-- A control register of the executing slot, its core or its partition's row written (R331, R332). -/
def State.setCtl (s : State) (num : Nat) (v : Dword) : State :=
  let n := s.curCore
  let p := s.me.st.partition
  if num < 0x100 then s.modMe (fun sl => sl.writeCtl (s.onRoot n) s.here.t num v)
  else
    match num with
    | 0x100 => if fieldOf v 4 0 ≤ 16 then s.modHere (fun c => { c with fduty := v.setWidth 5 }) else s
    | 0x101 => s.modHere (fun c => { c with hold := v.setWidth 32 })
    | 0x102 => s.modRow n p (fun r => { r with ovfslot := v.setWidth 5 })
    | 0x103 => s.modRow n p (fun r => { r with ovfvec := v.setWidth 17 &&& 0x1FFFE })
    | 0x111 => s.setWlcfg n s.me.job v
    | 0x112 => s.setFncfg n p v
    | _ => if 0x108 ≤ num ∧ num ≤ 0x10F then s.setQcfg n (BitVec.ofNat 3 (num - 0x108)) v else s

/-- What a read of a control register does besides: CPSTAT's FAULT clears (R311). -/
def State.readEffect (s : State) (num : Nat) : State :=
  if num = 0x110 then s.modHere (fun c => { c with cpstat := { c.cpstat with fault := false } }) else s

/-- The trace kind of a register's read (R387). -/
def traceKind (num : Nat) : Option Nat :=
  if num = 0x006 ∨ num = 0x007 then some traceCycle else if num = 0x009 then some tracePtime else none

/-- CRR d, num (R331, R332); reads of CYCLE, INSTRET and PTIME are traced (R387). -/
def execCrr (d : BitVec 5) (imm : BitVec 12) (s : State) : Host.Outcome State Fault Refusal :=
  let num := imm.toNat
  if !crNumbers.contains num then .next (s.illegal (wordOf (.crr d imm)))
  else if ctlAccess num s.me.st.mode = .none then .next s.privilege
  else
    match s.ctlOwner num with
    | some c => .next (s.fault c s.noAddr)
    | none =>
      let v := s.ctl num
      let r := match traceKind num with
        | some k => s.traced s.curCore s.curSlot k v
        | none => (s, v)
      .next (((r.1.readEffect num).setG d r.2).finish 4)

/-- CRW d, num, a: the old value to d, the register written under its access; a loop register takes effect after this
instruction's own end action (R116, R331). -/
def execCrw (d a : BitVec 5) (imm : BitVec 12) (s : State) : Host.Outcome State Fault Refusal :=
  let num := imm.toNat
  let v := s.getG a
  if !crNumbers.contains num then .next (s.illegal (wordOf (.crw d a imm)))
  else if ctlAccess num s.me.st.mode = .none then .next s.privilege
  else
    match s.ctlOwner num with
    | some c => .next (s.fault c s.noAddr)
    | none =>
      let old := s.ctl num
      let writable := ctlAccess num s.me.st.mode == .rw
      match (if writable then s.ctlReject num v else none) with
      | some c => .next (s.fault c v)
      | none =>
        let s1 := (s.readEffect num).setG d old
        if 0x010 ≤ num ∧ num ≤ 0x015 then .next ((s1.finish 4).setCtl num v)
        else .next ((if writable then s1.setCtl num v else s1).finish 4)

/-! ### Major 0x2E -/

/-- TRAP imm: cause 0x04, EPC at the next instruction; the instruction is retired (R334). -/
def execTrap (imm : BitVec 12) (s : State) : Host.Outcome State Fault Refusal :=
  let s1 := s.modMe (fun sl => { sl with cnt := { sl.cnt with instret := sl.cnt.instret + 1 } })
  .next (s1.trapEntry s.curCore s.curSlot 0x04 (imm.setWidth 64) (s.me.pc + 4))

/-- ERET (R329, R337). -/
def execEret (s : State) : Host.Outcome State Fault Refusal :=
  if s.inUser then .next s.privilege else .next s.trapReturn

/-- UPRET (R337); the overflow slot is woken again where its partition's inbox allotment is still full, and by HOLD_TIMEOUT
where a held message is overdue (R228). -/
def execUpret (s : State) : Host.Outcome State Fault Refusal :=
  let n := s.curCore
  let p := s.me.st.partition
  let t := s.upcallReturn
  if s.returnable s.me.vec.uepc ∧ s.overflowSlot n p = some s.curSlot ∧ s.allotment n ≤ ((s.core n).heldOf p).length then
    .next (t.overflowWake n p)
  else .next t

/-- YIELD: the slot is not ready until every other slot of its partition that is ready in the cycle of the YIELD has issued
once, 16 cycles at most; that cycle is counted already (R338). -/
def execYield (s : State) : Host.Outcome State Fault Refusal :=
  let c := s.here
  let p := s.me.st.partition
  let others := (List.finRange 16).filter (fun i =>
    i != s.curSlot && (c.slot i).readyIn (c.t - 1) && (c.slot i).st.partition == p)
  .next ((s.finish 4).modMe (fun sl => { sl with yields := others, yieldEnd := c.t + 15 }))

/-- Whether the slot's commands to the engines of its core are all complete (R298, R339). -/
def State.enginesIdle (s : State) (n : Nat) (i : SlotNo) : Bool :=
  let c := s.core n
  c.mq.toList.all (fun m => m.entries.all (fun e => e.slot != i)) && c.copies.all (fun x => x.slot != i) &&
    c.colls.all (fun x => x.slot != i)

/-- A slot that halts is no member of its bench any longer, and the bench's end has no cause (R127, R339). -/
def State.haltMember (s : State) (n : Nat) (i : SlotNo) : State :=
  match (s.slot n i).bench with
  | some b =>
    (s.modSlot n i (fun sl => { sl with bench := none, st := { sl.st with brole := 0 } })).modCore n
      (fun c => { c with p := (s.core b.leader).p, o := (s.core b.leader).o })
  | none => s

/-- Slots that wait for a SLOTHALT of slot `i` of core `n` complete (R347). -/
def State.answerHalts (s : State) (n : Nat) (i : SlotNo) : State :=
  { s with cores := s.cores.map (fun e => (e.1, { e.2 with slots := e.2.slots.map (fun sl =>
      if sl.wait? = some (.slotAnswer n i true) then { sl.finish with run := .waiting .rejoin } else sl) })) }

/-- A slot stops: it leaves its bench with no cause, its hint is gone, a SLOTHALT that waits for it is answered, and its core may
arrive at a barrier that waited for it (R127, R211, R339, R347, R402). -/
def State.stopSlot (s : State) (n : Nat) (i : SlotNo) : State :=
  let s1 := ((s.haltMember n i).modSlot n i (fun sl => { sl with run := .halted, capture := false, phint := none })).answerHalts
    n i
  match (s.slot n i).job with
  | some j => s1.tryArrive n j
  | none => s1

/-- HALT: the slot stops, or waits until its writes are performed and its engine commands complete; in a bench each member halts
for itself, and one that waits is in the bench no longer (R127, R339). -/
def execHalt (s : State) : Host.Outcome State Fault Refusal :=
  if !s.released s.curCore s.curSlot 3 ∨ !s.enginesIdle s.curCore s.curSlot then
    .next ((s.park .halt).haltMember s.curCore s.curSlot)
  else .next (s.release 3 (fun t => (t.finish 4).stopSlot t.curCore t.curSlot))

/-! ### Asynchronous causes and the timer -/

/-- ASYNC_CAUSE_ENTRY: the pending cause with the lowest code is taken; the return offset is the next instruction (R341). -/
def execAsyncCauseEntry (s : State) : Host.Outcome State Fault Refusal :=
  match s.arg with
  | .slot n i =>
    let sl := s.slot n i
    match sl.nextCause with
    | none => .next s
    | some c =>
      .next ((s.modSlot n i (fun x => { x with pending := x.pending.erase c })).deliver n i c.1 c.2 sl.pc)
  | _ => .next s

/-- Whether panel time has reached a slot's TCMP (R340). -/
def State.pastTcmp (s : State) (n : Nat) (i : SlotNo) : Bool := decide ((s.slot n i).cnt.tcmp.toNat ≤ s.ptime)

/-- TIMER_INTERRUPT: TIE clears and cause 0x09 is raised (R340). -/
def execTimerInterrupt (s : State) : Host.Outcome State Fault Refusal :=
  match s.arg with
  | .slot n i =>
    if (s.slot n i).st.tie && s.pastTcmp n i then
      .next ((s.modSlot n i (fun sl => { sl with st := { sl.st with tie := false } })).direct n i 0x09 0)
    else .next s
  | _ => .next s

/-! ### Rejoining (R27) -/

/-- Whether a waiting slot may rejoin: its condition is met (R27, R212). -/
def State.rejoinReady (s : State) (n : Nat) (i : SlotNo) : Bool :=
  let sl := s.slot n i
  let c := s.core n
  !sl.parked &&
  match sl.wait? with
  | some .rejoin => true
  | some .room => decide (sl.outstanding < writeLimit)
  | some (.ordered own phys va k) => !s.ownPosted n i own phys va k
  | some (.release scope) => s.released n i scope
  | some .deposits => c.allDeposited sl.st.partition
  | some (.bank k) => c.handovers.all (fun h => h.cmd.part != sl.st.partition || !h.banks.contains k)
  | some (.walk va) => (s.plbFind (s.accOf n i) va.toNat).isSome
  | some (.translation va) =>
    (match s.page (s.accOf n i) va.toNat with
     | .ok p => (s.xlateFind sl.who va.toNat p.2.place.edge).isSome
     | .error _ => false)
  | some (.nameWalk t _) => s.nameCached (s.accOf n i) t
  | some .outgoing => s.outRoom n sl.st.partition
  | some (.channel idx size) =>
    let ch := s.chan n idx
    (s.line n idx).head? == some i && (ch.broken || ch.fits size)
  | some (.matrixRoom q _) => s.released n i 1 && decide ((s.mat n q).live.length < 2)
  | some (.matrixEmpty q) => (s.mat n q).live == []
  | some (.matrixAbort q) => s.matQuiet n q
  | some (.mmov _ _ _ ids) => s.cmdsGone n ids
  | some (.mmovw _ _ _ ids) => s.cmdsGone n ids
  | some .copyRoom => decide (c.copies.length < 2)
  | some .collRoom => decide (c.colls.length < 2)
  | some .halt => s.released n i 3 && s.enginesIdle n i
  | some .stopping => !sl.capture && sl.outstanding == 0 && s.enginesIdle n i
  | _ => false

/-- A slot whose HALT need wait no longer: it stops after a release at .pa, or, with a deferred fault or a cause to take, it
is back in the rotation and takes that at its turn (R159, R295, R339). -/
def State.haltDone (s : State) (n : Nat) (i : SlotNo) : State :=
  let sl := s.slot n i
  if sl.deferred.isSome || sl.nextCause.isSome then s.modSlot n i (fun sl => { sl with run := .running })
  else ((s.flushOwned n).modSlot n i Slot.finish).stopSlot n i

/-- SLOT_REJOIN: the slot is back in the rotation; an instruction that is not complete issues again, MCMD, MMOV and
MMOVW take effect, and a slot that halts stops (R27, R297, R339). -/
def execSlotRejoin (s : State) : Host.Outcome State Fault Refusal :=
  match s.arg with
  | .slot n i =>
    if !s.rejoinReady n i then .next s
    else
      let s := s.modSlot n i (fun sl => { sl with rejoinAt := none })
      match (s.slot n i).wait? with
      | some .halt => .next (s.haltDone n i)
      | some .stopping => .next (s.stopSlot n i)
      | some (.matrixRoom q r) => .next (s.mcmdDone n i q r)
      | some (.mmov d t row _) => .next (s.mmovDone n i d t row)
      | some (.mmovw x t row _) => .next (s.mmovwDone n i x t row)
      | some (.channel idx _) => .next (s.modSlot n i (fun sl => { sl with run := .running, turnOn := some idx }))
      | _ => .next (s.modSlot n i (fun sl => { sl with run := .running }))
  | _ => .next s

/-! ### Slots, code and PLBs (R345 to R349) -/

/-- An instruction of major 0x2F: illegal nowhere, privileged (R345). -/
def State.supervisorOnly (s : State) (k : State) : State := if s.inUser then s.privilege else k

/-- The name and slot number of SLOTGO and SLOTHALT: 0x0B where bits 63:26 are not zero (R346). -/
def State.slotOperand (s : State) (a : Dword) (k : Nat → SlotNo → State) : State :=
  if a.toNat / 2 ^ 26 ≠ 0 then s.fault 0x0B a
  else
    match s.resolveName s.acc (a &&& 0x3FFFFF) with
    | .error e => s.stop e
    | .ok nm =>
      if !s.ownPanel s.curCore nm then s.fault 0x0A a
      else k (nameCore nm) (Fin.ofNat 16 (fieldOf a 25 22))

/-- A request about a slot on its way, the issuing slot out of the rotation (R346, R347); it waits while the outgoing buffer has
no room (R221). -/
def State.sendSlotMsg (s : State) (kind : Instr) (m : Nat) (t : SlotNo) (off : Dword) : State :=
  let msg : SlotMsg := { core := s.curCore, slot := s.curSlot, part := s.me.st.partition, target := m, tslot := t,
                         job := s.me.job.getD 0, offset := off, launch := false }
  if !s.outRoom s.curCore s.me.st.partition then s.park .outgoing
  else (s.park (.slotAnswer m t (kind == .slothaltArrival))).send (some (true, s.curCore, m)) kind (.slotMsg msg)

/-- SLOTGO a, b (R346). -/
def execSlotgo (a b : BitVec 5) (s : State) : Host.Outcome State Fault Refusal :=
  let x := s.getG a
  let y := s.getG b
  .next (s.supervisorOnly
    (if y.toNat / 2 ^ 17 ≠ 0 ∨ y.toNat % 2 ≠ 0 then s.fault 0x0B y
     else s.slotOperand x (fun m t => s.sendSlotMsg .slotgoArrival m t y)))

/-- SLOTHALT a (R347). -/
def execSlothalt (a : BitVec 5) (s : State) : Host.Outcome State Fault Refusal :=
  let x := s.getG a
  .next (s.supervisorOnly (s.slotOperand x (fun m t =>
    if m = s.curCore ∧ t = s.curSlot then s.fault 0x0A x else s.sendSlotMsg .slothaltArrival m t 0)))

/-- Whether a handover names a slot of a core (R363). -/
def Core.handsOver (c : Core) (i : SlotNo) : Bool := c.handovers.any (fun h => h.cmd.slots.getLsbD i.val)

/-- The request of a waiting SLOTGO or SLOTHALT refused: 0x0A (R346, R347). -/
def State.refuseSlot (s : State) (m : SlotMsg) : State :=
  if m.launch || m.core == nobody then s
  else s.answerFault m.core m.slot 0x0A s.noAddr

/-- The answer of a target (R346, R347). -/
def State.answerSlot (s : State) (m : SlotMsg) : State := if m.launch || m.core == nobody then s else s.completeSlot m.core m.slot

/-- A core whose clock had stopped runs again (R407, R409). -/
def State.wakeCore (s : State) (n : Nat) : State := s.modCore n (fun c => { c with asleep := false })

/-- A slot started at an offset: every register as it stands, MODE user, EXL and UPC zero (R346); the launch engine's
SLOTGO keeps the mode the launch gave it, and its counts begin (R41). -/
def State.startSlot (s : State) (m : SlotMsg) : State :=
  let n := m.target
  let t := (s.core n).t
  (s.wakeCore n).modSlot n m.tslot (fun sl =>
    let st := if m.launch then sl.st else { sl.st with mode := .user, exl := false, upc := false }
    { sl with pc := m.offset, lastPc := none, run := .running, ilen := 4, readyAt := t, st := st, taking := none, yields := [],
              rejoinAt := none, turnOn := none,
              cnt := if m.launch then { sl.cnt with cycleOff := BitVec.ofNat 64 t } else sl.cnt })

/-- A slot started by a SLOTGO that holds a deferred fault takes it at its first turn, with the start offset as return offset
(R341, R347). -/
def State.startDeferred (s : State) (n : Nat) (i : SlotNo) : State :=
  s.modSlot n i (fun sl => match sl.deferred with
    | some d => { sl with deferred := none, taking := some (d.1, d.2, sl.pc) }
    | none => sl)

/-- SLOTGO_ARRIVAL: the slot starts, or the request is refused (R346, R363); SEED at start is traced (R387). -/
def execSlotgoArrival (s : State) : Host.Outcome State Fault Refusal :=
  match s.arg with
  | .slotMsg m =>
    let n := m.target
    let sl := s.slot n m.tslot
    let who := if s.onRoot n then none else some m.part
    let ok := sl.job == some m.job && (sl.run == .off || sl.run == .halted) && !sl.capture &&
      (m.launch || (decide (m.offset.toNat < (s.slice n who).2) && !(s.core n).handsOver m.tslot)) &&
      (match s.job? m.job with
       | some j => j.phase == .running
       | none => false)
    if !ok then .next (s.refuseSlot m)
    else
      let s1 := (s.startSlot m).answerSlot m
      if m.launch then
        let r := s1.traced n m.tslot traceSeed (s1.slot n m.tslot).fp.seed
        .next (r.1.modSlot n m.tslot (fun sl => { sl with fp := { sl.fp with seed := r.2 } }))
      else .next (s1.startDeferred n m.tslot)
  | _ => .next s

/-- SLOTHALT_ARRIVAL: a stopped slot is left as it is, another is named for capture, and the issuing slot waits for that
(R347, R363). -/
def execSlothaltArrival (s : State) : Host.Outcome State Fault Refusal :=
  match s.arg with
  | .slotMsg m =>
    let sl := s.slot m.target m.tslot
    if sl.job ≠ some m.job ∨ (s.core m.target).handsOver m.tslot then .next (s.refuseSlot m)
    else if sl.run = .off ∨ sl.run = .halted then .next (s.answerSlot m)
    else .next (s.modSlot m.target m.tslot (fun sl => { sl with capture := true }))
  | _ => .next s

/-- Whether an edge core is busy: a slot of it has started and not halted (R161). -/
def State.busyEdge (s : State) (n : Nat) : Bool :=
  match s.kindOf n with
  | .edge _ _ => (s.core n).slots.toList.any (fun sl => sl.run != .off && sl.run != .halted)
  | _ => false

/-- ISTW a, b (R348). -/
def execIstw (a b : BitVec 5) (s : State) : Host.Outcome State Fault Refusal :=
  let x := s.getG a
  let y := s.getG b
  let off := fieldOf x 48 32
  let acc := s.acc
  .next (s.supervisorOnly
    (if off % 64 ≠ 0 ∨ fieldOf x 31 22 ≠ 0 ∨ fieldOf x 63 49 ≠ 0 then s.fault 0x0B x
     else if y.toNat % 64 ≠ 0 then s.fault 0x03 y
     else if (windowOf y.toNat != some .self && windowOf y.toNat != some .paged) then s.fault 0x13 y
     else
       match s.resolveName acc (x &&& 0x3FFFFF) with
       | .error e => s.stop e
       | .ok nm =>
         match s.check acc .image 64 y with
         | .error e => s.stop e
         | .ok t =>
           match s.engineGet acc 64 y t with
           | (_, .error e) => s.fault e.1 e.2
           | (s1, .ok data) =>
             if writeLimit ≤ s1.me.outstanding then s1.park .room
             else
               let msg : CodeMsg := { core := s.curCore, slot := s.curSlot, part := s.me.st.partition, target := nameCore nm,
                                      offset := off, data := BitVec.ofNat 512 data, report := x &&& 0x00FFFFFFFFFFFFFF }
               if !s1.ownPanel s.curCore nm then (s1.defer s.curCore s.curSlot 0x0A x).finish 4
               else if !s1.outRoom s.curCore s.me.st.partition then s1.park .outgoing
               else
                 ((s1.send (some (true, s.curCore, nameCore nm)) .istwArrival (.code msg)).modMe
                   (fun sl => { sl with outstanding := sl.outstanding + 1 })).finish 4))

/-- ISTW_ARRIVAL: the code is written, or refused with a deferred fault, or discarded by an isolated core; the write is
acknowledged (R161, R348, R380). -/
def execIstwArrival (s : State) : Host.Outcome State Fault Refusal :=
  match s.arg with
  | .code m =>
    let n := m.target
    let sc := s.slice n (if s.onRoot n then none else some m.part)
    let s1 := if m.core = nobody then s else s.modSlot m.core m.slot (fun sl => { sl with outstanding := sl.outstanding - 1 })
    let refuse := fun (c : BitVec 8) => if m.core = nobody then s1 else s1.defer m.core m.slot c m.report
    if (s.core n).isolated then .next s1
    else if s.busyEdge n then .next (refuse 0x37)
    else if sc.2 < m.offset + 64 then .next (refuse 0x0A)
    else .next (s1.put (istoreAddr n (sc.1 + m.offset)) (bytesOf 64 m.data.toNat)).1
  | _ => .next s

/-- The PLB and translation entries that a PLBINV removes are taken out everywhere (R349). -/
def State.dropTranslations (s : State) (plb : Nat → PlbEntry → Bool) (xl : XlateEntry → Bool) : State :=
  { s with cores := s.cores.map (fun e => (e.1, { e.2 with plb := e.2.plb.filter (fun x => !plb e.1 x) })),
           xlate := s.xlate.map (fun e => (e.1, e.2.filter (fun x => !xl x))) }

/-- PLBINV a (R349). -/
def execPlbinv (a : BitVec 5) (s : State) : Host.Outcome State Fault Refusal :=
  let x := s.getG a
  let who := s.me.who
  let va := fieldOf x 55 0
  let near := fun (n : Nat) => match who with
    | some p => s.inRegion p n
    | none => true
  let go := fun (plb : Nat → PlbEntry → Bool) (xl : XlateEntry → Bool) =>
    ((s.dropTranslations plb xl).park .plbinv).send none .plbinvAck (.slot s.curCore s.curSlot)
  .next (s.supervisorOnly
    (if x.getLsbD 63 = false then
       go (fun n e => near n && e.part == who && decide (e.base ≤ va) && decide (va < e.base + e.size))
          (fun e => decide (e.base ≤ va) && decide (va < e.base + e.size))
     else if x = 0x8000000000000000 then go (fun n e => near n && e.part == who) (fun e => e.part == who)
     else if x = 0xC000000000000000 then
       if who.isSome then s.privilege else go (fun _ _ => true) (fun _ => true)
     else s.fault 0x0B x))

/-- PLBINV_ACK: every unit has acknowledged (R349). -/
def execPlbinvAck (s : State) : Host.Outcome State Fault Refusal :=
  match s.arg with
  | .slot n i =>
    match (s.slot n i).wait? with
    | some .plbinv => .next (s.completeSlot n i)
    | _ => .next s
  | _ => .next s

end Sys2Proof.Machine
end

