-- ==== Sys2Proof/Machine/FaultQueue.lean ====
section
/-!
DEFINITION. A partition's host side: which function serves it (R432), its fault queue with the spill store (R445), event
records (R384), and fault posts (R446).
-/
namespace Sys2Proof.Machine

/-- A partition's host side. -/
def State.vf (s : State) (p : BitVec 6) : Vf := (lookupNat p.toNat s.vfs).getD Vf.reset

/-- A partition's host side changed. -/
def State.modVf (s : State) (p : BitVec 6) (f : Vf → Vf) : State :=
  { s with vfs := insertNat p.toNat (f (s.vf p)) s.vfs }

/-- An MSI-X vector of a partition's virtual function raised (R442, R445): function 64k + p of root k. -/
def State.raiseVector (s : State) (p : BitVec 6) (vec : Nat) : State :=
  { s with msix := s.msix ++ [(64 * (s.rootOf p).getD 0 + p.toNat, vec)] }

/-! ### The fault queue (R445) -/

/-- Entries of the host ring (R445). -/
def Vf.ringSize (v : Vf) : Nat := 2 ^ (4 + fieldOf v.fqcfg 4 1)

/-- Whether the ring takes an entry: enabled and not full (R445). -/
def Vf.ringFree (v : Vf) : Bool := v.fqcfg.getLsbD 0 && decide ((v.fqpos - v.fqhead).toNat < v.ringSize)

/-- VFSTAT (R445). -/
def Vf.stat (v : Vf) : Dword :=
  let code := match v.tdisp with
    | .unlocked => 0
    | .locked => 1
    | .run => 2
    | .error => 3
  BitVec.ofNat 64 (code + v.spill.length % 2 ^ 12 * 2 ^ 16 + natOfBool v.spillLost * 2 ^ 28)

/-- An entry written at its place in the ring, the position counted, the vector raised (R445). -/
def State.putEntry (s : State) (p : BitVec 6) (x : BitVec 256) : State :=
  let v := s.vf p
  let a := hostBase + v.fqbase.toNat + 32 * (v.fqpos.toNat % v.ringSize)
  let s1 := { s with mem := Memory.setBytes s.mem a (bytesOf 32 x.toNat) }
  (s1.modVf p (fun v => { v with fqpos := v.fqpos + 1 })).raiseVector p (fieldOf v.fqcfg 23 13)

/-- An event record or a notice of spill loss posted: it waits in the launch engine, in order, while the ring is full
(R445). -/
def State.postEntry (s : State) (p : BitVec 6) (x : BitVec 256) : State :=
  if (s.vf p).waiting = [] ∧ (s.vf p).ringFree = true then s.putEntry p x
  else s.modVf p (fun v => { v with waiting := v.waiting ++ [x] })

/-- Entries that wait, written while the ring takes them (R445). -/
def State.drainEntries (s : State) (p : BitVec 6) : State :=
  (s.vf p).waiting.foldl (fun t x =>
    if (t.vf p).ringFree then (t.modVf p (fun v => { v with waiting := v.waiting.drop 1 })).putEntry p x else t) s

/-- An event record (R384). -/
def eventRecord (time round seq core zone : Nat) (ended trans : Bool) (cause : Nat) : BitVec 256 :=
  BitVec.ofNat 256 (cause + natOfBool trans * 2 ^ 8 + natOfBool ended * 2 ^ 9 + zone % 2 ^ 6 * 2 ^ 42 +
    core % 2 ^ 16 * 2 ^ 48 + seq % 2 ^ 64 * 2 ^ 64 + round % 2 ^ 64 * 2 ^ 128 + time % 2 ^ 64 * 2 ^ 192)

/-- Entries of the spill store (R445). -/
def spillSize : Nat := 4096

/-- A notice put into the spill store, or dropped with a notice of the loss where the store is full (R360, R447). -/
def State.spillNotice (s : State) (p : BitVec 6) (core entry : Nat) : State × Bool :=
  if (s.vf p).spill.length < spillSize then
    (s.modVf p (fun v => { v with spill := v.spill ++ [(core, BitVec.ofNat 64 entry)] }), true)
  else
    ((s.modVf p (fun v => { v with spillLost := true })).postEntry p
      (BitVec.ofNat 256 (0x03 + entry % 2 ^ 16 * 2 ^ 128)), false)

/-- FQHEAD: the host has consumed entries, and those that wait follow (R432, R445). -/
def execFqhead (s : State) : Host.Outcome State Fault Refusal :=
  match s.arg with
  | .vfVal p v => .next (if s.linked p then (s.modVf p (fun x => { x with fqhead := v })).drainEntries p else s)
  | _ => .next s

/-- The entry of a fault post (R446). -/
def postedEntry (m : Msg) (now : Nat) : BitVec 256 :=
  let a := m.payload.toNat % 2 ^ 64
  let b := m.payload.toNat / 2 ^ 64
  BitVec.ofNat 256 (0x01 + m.sslot.toNat * 2 ^ 44 + nameCore m.source * 2 ^ 48 + now % 2 ^ 64 * 2 ^ 64 +
    b % 2 ^ 16 * 2 ^ 128 + b / 2 ^ 16 % 2 ^ 16 * 2 ^ 144 + b / 2 ^ 32 % 2 ^ 32 * 2 ^ 160 + a * 2 ^ 192)

/-- FAULT_POST_ARRIVAL: a post is written, or refused where the ring takes none; a message on another class, of another length or
of another kind is discarded and logged (R446). A pair already refused takes only the resent message (R221). -/
def execFaultPostArrival (s : State) : Host.Outcome State Fault Refusal :=
  match s.arg with
  | .msg m =>
    let n := nameCore m.dest
    let refuse := fun (t : State) =>
      (t.modCore n (fun c =>
        { c with refusing := (m.part, m.source) :: c.refusing.filter (· != (m.part, m.source)) })).refuse n m
    if m.cls ≠ 0 ∨ m.len ≠ 16 ∨ m.kind ≠ 0 then .next ((s.log 0 n 0 (msgHeader m).toNat).accept m)
    else if (s.core n).refusing.contains (m.part, m.source) && !m.retry then .next (refuse s)
    else if !(s.vf m.part).ringFree || (s.vf m.part).waiting != [] then .next (refuse s)
    else
      let s1 := s.modCore n (fun c => { c with refusing := c.refusing.filter (· != (m.part, m.source)) })
      .next ((s1.putEntry m.part (postedEntry m s.ptime)).accept m)
  | _ => .next s

end Sys2Proof.Machine
end

