-- ==== Sys2Proof/Machine/Handover.lean ====
section
/-!
DEFINITION. Capture of slots (R130, R182, R212, R347, R358), completion notices (R350, R351, R360), and context save, restore
and handover (R353 to R363). The save area holds in its bytes what R355 places; parts to which it gives no layout hold free
values there and are kept beside (log 14).
-/
namespace Sys2Proof.Machine

/-! ### Capture -/

/-- Whether a wait is one in which a slot is captured as R212 gives, and not one that drains first; a slot whose wait ends
with a fault takes it first (R212, R341, R358). -/
def State.capturable (s : State) (n : Nat) (i : SlotNo) : Wait → Bool
  | .rejoin => (s.slot n i).taking.isNone
  | .bar _ | .barw _ | .gbar _ _ | .mwait _ _ | .stopping | .bank _ => true
  | w => s.abandons n i w

/-- Whether a slot named for capture can be captured now: drained, or waiting in a way that is saved (R358). -/
def State.captureReady (s : State) (n : Nat) (i : SlotNo) : Bool :=
  let sl := s.slot n i
  sl.capture &&
  match sl.run with
  | .off => true
  | .halted => true
  | .running => sl.outstanding == 0
  | .waiting w => sl.outstanding == 0 && s.capturable n i w

/-- A captured slot's wait as it is saved (R212): an MWAIT is complete, a barrier's use stays, another wait is at its
instruction. -/
def State.settleWait (s : State) (n : Nat) (i : SlotNo) : State :=
  let run := fun (t : State) => t.modSlot n i (fun sl => { sl with run := .running, rejoinAt := none })
  match (s.slot n i).wait? with
  | some (.mwait _ _) => run (s.wakeMwait n i 0x20)
  | some .rejoin => run s
  | some (.bank _) => run s
  | some w => if s.abandons n i w then run (s.abandon n i) else s
  | none => s

/-- A slot's bench dissolved before its capture (R130). -/
def State.unbench (s : State) (n : Nat) (i : SlotNo) : State :=
  match (s.slot n i).bench with
  | some b => (benchCores b).foldl (fun t m => t.leaveBench m i 4) s
  | none => s

/-- A handover of core `n` changed. -/
def State.modHandover (s : State) (n : Nat) (p : BitVec 6) (f : Handover → Handover) : State :=
  s.modCore n (fun c => { c with handovers := c.handovers.map (fun h => if h.cmd.part = p then f h else h) })

/-! ### Save areas (R355, R356) -/

/-- The physical address of a byte of a save area for a partition. -/
def State.areaPhys (s : State) (n : Nat) (p : BitVec 6) (va : Nat) : Option Nat :=
  let a : Acc := { core := n, who := some p, mode := .supervisor }
  match s.page a va with
  | .error _ => none
  | .ok (_, i) =>
    match s.translateWalk a.who va i.place with
    | .ok x => some (x.phys + (va - x.base))
    | .error _ => none

/-- Whether every page of a save area is present, writable, not one of a snapshot, and HOME 00 or 01 (R354, R455). -/
def State.areaOk (s : State) (n : Nat) (p : BitVec 6) (area : Nat) : Bool :=
  (List.range 0x240).all (fun k =>
    match s.page { core := n, who := some p, mode := .supervisor } (area + 4096 * k) with
    | .ok (_, i) => i.rdS && i.wrS && !i.snap && (match i.place with
        | .hbm _ => true
        | .uncached _ => true
        | _ => false)
    | .error _ => false)

/-- Bytes written in a save area. -/
def State.areaWrite (s : State) (n : Nat) (p : BitVec 6) (va : Nat) (bs : List Byte) : State :=
  (linePieces va bs.length).foldl (fun t q =>
    match t.areaPhys n p q.1 with
    | some a => (t.put a ((bs.drop (q.1 - va)).take q.2)).1
    | none => t) s

/-- Bytes of a save area. -/
def State.areaRead (s : State) (n : Nat) (p : BitVec 6) (va len : Nat) : List Byte :=
  (linePieces va len).flatMap (fun q =>
    match s.areaPhys n p q.1 with
    | some a => Memory.bytes s.mem a q.2
    | none => List.replicate q.2 0)

/-- Whether bytes of a save area are uncorrectable. -/
def State.areaBad (s : State) (n : Nat) (p : BitVec 6) (va len : Nat) : Bool :=
  (linePieces va len).any (fun q =>
    match s.areaPhys n p q.1 with
    | some a => (s.badIn a q.2).isSome
    | none => false)

/-- The registers of a slot record from 0x540 to 0x62F, in their order (R355). -/
def Slot.recordDwords (sl : Slot) (t : Nat) : List Dword :=
  [sl.pc, sl.st.word, sl.fp.rmode.setWidth 64, sl.fp.fflags.setWidth 64, sl.fp.seed, sl.fp.draw, sl.cnt.round,
   BitVec.ofNat 64 t - sl.cnt.cycleOff, sl.cnt.instret, sl.cnt.tcmp,
   sl.loops.lcnt0.setWidth 64, sl.loops.lbeg0.setWidth 64, sl.loops.lend0.setWidth 64, sl.loops.lcnt1.setWidth 64,
   sl.loops.lbeg1.setWidth 64, sl.loops.lend1.setWidth 64] ++ sl.mons.toList.map Monitor.word ++
  [sl.vec.uepc, sl.vec.ucause.setWidth 64, sl.vec.uaddr, sl.vec.upvec.setWidth 64, sl.vec.uscr, sl.vec.epc,
   sl.vec.ecause.setWidth 64, sl.vec.eaddr, sl.vec.tvec.setWidth 64, sl.vec.escr]

/-- A slot record (R355): the wait state has no given layout and is free (log 14). -/
def Slot.record (sl : Slot) (t free : Nat) : List Byte :=
  let dw := fun (x : Dword) => bytesOf 8 x.toNat
  sl.g.toList.flatMap dw ++ sl.v.toList.flatMap (fun x => bytesOf 64 x.toNat) ++ sl.k.toList.flatMap dw ++
    (sl.recordDwords t).flatMap dw ++ dw (Config.freeDword free) ++ dw (Config.freeDword (free + 1)) ++
    List.replicate 0x1C0 0

/-- Dword at an offset of a record. -/
def recordDword (bs : List Byte) (o : Nat) : Dword := BitVec.ofNat 64 (ofBytes ((bs.drop o).take 8))

/-- A monitor from its saved register: restored with its triggered bit cleared (R202, R332). -/
def monitorOf (x : Dword) : Monitor := { armed := x.getLsbD 63, triggered := false, line := bitsOf x.toNat 6 15 }

/-- SSTAT's fields from a record: the mode bits take no reserved code (R330). -/
def statusOf (x : Dword) (old : Status) : Status :=
  let mode := fun (k : Nat) => if k = 1 then Mode.supervisor else Mode.user
  { old with bend := bitsOf x.toNat 20 3, brole := 0, ovf := x.getLsbD 16, upc := x.getLsbD 15, exl := x.getLsbD 14,
             tie := x.getLsbD 13, pmode := mode (fieldOf x 11 10), mode := mode (fieldOf x 9 8) }

/-- A slot read back from its record over what was kept beside it (R355, R358). -/
def Slot.ofRecord (sl : Slot) (bs : List Byte) (t : Nat) : Slot :=
  let d := fun (o : Nat) => recordDword bs o
  { sl with
    g := Vector.ofFn (fun i => d (8 * i.val)),
    v := Vector.ofFn (fun i => BitVec.ofNat 512 (ofBytes ((bs.drop (0x100 + 64 * i.val)).take 64))),
    k := Vector.ofFn (fun i => d (0x500 + 8 * i.val)),
    pc := d 0x540, st := statusOf (d 0x548) sl.st,
    fp := { rmode := (d 0x550).setWidth 3, fflags := (d 0x558).setWidth 5, seed := d 0x560, draw := d 0x568 },
    cnt := { round := d 0x570, cycleOff := BitVec.ofNat 64 t - d 0x578, instret := d 0x580, tcmp := d 0x588 },
    loops := { lcnt0 := (d 0x590).setWidth 32, lbeg0 := (d 0x598).setWidth 17, lend0 := (d 0x5A0).setWidth 17,
               lcnt1 := (d 0x5A8).setWidth 32, lbeg1 := (d 0x5B0).setWidth 17, lend1 := (d 0x5B8).setWidth 17 },
    mons := Vector.ofFn (fun i => monitorOf (d (0x5C0 + 8 * i.val))),
    vec := { uepc := d 0x5E0, ucause := (d 0x5E8).setWidth 8, uaddr := d 0x5F0, upvec := (d 0x5F8).setWidth 17,
             uscr := d 0x600, epc := d 0x608, ecause := (d 0x610).setWidth 8, eaddr := d 0x618,
             tvec := (d 0x620).setWidth 17, escr := d 0x628 } }

/-- The header of a save area (R356). -/
structure AreaHeader where
  savetime : Dword
  crc : Word
  npend : Nat
  spill : Bool
  slots : BitVec 16
  banks : Nat
  core : Nat
  context : BitVec 16
  part : BitVec 6
  splitm : Bool
  mqn : Bool
  matq : Bool
  prog : Nat
  state : Nat
  deriving DecidableEq, Repr

/-- The header's 64 bytes (R356). -/
def AreaHeader.bytes (h : AreaHeader) : List Byte :=
  bytesOf 64 (0x5356 + 0x01 * 2 ^ 16 + h.state * 2 ^ 24 + h.prog % 2 ^ 32 * 2 ^ 32 + natOfBool h.matq * 2 ^ 288 +
    natOfBool h.mqn * 2 ^ 289 + natOfBool h.splitm * 2 ^ 290 + h.part.toNat * 2 ^ 298 + h.context.toNat * 2 ^ 320 +
    h.core * 2 ^ 336 + h.banks * 2 ^ 352 + h.slots.toNat * 2 ^ 368 + natOfBool h.spill * 2 ^ 404 +
    h.npend * 2 ^ 405 + h.crc.toNat * 2 ^ 416 + h.savetime.toNat * 2 ^ 448)

/-- A header read from its bytes (R356). -/
def headerOf (bs : List Byte) : AreaHeader :=
  let x := ofBytes bs
  { savetime := bitsOf x 448 64, crc := bitsOf x 416 32, npend := numField x 415 405, spill := numField x 404 404 == 1,
    slots := bitsOf x 368 16, banks := numField x 367 352, core := numField x 351 336, context := bitsOf x 320 16,
    part := bitsOf x 298 6, splitm := numField x 290 290 == 1, mqn := numField x 289 289 == 1,
    matq := numField x 288 288 == 1, prog := numField x 63 32, state := numField x 31 24 }

/-- The header of an area. -/
def State.areaHeader (s : State) (n : Nat) (p : BitVec 6) (area : Nat) : AreaHeader := headerOf (s.areaRead n p area 64)

/-- The slots of a mask whose queue register is saved with them: both of its slots are in the mask (R358). -/
def wholeQueues (m : BitVec 16) : List (Fin 8) :=
  (List.finRange 8).filter (fun q => m.getLsbD (2 * q.val) && m.getLsbD (2 * q.val + 1))

/-- The classes of a partition on a core (R222). -/
def State.classesOf (s : State) (n : Nat) (p : BitVec 6) : List (Fin 32) :=
  (List.finRange 32).filter (fun k => s.ownsClass p n k.val)

/-- The pieces of the core state that a save with a header writes: those of its slots' numbers, of the queue registers saved, the
registers of the partition, its classes, the channel table and the copy queue (R355, R358; log 14). -/
def State.coreParts (s : State) (h : AreaHeader) : List (Nat × Nat) :=
  (maskSlots h.slots).flatMap (fun i => [(0x9000 + 8 * i.val, 8), (0x9080 + 16 * i.val, 16), (0x9C00 + 32 * i.val, 32)]) ++
  (wholeQueues h.slots).flatMap (fun q => [(0x9180 + 8 * q.val, 8), (0x91C0 + 64 * q.val, 64)]) ++ [(0x9400, 0x50)] ++
  (s.classesOf h.core h.part).map (fun k => (0x9800 + 32 * k.val, 32)) ++ [(0xA000, 0x800), (0xA800, 0x100)]

/-- The parts of an area that a save with a header writes: offset and length, for those inside the CRC (R355, R356). In split mode
the owned half of the matrix unit has 16 tiles. -/
def State.areaParts (s : State) (h : AreaHeader) : List (Nat × Nat) :=
  (maskSlots h.slots).map (fun i => (0x1000 + 0x800 * i.val, 0x800)) ++ s.coreParts h ++
  (if h.matq then [(0xC000, if h.splitm then 0x4000 else 0x8000), (0x14000, 0x1000)] else []) ++
  (List.range h.banks).map (fun k => (0x18000 + 0x20000 * k, 0x20000)) ++
  (List.range h.banks).map (fun k => (0x218000 + 0x2000 * k, 0x2000))

/-- The CRC of an area, unwritten bytes taken as zero (R356). -/
def State.areaCrc (s : State) (n : Nat) (p : BitVec 6) (area : Nat) (h : AreaHeader) : Word :=
  let parts := s.areaParts h
  let at_ := fun (o : Nat) =>
    if parts.any (fun q => decide (q.1 ≤ o) && decide (o < q.1 + q.2)) then (s.areaRead n p (area + o) 1).headD 0 else 0
  BitVec.ofNat 32 (crc32 ((List.range 0x14000).map (fun k => at_ (0x1000 + k)) ++
    (List.range 0x228000).map (fun k => at_ (0x18000 + k))))

/-! ### Completion notices (R350, R351, R360) -/

/-- Whether a context of a partition is resident on a core. -/
def State.resident (s : State) (n : Nat) (p : BitVec 6) (ctx : BitVec 16) : Bool :=
  (s.core n).slots.toList.any (fun sl =>
    match sl.job.bind s.job? with
    | some j => j.part == p && j.context == ctx
    | none => false)

/-- A notice's entry: the tag and the status (R351). -/
def noticeEntry (x : Notice) : Nat := x.tag.toNat + x.status.toNat * 2 ^ 16

/-- A notice written into the ring of its partition on a core, then counted (R351). -/
def State.placeNotice (s : State) (x : Notice) : State :=
  let r := s.row x.core x.part
  if r.fnEn then
    let o := r.fnBase.toNat + 8 * (r.fnHead.toNat % 2 ^ (4 + r.fnSizelog.toNat))
    let s1 := s.putWords x.core (some x.part) none [(o, bytesOf 8 (noticeEntry x))]
    (s1.modRow x.core x.part (fun r => { r with fnHead := r.fnHead + 1 })).bump x.core r.fnCounter 1
  else s.log 0 x.core 0 (BitVec.ofNat 64 (noticeEntry x))

/-- The banks of a partition's share that hold its notice ring on a core (R350, R361). -/
def State.ringBanks (s : State) (n : Nat) (p : BitVec 6) : List Nat :=
  let r := s.row n p
  if r.fnEn then
    ((linesOf r.fnBase.toNat (8 * 2 ^ (4 + r.fnSizelog.toNat))).map (fun o =>
      o / 64 % max 1 (s.shareBanks n (some p)).length)).eraseDups
  else []

/-- Whether notices can be written now on a core under a handover: FNCFG and its ring's banks are restored (R361). -/
def State.ringReady (s : State) (n : Nat) (h : Handover) : Bool :=
  h.started && (s.ringBanks n h.cmd.part).all (fun k => !h.banks.contains k)

/-- A notice appended to the pending list of a context's area, or spilled where the list is full (R360). -/
def State.appendNotice (s : State) (x : Notice) (area : Nat) : State :=
  let h := s.areaHeader x.core x.part area
  let entry := (noticeEntry x) + x.context.toNat * 2 ^ 24 + x.part.toNat * 2 ^ 40
  if h.npend < 1024 then
    let s1 := s.areaWrite x.core x.part (area + 0x15000 + 8 * h.npend) (bytesOf 8 entry)
    s1.areaWrite x.core x.part area { h with npend := h.npend + 1 }.bytes
  else
    let r := s.spillNotice x.part h.core entry
    if r.2 then r.1.areaWrite x.core x.part area { h with spill := true }.bytes else r.1

/-- COMPLETION_NOTICE_ARRIVAL: written, discarded, held for an incoming context until its ring is there, returned, or, while its
context is being saved and FNCFG has been captured, appended to its area by the save engine; notices of other resident contexts of
the partition go the same way (R351, R360, R361). -/
def execCompletionNoticeArrival (s : State) : Host.Outcome State Fault Refusal :=
  match s.arg with
  | .notice x =>
    match (s.core x.core).handovers.find? (fun h => h.cmd.part == x.part) with
    | some h =>
      let coming := h.cmd.ctxIn == x.context && h.cmd.inArea != 0 && h.result == 0
      let leaving := h.cmd.ctxOut == x.context && h.cmd.save
      if !coming && !leaving && !s.resident x.core x.part x.context then .next (s.send none .noticeReturn (.notice x))
      else if leaving && !coming && h.started then .next (s.appendNotice x h.cmd.outArea.toNat)
      else if !coming && !h.started then .next (s.placeNotice x)
      else if h.noticed && h.notices.isEmpty && s.ringReady x.core h then .next (s.placeNotice x)
      else .next (s.modHandover x.core x.part (fun h => { h with notices := h.notices ++ [x] }))
    | none =>
      if s.resident x.core x.part x.context then .next (s.placeNotice x)
      else .next (s.send none .noticeReturn (.notice x))
  | _ => .next s

/-- The key of a context's save area for a core (R360). -/
def areaKey (ctx : BitVec 16) (core : Nat) : Nat := ctx.toNat * 2 ^ 16 + core

/-- NOTICE_RETURN: appended to the pending list of the context's area, spilled when the list is full, or discarded where the
context has no area (R360). -/
def execNoticeReturn (s : State) : Host.Outcome State Fault Refusal :=
  match s.arg with
  | .notice x =>
    match lookupNat (areaKey x.context x.core) (s.vf x.part).areas with
    | none => .next (s.log 0 x.core 0 (BitVec.ofNat 64 (noticeEntry x)))
    | some a => .next (s.appendNotice x a.toNat)
  | _ => .next s

/-! ### CSAVE and CREST (R353, R354) -/

/-- The command of a switch descriptor (R353). -/
def State.switchCmd (s : State) (x : Nat) (desc : Dword) (save : Bool) : HandoverCmd :=
  let f := numField x
  { core := s.curCore, slot := s.curSlot, part := s.me.st.partition, desc := desc, target := f 319 304,
    slots := bitsOf x 288 16, ctxIn := bitsOf x 272 16, ctxOut := bitsOf x 256 16, inArea := bitsOf x 384 64,
    outArea := bitsOf x 320 64, cnten := f 7 7 == 1, counter := bitsOf x 8 5, save := save }

/-- Whether an area lies in paged space, 4 KiB aligned (R354). -/
def areaAligned (a : Dword) : Bool :=
  a.toNat % 4096 == 0 && decide (2 ^ 48 ≤ a.toNat) && decide (a.toNat < 2 ^ 56)

/-- Whether a switch descriptor is valid (R354). -/
def State.switchValid (s : State) (x : Nat) (c : HandoverCmd) : Bool :=
  numField x 255 13 == 0 && numField x 6 0 == 0 && (c.inArea == 0 || areaAligned c.inArea) &&
  (c.outArea == 0 || areaAligned c.outArea) &&
  (if c.save then c.outArea != 0 else c.outArea == 0 && c.inArea != 0) &&
  (maskSlots c.slots).all (fun i => s.ownsSlot c.part c.target i.val) &&
  !(c.target == s.curCore && c.slots.getLsbD s.curSlot.val)

/-- CSAVE and CREST at issue (R354). -/
def State.switch (s : State) (p : Dword) (save : Bool) : State :=
  match s.selfRecord 64 0x0B p with
  | .error e => s.stop e
  | .ok x =>
    let s := s.noteRecord 64 p
    let c := s.switchCmd x p save
    if !s.switchValid x c then s.fault 0x0B p
    else if c.cnten && !s.ownsCounter c.counter.toNat then s.fault 0x21 s.noAddr
    else
      match s.name s.acc c.target (BitVec.ofNat 64 c.target) with
      | .error e => s.stop e
      | .ok _ =>
        ((s.putWords s.curCore s.me.who none [(p.toNat + 56, List.replicate 8 255)]).send
          (some (false, s.curCore, c.target)) .handoverCommand (.handover c)).finish 4

/-- CSAVE a (R354). -/
def execCsave (a : BitVec 5) (s : State) : Host.Outcome State Fault Refusal :=
  .next (s.supervisorOnly (s.switch (s.getG a) true))

/-- CREST a (R354). -/
def execCrest (a : BitVec 5) (s : State) : Host.Outcome State Fault Refusal :=
  .next (s.supervisorOnly (s.switch (s.getG a) false))

/-! ### The engine (R358) -/

/-- RESULT written and the counter incremented (R354). -/
def State.switchResult (s : State) (c : HandoverCmd) (r : Nat) : State :=
  let s1 := s.putWords c.core (some c.part) none [(c.desc.toNat + 56, bytesOf 8 r)]
  if c.cnten then s1.bump c.core c.counter 1 else s1

/-- Whether an incoming area can be restored on a core (R354, RESULT 3). -/
def State.restorable (s : State) (c : HandoverCmd) : Bool :=
  let h := s.areaHeader c.target c.part c.inArea.toNat
  h.state == 2 && h.part == c.part && h.banks == (s.shareBanks c.target (some c.part)).length &&
  (maskSlots h.slots).all (fun i => s.ownsSlot c.part c.target i.val) &&
  h.crc == s.areaCrc c.target c.part c.inArea.toNat h

/-- The header with which a save begins: no slot is saved yet, the header's page is written (R356). -/
def State.freshHeader (s : State) (c : HandoverCmd) : AreaHeader :=
  let mq := (s.matOwners c.target).find? (fun o => o.1 == c.part)
  { savetime := 0, crc := 0, npend := 0, spill := false, slots := 0,
    banks := (s.shareBanks c.target (some c.part)).length, core := c.target, context := c.ctxOut, part := c.part,
    splitm := s.matSplit c.target, mqn := (mq.map (fun o => o.2 == 1)).getD false, matq := mq.isSome, prog := 4096, state := 1 }

/-- The slots of a command that hold a context on its core. -/
def State.heldSlots (s : State) (c : HandoverCmd) : List SlotNo :=
  (maskSlots c.slots).filter (fun i => (s.slot c.target i).job.isSome)

/-- Whether a round commit is in progress on a core: a handover begins after it (R363). -/
def State.committing (s : State) (n : Nat) : Bool :=
  s.uses.any (fun u => u.phase != 0 && !(u.phase == 2 && u.acks.contains n) && (s.portsOf n u.job).isSome)

/-- A saved context changed. -/
def State.modContext (s : State) (p : BitVec 6) (ctx : BitVec 16) (n : Nat) (f : SavedContext → SavedContext) : State :=
  { s with contexts := s.contexts.map (fun x => if x.part = p ∧ x.context = ctx ∧ x.core = n then f x else x) }

/-- The save of a context begun: its header written, its area entered for its notices (R356, R360). -/
def State.beginSave (s : State) (c : HandoverCmd) : State :=
  let n := c.target
  let s1 := s.areaWrite n c.part c.outArea.toNat ((s.freshHeader c).bytes ++ List.replicate 4032 0)
  let s2 := s1.modVf c.part (fun v => { v with areas := insertNat (areaKey c.ctxOut n) c.outArea v.areas })
  { s2 with contexts :=
      { part := c.part, context := c.ctxOut, core := n, area := c.outArea, slots := [], ended := [], state := Core.reset } ::
        s2.contexts.filter (fun x => !(x.part == c.part && x.context == c.ctxOut && x.core == n)) }

/-- HANDOVER_COMMAND: refused with a RESULT, or the slots are named for capture and the header is begun; a commit in progress
on the core completes first (R354, R356, R358, R363). -/
def execHandoverCommand (s : State) : Host.Outcome State Fault Refusal :=
  match s.arg with
  | .handover c =>
    let n := c.target
    let held := s.heldSlots c
    let busy := (s.core n).handovers.any (fun h => h.cmd.part == c.part)
    if busy || s.underRecovery n || (if c.save then !s.resident n c.part c.ctxOut else held != []) then
      .next (s.switchResult c 2)
    else if (c.save && !s.areaOk n c.part c.outArea.toNat) || (c.inArea != 0 && !s.areaOk n c.part c.inArea.toNat) then
      .next (s.switchResult c 1)
    else if c.inArea ≠ 0 ∧ !s.restorable c then .next (s.switchResult c 3)
    else if s.committing n then .next (s.send none .handoverCommand (.handover c))
    else
      let s1 := s.modCore n (fun k => { k with handovers := k.handovers ++
        [{ cmd := c, toCapture := held, captured := [], banks := [], started := false, toRelease := [],
           noticed := c.inArea == 0, prog := 4096, result := 0, notices := [] }] })
      let s2 := if c.save then s1.beginSave c else s1
      .next (held.foldl (fun t i => t.modSlot n i (fun sl => { sl with capture := true })) s2)
  | _ => .next s

/-- The mask of slot numbers. -/
def slotMaskOf (l : List SlotNo) : BitVec 16 := BitVec.ofNat 16 (l.foldl (fun a i => a ||| 2 ^ i.val) 0)

/-- The outgoing header follows what has been written (R356). -/
def State.saveHeader (s : State) (n : Nat) (p : BitVec 6) : State :=
  match (s.core n).handovers.find? (fun h => h.cmd.part == p) with
  | none => s
  | some h =>
    if h.cmd.save then
      let area := h.cmd.outArea.toNat
      s.areaWrite n p area { (s.areaHeader n p area) with prog := h.prog, slots := slotMaskOf h.captured }.bytes
    else s

/-- Bytes written into the outgoing area at an offset, and counted (R356). -/
def State.saveBytes (s : State) (n : Nat) (h : Handover) (o : Nat) (bs : List Byte) : State :=
  (s.areaWrite n h.cmd.part (h.cmd.outArea.toNat + o) bs).modHandover n h.cmd.part
    (fun h => { h with prog := h.prog + bs.length })

/-- Whether a SLOTHALT waits for the capture of slot `i` of core `n` (R347). -/
def State.haltNamed (s : State) (n : Nat) (i : SlotNo) : Bool :=
  s.cores.any (fun e => e.2.slots.toList.any (fun sl => sl.wait? == some (.slotAnswer n i true)))

/-- A captured slot as a SLOTHALT leaves it: it goes on to stop (R339, R347). -/
def Slot.stopping (sl : Slot) : Slot :=
  { sl with run := if sl.run = .off ∨ sl.run = .halted then sl.run else .waiting .stopping }

/-- A slot captured by a handover: its record written, its number free for the incoming context (R358). A parked slot is saved
in its parked state (R363), and one that a SLOTHALT names stops (R347). -/
def State.saveSlot (s : State) (n : Nat) (i : SlotNo) (h : Handover) : State :=
  let c := h.cmd
  let sl0 := { s.slot n i with capture := false, phint := none, turnOn := none }
  let sl := if s.haltNamed n i then sl0.stopping else sl0
  let s1 := s.saveBytes n h (0x1000 + 0x800 * i.val) (sl.record (s.core n).t s.tick)
  let s2 := s1.modContext c.part c.ctxOut n (fun x => { x with slots := x.slots ++ [(i, sl)] })
  let s3 := (s2.modHandover n c.part (fun h =>
    { h with toCapture := h.toCapture.filter (· != i), captured := h.captured ++ [i] })).setSlot n i
    { Slot.reset with st := { Slot.reset.st with partition := sl.st.partition, slotNo := sl.st.slotNo } }
  (s3.answerHalts n i).saveHeader n c.part

/-- SLOT_CAPTURE: the slot's bench ends, its writes are published, its wait is settled; it is saved, parked in place, or it
stops once its engine commands are complete (R130, R182, R339, R347, R358, R406). -/
def execSlotCapture (s : State) : Host.Outcome State Fault Refusal :=
  match s.arg with
  | .slot n i =>
    if !s.captureReady n i then .next s
    else
      let s1 := (((s.unbench n i).publish n).settleWait n i)
      let job := (s.slot n i).job.bind s.job?
      let ending := match job with
        | some j => (match j.phase with
            | .ending _ _ => true
            | _ => false)
        | none => false
      match (s1.core n).handovers.find? (fun h => h.toCapture.contains i) with
      | some h => .next (s1.saveSlot n i h)
      | none =>
        if !ending && (job.map Job.parked).getD false then
          .next ((s1.modSlot n i (fun sl =>
            let x := if s1.haltNamed n i then sl.stopping else sl
            { x with capture := false, parked := true, phint := none })).answerHalts n i)
        else
          .next ((s1.modSlot n i (fun sl =>
            { sl.stopping with capture := false, parked := false, phint := none })).answerHalts n i)
  | _ => .next s

/-- The numbers of counters, barriers and terms of slot numbers, and of queue registers both of whose slots are among them
(R358). -/
def ownedBy (m : BitVec 16) (k : Nat) : Bool := m.getLsbD (k / 2)

/-- An entry of a class table as its 32 bytes (R223). -/
def ClassEntry.bits (e : ClassEntry) : Nat :=
  e.base.toNat * 2 ^ 192 + e.head.toNat * 2 ^ 160 + e.tail.toNat * 2 ^ 128 + e.source.toNat * 2 ^ 106 +
    e.expseq.toNat * 2 ^ 90 + e.dups.toNat * 2 ^ 74 + e.drops.toNat * 2 ^ 44 + e.queue.toNat * 2 ^ 16 +
    e.counter.toNat * 2 ^ 11 + natOfBool e.cnten * 2 ^ 10 + natOfBool e.flow * 2 ^ 9 + natOfBool e.fe * 2 ^ 8 +
    natOfBool e.wrap * 2 ^ 7 + e.sizelog.toNat * 2 ^ 3 + e.mode.toNat

/-- A class entry read back over what was kept beside it (R223, R355). -/
def ClassEntry.ofBits (e : ClassEntry) (x : Nat) : ClassEntry :=
  { e with
    base := bitsOf x 192 32, head := bitsOf x 160 32, tail := bitsOf x 128 32, source := bitsOf x 106 22,
    expseq := bitsOf x 90 16, dups := bitsOf x 74 16, drops := bitsOf x 44 20, queue := bitsOf x 16 3,
    counter := bitsOf x 11 5, cnten := x.testBit 10, flow := x.testBit 9, fe := x.testBit 8, wrap := x.testBit 7,
    sizelog := bitsOf x 3 4, mode := bitsOf x 0 3 }

/-- A channel record as its 32 bytes (R234). -/
def Channel.bits (c : Channel) (idx : Nat) : Nat :=
  2 ^ 248 + idx * 2 ^ 232 + c.s.toNat * 2 ^ 192 + c.c.toNat * 2 ^ 160 + c.k.toNat * 2 ^ 128 + c.dest.toNat * 2 ^ 106 +
    c.cls.toNat * 2 ^ 101 + c.seq.toNat * 2 ^ 85 + c.probe.toNat * 2 ^ 69 + natOfBool c.stall * 2 ^ 3 +
    natOfBool c.broken * 2 ^ 2 + natOfBool c.valid

/-- A channel record read back over what was kept beside it (R234, R355). -/
def Channel.ofBits (c : Channel) (x : Nat) : Channel :=
  { c with
    s := bitsOf x 192 32, c := bitsOf x 160 32, k := bitsOf x 128 32, dest := bitsOf x 106 22, cls := bitsOf x 101 5,
    seq := bitsOf x 85 16, probe := bitsOf x 69 16, stall := x.testBit 3, broken := x.testBit 2, valid := x.testBit 0 }

/-- A term as its 32 bytes (R314). -/
def Term.bits (t : Term) : Nat :=
  t.incr.toNat * 2 ^ 232 + t.outcnt.toNat * 2 ^ 227 + natOfBool t.outen * 2 ^ 226 + natOfBool t.oneshot * 2 ^ 225 +
    natOfBool t.valid * 2 ^ 224 +
    (List.finRange 4).foldl (fun a k =>
      let c := t.conds.get k
      a + (c.thr.toNat + c.cnt.toNat * 2 ^ 32 + natOfBool c.en * 2 ^ 37) * 2 ^ (48 * k.val)) 0

/-- A partition's row read back from FNCFG, OVFSLOT and OVFVEC (R332, R350). -/
def rowOfBits (fn ovfslot ovfvec : Dword) : PartRow :=
  { ovfslot := ovfslot.setWidth 5, ovfvec := ovfvec.setWidth 17, fnHead := bitsOf fn.toNat 32 32,
    fnCounter := bitsOf fn.toNat 27 5, fnSizelog := bitsOf fn.toNat 22 4, fnEn := fn.getLsbD 21,
    fnBase := bitsOf fn.toNat 0 21 }

/-- The commands of a restored matrix queue: their cycles on the array begin again (R287, R299). -/
def MatQueue.resumed (m : MatQueue) : MatQueue := { m with entries := m.entries.map (fun e => { e with busyTo := 0 }) }

/-- The shared state of a partition on a core after a save without an incoming context: what would go on acting is gone, registers
stay as they are (R358). -/
def State.takeShared (s : State) (n : Nat) (p : BitVec 6) (c : Core) : Core :=
  let jobOf := fun (j : Nat) => match s.job? j with
    | some x => x.part == p
    | none => false
  let wl := match s.partEntry p with
    | some e => e.workList
    | none => false
  { c with
    wl := if wl then { c.wl with items := [], bottom := 0, job := none } else c.wl,
    copies := c.copies.filter (fun x => x.part != p),
    ports := c.ports.filter (fun x => !jobOf x.job),
    mirrors := c.mirrors.filter (fun x => !jobOf x.job),
    mq := Vector.ofFn (fun k =>
      if s.ownsMatQueue p n (BitVec.ofNat 1 k.val) then { c.mq.get k with entries := [] } else c.mq.get k) }

/-- The shared state of a partition on a core taken from another core state: what belongs to the partition, and to the slot numbers
`m`, comes from `from_`, everything else stays (R299, R327, R358). -/
def State.mergeShared (s : State) (n : Nat) (p : BitVec 6) (m : BitVec 16) (c from_ : Core) : Core :=
  let owns := fun (k : Nat) => s.ownsClass p n k
  let mine := fun (ch : Channel) => ch.valid && ch.part == p
  let jobOf := fun (j : Nat) => match s.job? j with
    | some x => x.part == p
    | none => false
  let wl := match s.partEntry p with
    | some e => e.workList
    | none => false
  { c with
    c := Vector.ofFn (fun k => if ownedBy m k.val then from_.c.get k else c.c.get k),
    bars := Vector.ofFn (fun k => if ownedBy m k.val then from_.bars.get k else c.bars.get k),
    terms := Vector.ofFn (fun k => if m.getLsbD k.val then from_.terms.get k else c.terms.get k),
    q := Vector.ofFn (fun k =>
      if m.getLsbD (2 * k.val) && m.getLsbD (2 * k.val + 1) then
        { (from_.q.get k) with readers := [], writers := [] }
      else c.q.get k),
    classes := Vector.ofFn (fun k => if owns k.val then from_.classes.get k else c.classes.get k),
    channels := Vector.ofFn (fun k =>
      let old := c.channels.get k
      let new := from_.channels.get k
      if mine new then { new with waiters := [] } else if mine old then Channel.reset else old),
    rows := match lookupNat p.toNat from_.rows with
      | some r => insertNat p.toNat r c.rows
      | none => eraseNat p.toNat c.rows,
    wl := if wl then { from_.wl with inFlight := 0 } else c.wl,
    copies := c.copies.filter (fun x => x.part != p) ++ from_.copies.filter (fun x => x.part == p),
    cpstat := from_.cpstat,
    ports := c.ports.filter (fun x => !jobOf x.job) ++ from_.ports.filter (fun x => jobOf x.job),
    mirrors := c.mirrors.filter (fun x => !jobOf x.job) ++ from_.mirrors.filter (fun x => jobOf x.job),
    mq := Vector.ofFn (fun k =>
      if s.ownsMatQueue p n (BitVec.ofNat 1 k.val) then (from_.mq.get k).resumed else c.mq.get k),
    nextCmd := max c.nextCmd from_.nextCmd,
    tiles := Vector.ofFn (fun k => if s.ownsTile p n k.val then from_.tiles.get k else c.tiles.get k),
    badTiles := c.badTiles.filter (fun k => !s.ownsTile p n k),
    lastIssuer := s.liveSlots n - 1,
    lastOf := eraseNat p.toNat c.lastOf }

/-- The tiles of a partition on a core, ascending (R299). -/
def State.tilesOf (s : State) (n : Nat) (p : BitVec 6) : List (Fin 32) :=
  (List.finRange 32).filter (fun k => s.ownsTile p n k.val)

/-- Dwords whose contents the spec does not place (log 14). -/
def State.freeBytes (s : State) (o n : Nat) : List Byte :=
  (List.range n).flatMap (fun x => bytesOf 8 (Config.freeDword (s.tick + o + x)).toNat)

/-- The core state of a save area: the contents of each piece that `State.coreParts` lists (R355; log 14). -/
def State.corePieces (s : State) (h : AreaHeader) (n : Nat) : List (Nat × List Byte) :=
  let k := s.core n
  let p := h.part
  let row := s.row n p
  let dw := fun (x : Dword) => bytesOf 8 x.toNat
  let pad := fun (bs : List Byte) (len : Nat) => bs.take len ++ List.replicate (len - bs.length) 0
  (maskSlots h.slots).flatMap (fun i =>
    let c := fun (x : Nat) => bytesOf 4 (k.c.get (Fin.ofNat 32 (2 * i.val + x))).toNat
    [(0x9000 + 8 * i.val, c 0 ++ c 1), (0x9080 + 16 * i.val, s.freeBytes (2 * i.val) 2),
     (0x9C00 + 32 * i.val, bytesOf 32 (k.terms.get i).bits)]) ++
  (wholeQueues h.slots).flatMap (fun q =>
    [(0x9180 + 8 * q.val, dw (k.q.get q).config), (0x91C0 + 64 * q.val, pad ((k.q.get q).entries.flatMap dw) 64)]) ++
  [(0x9400, s.freeBytes 32 4 ++ dw k.wl.config ++ s.freeBytes 36 1 ++ dw k.cpstatDword ++ dw row.fncfg ++
    dw (row.ovfslot.setWidth 64) ++ dw (row.ovfvec.setWidth 64))] ++
  (s.classesOf n p).map (fun i => (0x9800 + 32 * i.val, bytesOf 32 (k.classes.get i).bits)) ++
  [(0xA000, (List.finRange 64).flatMap (fun i =>
      let ch := k.channels.get i
      bytesOf 32 (if ch.valid && ch.part == p then ch.bits i.val else 0))),
   (0xA800, s.freeBytes 64 32)]

/-- The shared state written into the outgoing area: the pieces of the core state, then the tiles and the matrix queue (R299,
R355). -/
def State.writeShared (s : State) (n : Nat) (h : Handover) : State :=
  let p := h.cmd.part
  let hd := { s.areaHeader n p h.cmd.outArea.toNat with slots := slotMaskOf h.captured }
  let s1 := (s.corePieces hd n).foldl (fun t x => t.saveBytes n h x.1 x.2) s
  match s.tilesOf n p with
  | [] => s1
  | ts =>
    (s1.saveBytes n h 0xC000 (ts.flatMap (fun k => bytesOf 1024 ((s.core n).tiles.get k).toNat))).saveBytes n h 0x14000
      (s.freeBytes 1024 512)

/-- The shared state of an incoming area over what was kept beside it, piece by piece as its header lists them (R355). -/
def State.readShared (s : State) (n : Nat) (c : HandoverCmd) (k : Core) : Core :=
  let area := c.inArea.toNat
  let hd := s.areaHeader n c.part area
  let num := fun (o len : Nat) => ofBytes (s.areaRead n c.part (area + o) len)
  let ts := s.tilesOf n c.part
  let mine := fun (i : Nat) => hd.slots.getLsbD i
  let saved := s.classesOf hd.core c.part
  { k with
    c := Vector.ofFn (fun i => if mine (i.val / 2) then BitVec.ofNat 32 (num (0x9000 + 4 * i.val) 4) else k.c.get i),
    q := Vector.ofFn (fun i =>
      if (wholeQueues hd.slots).contains i then
        let cfg := num (0x9180 + 8 * i.val) 8
        { QueueReg.reset with
          mode := bitsOf cfg 0 2, cls := bitsOf cfg 43 5, dest := bitsOf cfg 48 16,
          entries := (List.range (min 8 (cfg / 2 ^ 8 % 16))).map (fun e =>
            BitVec.ofNat 64 (num (0x91C0 + 64 * i.val + 8 * e) 8)) }
      else k.q.get i),
    classes := Vector.ofFn (fun i =>
      if saved.contains i then (k.classes.get i).ofBits (num (0x9800 + 32 * i.val) 32) else ClassEntry.reset),
    terms := Vector.ofFn (fun i => if mine i.val then termOf (num (0x9C00 + 32 * i.val) 32) else k.terms.get i),
    channels := Vector.ofFn (fun i =>
      { ((k.channels.get i).ofBits (num (0xA000 + 32 * i.val) 32)) with part := c.part }),
    rows := insertNat c.part.toNat
      (rowOfBits (BitVec.ofNat 64 (num 0x9438 8)) (BitVec.ofNat 64 (num 0x9440 8)) (BitVec.ofNat 64 (num 0x9448 8))) k.rows,
    tiles := Vector.ofFn (fun i =>
      match ts.findIdx? (fun x => x == i) with
      | some o => BitVec.ofNat 8192 (num (0xC000 + 1024 * o) 1024)
      | none => k.tiles.get i) }

/-- What is kept of the incoming context beside its area. -/
def State.incoming (s : State) (c : HandoverCmd) : Option SavedContext :=
  if c.inArea = 0 then none
  else s.contexts.find? (fun x => x.part == c.part && x.context == c.ctxIn && x.area == c.inArea)

/-- The core state of the incoming context (R358). -/
def State.incomingState (s : State) (n : Nat) (c : HandoverCmd) : Core :=
  s.readShared n c (((s.incoming c).map SavedContext.state).getD Core.reset)

/-- Whether the shared state of a handover may be exchanged: every slot captured, the outgoing context's collectives and
shipped work items complete, room for the incoming copies in the queue (R322, R325, R327, R358). -/
def State.sharedReady (s : State) (n : Nat) (h : Handover) : Bool :=
  let k := s.core n
  let p := h.cmd.part
  let came := match s.incoming h.cmd with
    | some x => (x.state.copies.filter (fun y => y.part == p)).length
    | none => 0
  h.toCapture.isEmpty && k.outs.isEmpty && decide ((k.copies.filter (fun y => y.part != p)).length + came ≤ 2) &&
    (k.wl.inFlight == 0 || !(match s.partEntry p with
      | some e => e.workList
      | none => false)) &&
    k.colls.all (fun x =>
      match s.job? x.job with
      | some j => j.part != p
      | none => true)

/-- Whether something to be saved or restored is uncorrectable: the banks and tiles of the share, or the incoming area
(R354). -/
def State.exchangeBad (s : State) (n : Nat) (c : HandoverCmd) : Bool :=
  let hd := s.areaHeader n c.part c.inArea.toNat
  (c.save && ((s.shareBanks n (some c.part)).any (fun b => (s.badIn (localBase + n * 2 ^ 21 + b * 2 ^ 17) 0x20000).isSome) ||
    (s.tilesOf n c.part).any (fun k => (s.core n).badTiles.contains k.val))) ||
  (c.inArea != 0 && (s.areaParts hd).any (fun q => s.areaBad n c.part (c.inArea.toNat + q.1) q.2))

/-- The shared state saved, then that of the incoming context, if there is one, put in its place, unless something is uncorrectable:
then nothing is restored (R354, R358). -/
def State.exchangeShared (s : State) (n : Nat) (h : Handover) : State :=
  let c := h.cmd
  if s.exchangeBad n c then s.modHandover n c.part (fun h => { h with started := true, noticed := true, result := 5 })
  else
    let came := (s.areaHeader n c.part c.inArea.toNat).slots
    let inc := s.incomingState n c
    let s1 := if c.save then
        ((s.writeShared n h).modContext c.part c.ctxOut n (fun x => { x with state := s.core n })).saveHeader n c.part
      else s
    let s2 := { s1 with contexts := s1.contexts.map (fun (x : SavedContext) =>
      if c.inArea ≠ 0 ∧ x.part = c.part ∧ x.context = c.ctxIn ∧ x.area = c.inArea then { x with state := Core.reset }
      else x) }
    if c.inArea = 0 then
      (s2.modCore n (fun k => s.takeShared n c.part k)).modHandover n c.part (fun h =>
        { h with started := true, banks := List.range (s.shareBanks n (some c.part)).length })
    else
    let s3 := s2.modCore n (fun k => s.mergeShared n c.part came k inc)
    s3.modHandover n c.part (fun h =>
      { h with started := true, toRelease := maskSlots came, banks := List.range (s.shareBanks n (some c.part)).length })

/-- The full/empty nibbles of a bank: bit 0 full, bits 2:1 the scope, the lower word in the lower half of a byte (log 14). -/
def State.bankNibbles (s : State) (base : Nat) : List Byte :=
  let nib := fun (w : Nat) => natOfBool (s.isFull w) + 2 * (s.scopeAt w).toNat
  (List.range 0x2000).map (fun k => BitVec.ofNat 8 (nib (base + 16 * k) + 16 * nib (base + 16 * k + 8)))

/-- The full/empty fields of a bank set from nibbles; a request that waits at a word which is now full is served (R156). -/
def State.setNibbles (s : State) (base : Nat) (bs : List Byte) : State :=
  (List.range 0x4000).foldl (fun t k =>
    let x := (bs.getD (k / 2) 0).toNat / 16 ^ (k % 2) % 16
    let w := base + 8 * k
    (t.putWord w (x % 2 == 1) (BitVec.ofNat 2 (x / 2))).serveWord (localCore w) w) s

/-- Words that were uncorrectable where they were read are uncorrectable where they are written: data moves with its check
bits (R158). -/
def State.carryBad (s : State) (src dst : Nat → Option Nat) : State :=
  (List.range 0x4000).foldl (fun t k =>
    match src k, dst k with
    | some a, some b =>
      if s.bad.contains (granuleOf a) && !t.bad.contains (granuleOf b) then { t with bad := granuleOf b :: t.bad } else t
    | _, _ => t) s

/-- Bank `k` of the share saved, and its incoming data and full/empty bits written, which the monitors of its lines see: the bank is
ready (R200, R358). -/
def State.exchangeBank (s : State) (n : Nat) (h : Handover) (k : Nat) : State :=
  let c := h.cmd
  let bank := (s.shareBanks n (some c.part)).getD k 0
  let base := localBase + n * 2 ^ 21 + bank * 2 ^ 17
  let place := fun (area : Dword) (w : Nat) => s.areaPhys n c.part (area.toNat + 0x18000 + 0x20000 * k + 8 * w)
  let s1 := if c.save then
      (((s.saveBytes n h (0x18000 + 0x20000 * k) (Memory.bytes s.mem base 0x20000)).saveBytes n h (0x218000 + 0x2000 * k)
        (s.bankNibbles base)).carryBad (fun w => some (base + 8 * w)) (place c.outArea)).saveHeader n c.part
    else s
  let s2 := if c.inArea ≠ 0 then
      let bs := s1.areaRead n c.part (c.inArea.toNat + 0x18000 + 0x20000 * k) 0x20000
      let fe := s1.areaRead n c.part (c.inArea.toNat + 0x218000 + 0x2000 * k) 0x2000
      let s3 := { s1 with mem := Memory.setBytes s1.mem base bs,
                          bad := s1.bad.filter (fun a => !(decide (base ≤ a) && decide (a < base + 0x20000))) }
      (linesOf base 0x20000).foldl (fun t l => t.noteWrite n l)
        ((s3.carryBad (place c.inArea) (fun w => some (base + 8 * w))).setNibbles base fe)
    else s1
  s2.modHandover n c.part (fun h => { h with banks := h.banks.filter (fun x => x != k) })

/-- A running job's thread of a context as a record alone tells it, where nothing was kept beside the area: no wait (R355; log
14). -/
def State.recordSlot (s : State) (c : HandoverCmd) (i : SlotNo) : Slot :=
  let job := (s.jobs.find? (fun e => e.2.part == c.part && e.2.context == c.ctxIn && e.2.phase == .running)).map Prod.fst
  { Slot.reset with
    run := .running, job := job,
    st := { Slot.reset.st with partition := c.part, slotNo := BitVec.ofNat 4 i.val } }

/-- A slot of the incoming context released: its record read back over what was kept beside it, a barrier wait that has ended
meanwhile complete, behind an acquire at .pa (R182, R212, R358). It stays parked while its job is parked (R405, R406), and a
barrier that waits for it may have its core's arrival now (R211). -/
def State.releaseSlot (s : State) (n : Nat) (h : Handover) (i : SlotNo) : State :=
  let c := h.cmd
  let s1 := s.modHandover n c.part (fun h => { h with toRelease := h.toRelease.filter (· != i) })
  let ctx := s.incoming c
  let kept := ((ctx.bind (fun x => x.slots.find? (fun e => e.1 == i))).map Prod.snd).getD (s.recordSlot c i)
  let bs := s.areaRead n c.part (c.inArea.toNat + 0x1000 + 0x800 * i.val) 0x800
  let sl := kept.ofRecord bs (s.core n).t
  let sl1 := match ctx.bind (fun x => x.ended.find? (fun e => e.1 == i)) with
    | some (_, counts) =>
      let x := { sl.finish with run := .running }
      if counts then { x with cnt := { x.cnt with round := x.cnt.round + 1 } } else x
    | none => sl
  let away := match kept.job.bind s.job? with
    | some j => j.parked
    | none => false
  let s2 := (((s1.wakeCore n).setSlot n i { sl1 with readyAt := (s.core n).t, parked := away })).acquireOn n 3
  match kept.job with
  | some j => s2.tryArrive n j
  | none => s2

/-- The notices that wait for an incoming context: the list of its area, those spilled for the core it was saved from, those held at
the core, in that order (R361). -/
def State.pendingNotices (s : State) (n : Nat) (h : Handover) : List Notice :=
  let c := h.cmd
  let hd := s.areaHeader n c.part c.inArea.toNat
  let of := fun (x : Nat) =>
    ({ part := c.part, context := c.ctxIn, core := n, tag := bitsOf x 0 16, status := bitsOf x 16 8 } : Notice)
  let list := (List.range hd.npend).map (fun k =>
    of (ofBytes (s.areaRead n c.part (c.inArea.toNat + 0x15000 + 8 * k) 8)))
  let spilled := ((s.vf c.part).spill.filter (fun x =>
    x.1 == hd.core && fieldOf x.2 39 24 == c.ctxIn.toNat)).map (fun x => of x.2.toNat)
  (if h.noticed then [] else list ++ spilled) ++ h.notices

/-- The pending notices delivered; the incoming context's area receives no more (R361). -/
def State.deliverNotices (s : State) (n : Nat) (h : Handover) : State :=
  let c := h.cmd
  let from_ := (s.areaHeader n c.part c.inArea.toNat).core
  let s1 := (s.pendingNotices n h).foldl (fun t x => t.placeNotice x) s
  (s1.modVf c.part (fun v =>
    { v with spill := v.spill.filter (fun x => !(x.1 == from_ && fieldOf x.2 39 24 == c.ctxIn.toNat)),
             areas := v.areas.filter (fun e => !(e.1 / 2 ^ 16 == c.ctxIn.toNat && e.2 == c.inArea)) })).modHandover n
    c.part (fun h => { h with noticed := true, notices := [] })

/-- The bank that a slot of the partition waits on, among those not ready (R358). -/
def State.wantedBank (s : State) (n : Nat) (h : Handover) : Option Nat :=
  h.banks.find? (fun k => (s.core n).slots.toList.any (fun sl =>
    sl.st.partition == h.cmd.part && sl.wait? == some (.bank k)))

/-- What a context-save engine does next for a handover: the shared state; then, for an incoming context, the banks of its notice
ring and the notices that wait; the release of the incoming slots, one after another; the banks, one that a slot waits on before the lowest
(R358, R361). -/
def State.exchangeNext (s : State) (n : Nat) (h : Handover) : Option State :=
  let due := s.pendingNotices n h != []
  if !h.started then (if s.sharedReady n h then some (s.exchangeShared n h) else none)
  else if (!h.noticed || due) && s.ringReady n h then some (s.deliverNotices n h)
  else if !h.noticed then ((s.ringBanks n h.cmd.part).filter h.banks.contains).head?.map (s.exchangeBank n h)
  else
    match h.toRelease with
    | i :: _ => some (s.releaseSlot n h i)
    | [] => ((s.wantedBank n h).orElse (fun _ => h.banks.head?)).map (s.exchangeBank n h)

/-- Whether everything of a handover is exchanged. -/
def Handover.done (h : Handover) : Bool :=
  h.started && h.noticed && h.banks.isEmpty && h.toRelease.isEmpty && (h.notices.isEmpty || h.result != 0)

/-- BANK_EXCHANGE: the next part of a handover is exchanged (R358). -/
def execBankExchange (s : State) : Host.Outcome State Fault Refusal :=
  match s.arg with
  | .core n => .next (((s.core n).handovers.findSome? (fun h => if h.done then none else s.exchangeNext n h)).getD s)
  | _ => .next s

/-- A context saved: STATE 2 with SAVETIME and CRC, written last (R356). A save that met an uncorrectable error is ABORTED
(R354). -/
def State.finishSave (s : State) (n : Nat) (h : Handover) : State :=
  let c := h.cmd
  let hd := s.areaHeader n c.part c.outArea.toNat
  if h.result = 0 then
    let crc := s.areaCrc n c.part c.outArea.toNat hd
    s.areaWrite n c.part c.outArea.toNat { hd with state := 2, savetime := BitVec.ofNat 64 s.ptime, crc := crc }.bytes
  else
    (s.areaWrite n c.part c.outArea.toNat { hd with state := 4 }.bytes).modVf c.part (fun v =>
      { v with areas := eraseNat (areaKey c.ctxOut n) v.areas })

/-- HANDOVER_COMPLETE: headers and RESULT written, the counter incremented; an area is restored once (R354, R356). -/
def execHandoverComplete (s : State) : Host.Outcome State Fault Refusal :=
  match s.arg with
  | .core n =>
    match (s.core n).handovers.find? Handover.done with
    | none => .next s
    | some h =>
      let c := h.cmd
      let s1 := if c.save then s.finishSave n h else s
      let s2 := if c.inArea ≠ 0 ∧ h.result = 0 then
          let hd := s1.areaHeader n c.part c.inArea.toNat
          let t := s1.areaWrite n c.part c.inArea.toNat { hd with state := 5 }.bytes
          { t with contexts := t.contexts.filter (fun x =>
            !(x.part == c.part && x.context == c.ctxIn && x.area == c.inArea)) }
        else s1
      let s3 := s2.modCore n (fun k => { k with handovers := k.handovers.filter (fun x => x.cmd.part != c.part) })
      let s4 := h.notices.foldl (fun t x => t.send none .noticeReturn (.notice x)) s3
      .next (s4.switchResult c h.result)
  | _ => .next s

/-- A handover stopped: by a reset of its partition or by a recovery of its core (R362, R363). The outgoing header tells the
state; an incoming area keeps STATE 2. -/
def State.stopHandover (s : State) (n : Nat) (p : BitVec 6) (state : Nat) (result : Option Nat) : State :=
  match (s.core n).handovers.find? (fun h => h.cmd.part == p) with
  | none => s
  | some h =>
    let s1 := s.modCore n (fun k => { k with handovers := k.handovers.filter (fun x => x.cmd.part != p) })
    let s2 := if h.cmd.save then
        let hd := s1.areaHeader n p h.cmd.outArea.toNat
        (s1.areaWrite n p h.cmd.outArea.toNat { hd with state := state }.bytes).modVf p (fun v =>
          { v with areas := eraseNat (areaKey h.cmd.ctxOut n) v.areas })
      else s1
    match result with
    | some r => s2.switchResult h.cmd r
    | none => s2

/-- The moves of a core's captures and handovers: a slot that is not running is captured without waiting for a turn, and so
is one that no turn can reach (R358). -/
def State.handoverMoves (s : State) (n : Nat) : List Event :=
  let c := s.core n
  (List.finRange 16).filterMap (fun i =>
    let sl := s.slot n i
    if sl.capture && s.captureReady n i && (sl.run != .running || sl.parked || c.fduty == 0 || c.isolated || c.asleep) then
      some { kind := .slotCapture, arg := .slot n i }
    else none) ++
  (if c.handovers.any (fun h => !h.done && (s.exchangeNext n h).isSome) then
    [{ kind := .bankExchange, arg := .core n }] else []) ++
  (if c.handovers.any Handover.done then [{ kind := .handoverComplete, arg := .core n }] else [])

end Sys2Proof.Machine
end

