-- ==== Sys2Proof/Machine/Power.lean ====
section
/-!
DEFINITION. Power (R389 to R412): sense points, the telemetry port, the curve and the caps, the budget tree, the power
instructions, shedding and heat.
-/
namespace Sys2Proof.Machine

/-- The power block changed. -/
def State.modPower (s : State) (f : Power → Power) : State := { s with power := f s.power }

/-- A sense point changed. -/
def State.modSense (s : State) (k : Nat) (f : Sense → Sense) : State :=
  { s with senses := insertNat k (f (s.sense k)) s.senses }

/-- A supply zone. -/
def State.zone (s : State) (z : Nat) : Zone := (lookupNat z s.zones).getD Zone.reset

/-- A supply zone changed. -/
def State.modZone (s : State) (z : Nat) (f : Zone → Zone) : State :=
  { s with zones := insertNat z (f (s.zone z)) s.zones }

/-- A counter of the management core that FNOTE or DNOTE names incremented, where the notice is enabled (R392, R394,
R399). -/
def State.notice (s : State) (x : BitVec 9) : State :=
  if x.getLsbD 8 then s.bump (0xF300 + x.toNat % 8) (bitsOf x.toNat 3 5) 1 else s

/-! ### The telemetry port (R393 to R395) -/

/-- CRC-16 with polynomial 0x1021 and initial value 0xFFFF, each byte most significant bit first (R393). -/
def crc16 (bs : List Byte) : Nat :=
  bs.foldl (fun c b =>
    (List.range 8).foldl (fun c _ => (if 0x8000 ≤ c then (c * 2) ^^^ 0x1021 else c * 2) % 0x10000) (c ^^^ (b.toNat * 256)))
    0xFFFF

/-- Fields of a frame (R393). -/
def frameSync (f : BitVec 128) : Nat := f.toNat % 2 ^ 16
/-- SEQ of a frame. -/
def frameSeq (f : BitVec 128) : BitVec 16 := bitsOf f.toNat 16 16
/-- FREQ of a frame, in mHz. -/
def frameFreq (f : BitVec 128) : Nat := f.toNat / 2 ^ 32 % 2 ^ 32
/-- BUSV of a frame, in mV. -/
def frameBusv (f : BitVec 128) : Nat := f.toNat / 2 ^ 64 % 2 ^ 16
/-- STATUS of a frame. -/
def frameStatus (f : BitVec 128) : Nat := f.toNat / 2 ^ 80 % 2 ^ 16
/-- CRC of a frame. -/
def frameCrc (f : BitVec 128) : Nat := f.toNat / 2 ^ 112

/-- Whether the controller accepts a frame (R394). -/
def Power.accepts (p : Power) (f : BitVec 128) : Bool :=
  let d := (frameSeq f - p.lastseq).toNat
  frameSync f == 0x7E51 && frameCrc f == crc16 (bytesOf 14 (f.toNat % 2 ^ 112)) &&
    (!p.accepted || (decide (1 ≤ d) && decide (d ≤ 32767)))

/-- DEV and FRAC of the valid points of the curve, in ascending number (R396). -/
def Power.points (p : Power) : List (Int × Int) :=
  (p.curve.toList.filter (fun x => x.getLsbD 63)).map (fun x =>
    ((x.setWidth 16 : BitVec 16).toInt, (fieldOf x 32 16 : Nat)))

/-- Whether DEV ascends strictly along points (R396). -/
def ascending : List (Int × Int) → Bool
  | a :: b :: rest => decide (a.1 < b.1) && ascending (b :: rest)
  | _ => true

/-- The fraction f between points (R397). -/
def curveBetween (df : Int) : List (Int × Int) → Int
  | a :: b :: rest =>
    if a.1 ≤ df ∧ df < b.1 then a.2 + ((b.2 - a.2) * (df - a.1)) / (b.1 - a.1) else curveBetween df (b :: rest)
  | [a] => a.2
  | [] => 65536

/-- The fraction f of a frequency deviation (R397). -/
def curveFrac (ps : List (Int × Int)) (df : Int) : Int :=
  match ps with
  | [] => 65536
  | a :: _ => if df ≤ a.1 then a.2 else curveBetween df ps

/-- The fraction g of a bus voltage (R397). -/
def Power.busFrac (p : Power) (v : Nat) : Int :=
  let lo := p.vlo.toNat
  let hi := p.vhi.toNat
  let f : Int := p.vfrac.toNat
  if hi ≤ v then 65536
  else if v ≤ lo then f
  else f + ((65536 - f) * ((v : Int) - lo)) / ((hi : Int) - lo)

/-- CURVECAP for a frame (R397); PMAX while the points are out of order (R396). -/
def Power.curveCap (p : Power) (f : BitVec 128) : Nat :=
  if ascending p.points then
    let df : Int := (frameFreq f : Int) - p.nomfreq.toNat
    (((pmax : Int) * curveFrac p.points df * p.busFrac (frameBusv f)) / 2 ^ 32).toNat
  else pmax

/-- An accepted frame: LASTFRAME, SEQ and GAPS, LOST cleared, the curve evaluated (R394, R395, R397). -/
def Power.accept (p : Power) (f : BitVec 128) (now : Nat) : Power :=
  let skipped := if p.accepted then (frameSeq f - p.lastseq).toNat - 1 else 0
  { p with lastframe := f, lastseq := frameSeq f, lost := false, accepted := true, lastAt := now,
           gaps := BitVec.ofNat 16 (min 65535 (p.gaps.toNat + skipped)),
           curveerr := !ascending p.points, curvecap := p.curveCap f }

/-- TELEMETRY_FRAME: accepted from either port or discarded; STATUS bits without a meaning are logged; then the notice
(R393, R394, R486). -/
def execTelemetryFrame (s : State) : Host.Outcome State Fault Refusal :=
  match s.arg with
  | .shelfFrame _ f =>
    if !s.power.accepts f then .next s
    else
      let s1 := s.modPower (fun p => p.accept f s.ptime)
      let s2 := if 4 ≤ frameStatus f then s1.log 0 0 0 (BitVec.ofNat 64 (frameStatus f)) else s1
      .next (s2.notice s.power.fnote)
  | _ => .next s

/-- FRAME_LOSS_TIMEOUT: no frame accepted for 2 ms sets LOST (R395). -/
def execFrameLossTimeout (s : State) : Host.Outcome State Fault Refusal :=
  if s.power.lost || decide (s.ptime < s.power.lastAt + 2000000) then .next s
  else .next (s.modPower (fun p => { p with lost := true }))

/-- TELEMETRY_ECHO: every 50 µs a root's port sends the last accepted SEQ (R393). -/
def execTelemetryEcho (s : State) : Host.Outcome State Fault Refusal :=
  match s.arg with
  | .root r =>
    if s.ptime < s.power.echoAt.get r.toFin then .next s
    else
      .next (s.modPower (fun p => { p with
        echo := p.echo.set r.toFin p.lastseq, echoAt := p.echoAt.set r.toFin (p.echoAt.get r.toFin + 50000) }))
  | _ => .next s

/-! ### Sense points (R391, R392) -/

/-- The sense point's watch over RISE: when it began to hold. -/
def Sense.watch (x : Sense) (now : Nat) : Sense :=
  { x with riseSince := if x.rise then some (x.riseSince.getD now) else none }

/-- Connection degradation raised, once until DEGR is cleared: DEGR, the error log's record with REFF, RBASE and e, and
DNOTE's increment (R392, R412). The record takes two entries of the log. -/
def State.degrade (s : State) (z : Nat) (pt : BitVec 4) (e : Dword) : State :=
  let k := 16 * z + pt.toNat
  let x := s.sense k
  if x.degr then s
  else
    let s1 := s.modSense k (fun x => { x with degr := true })
    ((s1.log 0x76 z pt.toNat (BitVec.ofNat 64 (x.reff.toNat + x.rbase.toNat * 2 ^ 32))).log 0x76 z pt.toNat e).notice
      s.power.dnote

/-- e in units of 10 nV for a drop of `dv` mV at a step of `di` A (R392). -/
def Sense.unexplained (x : Sense) (dv di : Nat) : Int := (dv : Int) * 100000 - (x.reff.toNat : Int) * di

/-- An unexplained drop noted in STEPX and raised where it exceeds 40 mV (R391, R392). -/
def State.noteDrop (s : State) (z : Nat) (pt : BitVec 4) (e : Int) : State :=
  let k := 16 * z + pt.toNat
  let mv := (e / 100000).toNat
  let s1 := s.modSense k (fun x => { x with stepx := BitVec.ofNat 16 (max x.stepx.toNat (min 65535 mv)) })
  if 4000000 < e then s1.degrade z pt (BitVec.ofInt 64 e) else s1

/-- The voltage a sense point measures, which no rule gives: a free value (log 18). -/
def State.measure (s : State) (k : Nat) : State :=
  let v : BitVec 16 := (Config.freeDword s.tick).setWidth 16
  s.modSense k (fun x =>
    { x with curv := v, minv := if v.toNat < x.minv.toNat then v else x.minv,
             mintime := if v.toNat < x.minv.toNat then BitVec.ofNat 64 s.ptime else x.mintime })

/-- CURRENT_STEP_SAMPLE: a step of 50 A or more updates REFF, and what of the drop REFF does not explain is judged by the
estimate before it (R392). -/
def execCurrentStepSample (s : State) : Host.Outcome State Fault Refusal :=
  match s.arg with
  | .sample z pt dv di =>
    if di < 50 ∨ 50 ≤ z then .next s
    else
      let k := 16 * z + pt.toNat
      let old := s.sense k
      let x : Int := ((dv * 100000 / di : Nat) : Int)
      let reff : Int := (old.reff.toNat : Int) + (x - old.reff.toNat) / 16
      let s1 := (s.measure k).modSense k (fun y => { y with reff := BitVec.ofInt 32 reff }.watch s.ptime)
      .next (s1.noteDrop z pt (old.unexplained dv di))
  | _ => .next s

/-- UNEXPLAINED_STEP_DROP: a drop with no current step (R392). -/
def execUnexplainedStepDrop (s : State) : Host.Outcome State Fault Refusal :=
  match s.arg with
  | .drop z pt dv =>
    if 50 ≤ z then .next s
    else
      let k := 16 * z + pt.toNat
      .next ((s.measure k).noteDrop z pt ((s.sense k).unexplained dv 0))
  | _ => .next s

/-- RISE_HELD: RISE has held for 1 s (R392); the e of its record is a free value (log 18). -/
def execRiseHeld (s : State) : Host.Outcome State Fault Refusal :=
  match s.arg with
  | .point z pt =>
    match (s.sense (16 * z + pt.toNat)).riseSince with
    | some t => if t + 1000000000 ≤ s.ptime then .next (s.degrade z pt s.noAddr) else .next s
    | none => .next s
  | _ => .next s

/-- CLR of a sense point (R391). -/
def Sense.cleared (x : Sense) : Sense := { x with minv := 0xFFFF, mintime := 0 }

/-- SENSE_CLR (R391). -/
def execSenseClr (s : State) : Host.Outcome State Fault Refusal :=
  match s.arg with
  | .point z pt => .next (s.modSense (16 * z + pt.toNat) Sense.cleared)
  | _ => .next s

/-- DEGR_CLEAR (R391, R392). -/
def execDegrClear (s : State) : Host.Outcome State Fault Refusal :=
  match s.arg with
  | .point z pt => .next (s.modSense (16 * z + pt.toNat) (fun x => { x with degr := false }))
  | _ => .next s

/-! ### Registers (R6, R396, R399) -/

/-- Bits of a value in a field of `w` bits from bit 0. -/
def low (w : Nat) (v : Dword) : BitVec w := v.setWidth w

/-- The curve judged again after a write to a point (R396). -/
def Power.judge (p : Power) : Power :=
  if ascending p.points then { p with curveerr := false } else { p with curveerr := true, curvecap := pmax }

/-- A dword written to a register of the power block below the sense points (R396, R399). -/
def Power.write (p : Power) (o : Nat) (v : Dword) : Power :=
  match o with
  | 0x30 => { p with curveen := v.getLsbD 0 }
  | 0x38 => { p with nomfreq := low 32 v }
  | 0x40 => { p with vlo := low 16 v }
  | 0x48 => { p with vhi := low 16 v }
  | 0x50 => { p with vfrac := BitVec.ofNat 17 (min 65536 (fieldOf v 16 0)) }
  | 0x60 => if fieldOf v 15 0 = 0 then p else { p with sheddl := low 16 v }
  | 0x68 => { p with zcap := low 16 v }
  | 0x70 => { p with tcrit := low 8 v }
  | 0x78 => { p with tshut := low 8 v }
  | 0x80 => { p with trestart := low 8 v }
  | 0x88 => { p with fnote := low 9 v }
  | 0xA8 => { p with dnote := low 9 v }
  | _ =>
    if 0x100 ≤ o ∧ o < 0x180 then
      { p with curve := p.curve.set (Fin.ofNat 16 ((o - 0x100) / 8)) (v &&& 0x80000001FFFFFFFF) }.judge
    else p

/-- A dword of a sense point's record written; `mask` marks the bytes that the store covers (R391). -/
def Sense.write (x : Sense) (i : Nat) (v mask : Dword) (now : Nat) : Sense :=
  match i with
  | 0 =>
    let w := v &&& mask
    let x1 := if w.getLsbD 0 then x.cleared else x
    if w.getLsbD 2 then { x1 with degr := false } else x1
  | 1 => { x with rbase := bitsOf v.toNat 32 32 }.watch now
  | _ => x

/-- A value of up to 8 bytes laid over the dword that holds its address: the new dword and the mask of the bytes written. -/
def overDword (old : Dword) (va n : Nat) (v : Dword) : Dword × Dword :=
  let m : Dword := BitVec.ofNat 64 ((2 ^ (8 * n) - 1) * 2 ^ (8 * (va % 8)))
  let x : Dword := BitVec.ofNat 64 (v.toNat * 2 ^ (8 * (va % 8)))
  ((old &&& ~~~m) ||| (x &&& m), m)

/-- A store to the panel control space (R6, R399). What is read only, and the capacity record, the group areas and the
tables of the security core, it leaves as they are. -/
def State.writeControl (s : State) (va n : Nat) (v : Dword) : State :=
  let d := va / 8 * 8
  let r := overDword (s.controlDword d) va n v
  if pwrBase ≤ d ∧ d < pwrBase + 0x200 then s.modPower (fun p => p.write (d - pwrBase) r.1)
  else if pwrBase + 0x200 ≤ d ∧ d < pwrBase + 0x200 + 32 * 800 then
    let o := d - (pwrBase + 0x200)
    s.modSense (o / 32) (fun x => x.write (o / 8 % 4) r.1 r.2 s.ptime)
  else s

/-! ### The budget tree (R400) -/

/-- A core's demand (R400). -/
def State.demand (s : State) (n : Nat) : Nat :=
  min 16 (((s.core n).slots.toList.map (fun sl =>
    if sl.run = .off ∨ sl.run = .halted ∨ sl.parked then 0 else (sl.phint.map BitVec.toNat).getD 4)).sum)

/-- W of a core, in mW (R400). -/
def State.weight (s : State) (n : Nat) : Nat := Config.corePower n * s.demand n / 16

/-- The cores of chiplet `h` that are backed (R12, R418). -/
def State.chipCores (s : State) (h : Nat) : List Nat :=
  ((List.range (12 * s.layout.cols)).map (fun k =>
    (12 * (h / 20) + k / s.layout.cols) * s.gridCols + h % 20 * s.layout.cols + k % s.layout.cols)).filter
    (fun n => (s.capOf n).avail)

/-- The chiplets of a zone (R14). -/
def zoneChips (z : Nat) : List Nat := (List.range 400).filter (fun h => zoneOf (h % 20) (h / 20) == z)

/-- ZCAP of a zone in mW: 7/8 of the written value with one phase failed (R390, R400). -/
def State.zoneCap (s : State) (z : Nat) : Nat :=
  if (s.zone z).failed = 0 then s.power.zcap.toNat * 1000 else s.power.zcap.toNat * 875

/-- FDUTY of a core, from its zone's grant and weight and its chiplet's (R400). -/
def dutyOf (gz wz gh wh w pc : Nat) (clamped : Bool) : Nat :=
  let d := if wz ≤ gz then 16 else min 16 (max 1 (16 * (gh * w / wh) / pc))
  if clamped then min d 4 else d

/-- The duty that the tree computes for every core of the grid, from the cores' weights (R400). -/
def State.budget (s : State) : List (Nat × Nat) :=
  let b := (s.power.effcap - s.power.pfixed) * 1000
  let zs := (List.range 50).map (fun z =>
    (z, (zoneChips z).map (fun h => (h, (s.chipCores h).map (fun n => (n, s.weight n))))))
  let chipW := fun (h : Nat × List (Nat × Nat)) => (h.2.map Prod.snd).sum
  let zoneW := fun (z : Nat × List (Nat × List (Nat × Nat))) => (z.2.map chipW).sum
  let total := (zs.map zoneW).sum
  zs.flatMap (fun z =>
    let wz := zoneW z
    let gz := min (s.zoneCap z.1) (b * wz / total)
    z.2.flatMap (fun h =>
      let wh := chipW h
      let gh := gz * wh / wz
      h.2.map (fun c => (c.1, dutyOf gz wz gh wh c.2 (Config.corePower c.1) (s.chip h.1).clamped))))

/-- A core's FDUTY written (R31). -/
def State.setDuty (s : State) (n d : Nat) : State :=
  if (s.core n).fduty = BitVec.ofNat 5 d then s else s.modCore n (fun c => { c with fduty := BitVec.ofNat 5 d })

/-- Every member core of a standing bench takes the least FDUTY among them (R400). -/
def State.levelBenches (s : State) : State :=
  (s.cores.flatMap (fun e => e.2.slots.toList.filterMap (fun sl => sl.bench.filter (fun b => b.leader == e.1)))).foldl
    (fun t b =>
      let ms := benchCores b
      let d := ms.foldl (fun d m => min d (t.core m).fduty.toNat) 16
      ms.foldl (fun t m => t.setDuty m d) t) s

/-- BUDGET_TICK: PFIXED as measured, a free value (log 11), then every core's FDUTY (R31, R400): a processor outside the tree of
zones and chiplets gets 16 (DESIGN CHOICE, log 11: R31 has the tick write it, R400 computes no value for it). -/
def execBudgetTick (s : State) : Host.Outcome State Fault Refusal :=
  let s1 := s.modPower (fun p =>
    { p with pfixed := (Config.freeDword s.tick).toNat % 65536, nextTick := p.nextTick + 10000 })
  let s2 := s1.budget.foldl (fun t e => t.setDuty e.1 e.2) s1
  .next (((s2.cores.map Prod.fst).filter (fun n => !s2.isGrid n)).foldl (fun t n => t.setDuty n 16) s2).levelBenches

/-! ### The power instructions (R402 to R404) -/

/-- PHINT h: the slot's contribution; no effect but on a grid core (R402). -/
def execPhint (h : BitVec 5) (s : State) : Host.Outcome State Fault Refusal :=
  if 5 ≤ h.toNat ∧ h.toNat ≤ 30 then .next (s.illegal (wordOf (.phint h)))
  else if !s.isGrid s.curCore then .next (s.finish 4)
  else .next ((s.modMe (fun sl => { sl with phint := if h = 31 then none else some h })).finish 4)

/-- PCAPW a (R403). -/
def execPcapw (a : BitVec 5) (s : State) : Host.Outcome State Fault Refusal :=
  let x := s.getG a
  if s.me.st.mode ≠ .management then .next s.privilege
  else if x.toNat / 2 ^ 17 ≠ 0 then .next (s.fault 0x0B x)
  else
    let v := min pmax (fieldOf x 15 0)
    .next ((s.modPower (fun p => if x.getLsbD 16 then { p with fallback := v } else { p with pcap := v })).finish 4)

/-- A slot named for capture by a park alone is no longer; one that a handover or a SLOTHALT names still is. -/
def State.uncapture (s : State) (n : Nat) (i : SlotNo) : State :=
  let wanted := (s.core n).handsOver i ||
    s.cores.any (fun e => e.2.slots.toList.any (fun sl => sl.wait? == some (.slotAnswer n i true)))
  s.modSlot n i (fun sl => { sl with parked := false, capture := sl.capture && wanted })

/-- The cores and slots of a job. -/
def State.slotsOfJob (s : State) (j : Nat) : List (Nat × SlotNo) :=
  s.cores.flatMap (fun e => ((List.finRange 16).filter (fun i => (e.2.slot i).job == some j)).map (fun i => (e.1, i)))

/-- A job that is neither shed nor held by heat is restored: its cores run and its slots rejoin (R409, R411). -/
def State.restoreJob (s : State) (j : Nat) : State :=
  match s.job? j with
  | some job =>
    if job.shed || job.heat != [] then s
    else
      let s1 := s.modJob j (fun x => { x with parked := false })
      (s1.slotsOfJob j).foldl (fun t e => (t.uncapture e.1 e.2).wakeCore e.1) s1
  | none => s

/-- A level of shedding brought to a job: shed where its class is the level or higher-numbered, restored where it is not
(R404, R409, R410). The deadline runs from the SHEDW that shed it. -/
def State.shedJob (s : State) (level : Nat) (j : Nat) : State :=
  match s.job? j with
  | some job =>
    if job.phase != .running then s
    else if level ≤ job.prio.toNat then
      s.modJob j (fun x => { x with shed := true, shedAt := if x.shed then x.shedAt else s.ptime })
    else if job.shed then (s.modJob j (fun x => { x with shed := false })).restoreJob j
    else s
  | none => s

/-- SHEDW a (R404, R409). -/
def execShedw (a : BitVec 5) (s : State) : Host.Outcome State Fault Refusal :=
  let x := s.getG a
  if s.me.st.mode ≠ .management then .next s.privilege
  else if x.toNat / 16 ≠ 0 ∨ 8 < x.toNat then .next (s.fault 0x0B x)
  else
    let s1 := (s.modPower (fun p => { p with shedlvl := x.toNat })).finish 4
    .next (s1.jobs.foldl (fun t e => t.shedJob x.toNat e.1) s1)

/-! ### Parking in place (R406, R411) -/

/-- A job parked in place: its slots are captured as R358 captures one, and an event record with cause 0x77 is posted
(R384, R406). -/
def State.parkInPlace (s : State) (j : Nat) (zone : Nat) : State :=
  match s.job? j with
  | none => s
  | some job =>
    let s1 := s.modJob j (fun x => { x with parked := true })
    let s2 := (s1.slotsOfJob j).foldl (fun t e => t.modSlot e.1 e.2 (fun sl =>
      if sl.run = .off ∨ sl.run = .halted then sl else { sl with capture := true })) s1
    s2.postEntry job.part
      (eventRecord s.ptime (if job.recov then job.round else 0) job.seq 0xFFFF zone false false 0x77)

/-- SHED_DEADLINE_EXPIRY: a shed job that has not parked within SHEDDL µs is parked in place; one in the middle of a commit
parks when that completes (R406, R410). -/
def execShedDeadlineExpiry (s : State) : Host.Outcome State Fault Refusal :=
  match s.arg with
  | .job j =>
    match s.job? j with
    | some job =>
      if job.phase == .running && job.shed && !job.parked && (s.commitUse j).isNone &&
          decide (job.shedAt + s.power.sheddl.toNat * 1000 ≤ s.ptime) then .next (s.parkInPlace j 0)
      else .next s
    | none => .next s
  | _ => .next s

/-- Whether a core can stop its clock: every slot parked, halted or unoccupied, its engines idle, as they are too where all
that they hold are the stopped commands of parked jobs (R405, R407). -/
def Core.retainable (c : Core) : Bool :=
  !c.asleep && c.slots.toList.all (fun sl => (sl.run == .off || sl.run == .halted || sl.parked) && !sl.capture) &&
    c.mq.toList.all (fun m => m.entries.all (fun e => !e.done && (c.slot e.slot).parked)) &&
    c.copies.all (fun x => (c.slot x.slot).parked) && c.colls.all (fun x => (c.slot x.slot).parked) && c.buffer.isEmpty &&
    c.outs.isEmpty

/-- CORE_RETENTION: the core's clock stops and its state is kept (R407). -/
def execCoreRetention (s : State) : Host.Outcome State Fault Refusal :=
  match s.arg with
  | .core n =>
    if s.isGrid n && (s.core n).retainable then .next (s.modCore n (fun c => { c with asleep := true })) else .next s
  | _ => .next s

/-! ### Heat (R411) -/

/-- The jobs with a rank on a chiplet, whose slots have started (R411). -/
def State.jobsOnChip (s : State) (h : Nat) : List Nat :=
  (s.jobs.filter (fun e => e.2.phase == .running && (s.jobCores e.2).any (fun n => s.chipOf n == h))).map Prod.fst

/-- A chiplet's temperature has been read (R411). -/
def State.noteTemp (s : State) (h : Nat) (t : Int) : State :=
  let since := fun (holds : Bool) (x : Option Nat) => if holds then some (x.getD s.ptime) else none
  s.modChip h (fun c =>
    { c with temp := some t, hotSince := since (decide ((s.power.tcrit.toNat : Int) ≤ t)) c.hotSince,
             coolSince := since (decide (t < (s.power.tcrit.toNat : Int) - 5)) c.coolSince })

/-- Whether something has held for some nanoseconds. -/
def heldFor (since : Option Nat) (ns now : Nat) : Bool := since.any (fun t => decide (t + ns ≤ now))

/-- The condition of the clamp (R411). -/
def State.heatClamps (s : State) (h : Nat) : Bool := (s.chip h).temp.any (fun t => decide ((s.power.tcrit.toNat : Int) ≤ t))

/-- The condition of parking by heat (R411). -/
def State.heatParks (s : State) (h : Nat) : Bool :=
  (s.chip h).clamped && ((s.chip h).temp.any (fun t => decide ((s.power.tcrit.toNat : Int) + 5 ≤ t)) ||
    heldFor (s.chip h).hotSince 100000000 s.ptime)

/-- The condition under which the clamp lifts (R411). -/
def State.heatLifts (s : State) (h : Nat) : Bool := (s.chip h).clamped && heldFor (s.chip h).coolSince 10000000 s.ptime

/-- The condition of the shutdown (R411). -/
def State.heatShuts (s : State) (h : Nat) : Bool :=
  !(s.chip h).off && (s.chip h).temp.any (fun t => decide ((s.power.tshut.toNat : Int) ≤ t))

/-- The condition of powering a chiplet again (R411). -/
def State.heatRestarts (s : State) (h : Nat) : Bool :=
  (s.chip h).off && (s.chip h).temp.any (fun t => decide (t < (s.power.trestart.toNat : Int)))

/-- A step of the thermal sequence of a chiplet: a reading that comes with it is noted, then the step acts where its condition
holds (R411). -/
def State.heatStep (s : State) (holds : State → Nat → Bool) (act : State → Nat → State) : Host.Outcome State Fault Refusal :=
  let go := fun (t : State) (h : Nat) => if holds t h then act t h else t
  match s.arg with
  | .chip h => .next (go s h)
  | .chipTemp h x => .next (go (s.noteTemp h x) h)
  | _ => .next s

/-- THERMAL_CLAMP: a chiplet at TCRIT is clamped (R411). -/
def execThermalClamp (s : State) : Host.Outcome State Fault Refusal :=
  s.heatStep State.heatClamps (fun t h => t.modChip h (fun c => { c with clamped := true }))

/-- Every job with a rank on a chiplet held by its heat and, unless parked already, parked in place (R411). -/
def State.parkChip (s : State) (h : Nat) : State :=
  (s.jobsOnChip h).foldl (fun t j =>
    let was := ((t.job? j).map Job.parked).getD false
    let t1 := t.modJob j (fun x => { x with heat := if x.heat.contains h then x.heat else h :: x.heat })
    if was then t1 else t1.parkInPlace j (zoneOf (h % 20) (h / 20))) s

/-- THERMAL_PARK: a clamped chiplet 5 °C above TCRIT, or at TCRIT for 100 ms, parks its jobs (R411). -/
def execThermalPark (s : State) : Host.Outcome State Fault Refusal := s.heatStep State.heatParks State.parkChip

/-- The clamp of a chiplet lifts; jobs that no chiplet holds and that are not shed resume (R411). -/
def State.liftClamp (s : State) (h : Nat) : State :=
  let s1 := s.modChip h (fun c => { c with clamped := false })
  s1.jobs.foldl (fun t e =>
    if e.2.heat.contains h then
      (t.modJob e.1 (fun x => { x with heat := x.heat.erase h })).restoreJob e.1
    else t) s1

/-- CLAMP_LIFT: after 10 ms more than 5 °C below TCRIT the clamp lifts (R411). -/
def execClampLift (s : State) : Host.Outcome State Fault Refusal := s.heatStep State.heatLifts State.liftClamp

/-- THERMAL_SHUTDOWN: a chiplet at TSHUT is powered off, and recovery starts (R374, R411). -/
def execThermalShutdown (s : State) : Host.Outcome State Fault Refusal :=
  s.heatStep State.heatShuts (fun t h => (t.modChip h (fun c => { c with off := true })).lose (.chiplet h))

/-- THERMAL_RESTART: an off chiplet below TRESTART is powered again, step 2 of its recovery (R376, R411). -/
def execThermalRestart (s : State) : Host.Outcome State Fault Refusal :=
  s.heatStep State.heatRestarts (fun t h =>
    (t.modChip h (fun c => { c with off := false })).send none .powerGood (.loss (.chiplet h)))

/-- The steps of the thermal sequences that the temperatures read bring about (R411). -/
def State.heatMoves (s : State) : List Event :=
  let unheld := fun (h : Nat) => (s.jobsOnChip h).any (fun j => (s.job? j).any (fun x => !x.heat.contains h))
  s.chips.flatMap (fun e =>
    let h := e.1
    let when := fun (b : Bool) (k : Instr) => if b then [({ kind := k, arg := .chip h } : Event)] else []
    when (s.heatClamps h && !e.2.clamped) .thermalClamp ++ when (s.heatParks h && unheld h) .thermalPark ++
      when (s.heatLifts h) .clampLift ++ when (s.heatShuts h) .thermalShutdown ++ when (s.heatRestarts h) .thermalRestart)

/-! ### Regulators (R390) -/

/-- A zone's regulator trips: the zone loses its power and recovery starts (R390). -/
def State.trip (s : State) (z : Nat) : State :=
  if (s.zone z).tripped then s
  else (s.modZone z (fun x => { x with tripped := true })).lose (.zone z)

/-- ZONE_TRIP (R390). -/
def execZoneTrip (s : State) : Host.Outcome State Fault Refusal :=
  match s.arg with
  | .zone z => .next (if z < 50 then s.trip z else s)
  | _ => .next s

/-- PHASE_FAILURE: the first failed phase lowers ZCAP and is logged, a second trips the zone (R390). -/
def execPhaseFailure (s : State) : Host.Outcome State Fault Refusal :=
  match s.arg with
  | .zone z =>
    if 50 ≤ z then .next s
    else
      let s1 := s.modZone z (fun x => { x with failed := x.failed + 1 })
      if (s1.zone z).failed = 1 then .next (s1.log 0 z 0 1) else .next (s1.trip z)
  | _ => .next s

end Sys2Proof.Machine
end

