-- ==== Sys2Proof/Machine/Launch.lean ====
section
/-!
DEFINITION. Work queues as the launch engine reads them (R439 to R441), images (R69 to R71), placement (R45, R46, R419), the
launch of a job (R39 to R43), and its completion (R48, R442, R443).
-/
namespace Sys2Proof.Machine

/-! ### Paged bytes with the partition's supervisor rights (R440) -/

/-- The physical address of a paged byte for a partition's supervisor, where its page grants what is needed (R440). -/
def State.supPhys (s : State) (p : BitVec 6) (need : PageInfo → Bool) (va : Nat) : Option Nat :=
  let a : Acc := { core := 0xF200, who := some p, mode := .supervisor }
  match s.page a va with
  | .error _ => none
  | .ok (base, i) =>
    if !need i then none
    else
      match i.place with
      | .store c o =>
        if s.nameKnown a.who c && s.inShare c a.who (o + (va - base)) 1 then some (s.sharePhys c a.who (o + (va - base)))
        else none
      | .control => none
      | place =>
        match s.translateWalk a.who va place with
        | .ok x => some (x.phys + (va - x.base))
        | .error _ => none

/-- Paged bytes, none where a page does not serve or the data is uncorrectable. -/
def State.supBytes (s : State) (p : BitVec 6) (need : PageInfo → Bool) (va len : Nat) : Option (List Byte) :=
  (linePieces va len).foldr (fun q acc =>
    match acc, s.supPhys p need q.1 with
    | some rest, some a => if (s.badIn a q.2).isSome then none else some (Memory.bytes s.mem a q.2 ++ rest)
    | _, _ => none) (some [])

/-! ### Images (R69 to R71) -/

/-- A little-endian number in bytes. -/
def numAt (bs : List Byte) (o n : Nat) : Nat := ofBytes ((bs.drop o).take n)

/-- A section record (R70). -/
structure Section where
  kind : Nat
  addr : Nat
  fileOff : Nat
  fileSize : Nat
  memSize : Nat
  deriving DecidableEq, Repr

/-- A group record: port and rectangle relative to the region's origin (R209). -/
structure GroupRec where
  port : Nat
  row : Nat
  col : Nat
  rows : Nat
  cols : Nat
  deriving DecidableEq, Repr

/-- An image as the launch engine uses it (R69 to R71). -/
structure Image where
  bytes : List Byte
  sections : List Section
  groups : List GroupRec
  classes : List Nat
  entries : List Nat
  shape : List Byte
  mirror : Nat
  slotMask : BitVec 16
  rows : Nat
  cols : Nat
  row0 : Nat
  col0 : Nat
  minSlots : Nat
  minBanks : Nat
  bench : Nat
  matq : Bool
  reloc : Bool
  deriving DecidableEq, Repr

/-- The image in its bytes (R69 to R71, R209). -/
def imageOf (bs : List Byte) : Image :=
  let u := numAt bs
  let sect := u 40 4
  let place := u 28 4
  let entry := u 24 4
  let shape := u 20 4
  { bytes := bs,
    sections := (List.range (u 38 2)).map (fun k =>
      let o := sect + 32 * k
      { kind := u o 1 % 16, addr := u (o + 24) 8, memSize := u (o + 20) 4, fileSize := u (o + 16) 4,
        fileOff := u (o + 12) 4 }),
    groups := (List.range (u 36 2)).map (fun k =>
      let o := u 16 4 + 16 * k
      { port := u o 1 % 4, row := u (o + 2) 2, col := u (o + 4) 2, rows := u (o + 6) 2, cols := u (o + 8) 2 }),
    classes := (List.range (u 34 2)).map (fun k => u (u 12 4 + 32 * k) 32),
    entries := (List.range 18).map (fun k => u (entry + 4 * k) 4),
    shape := if shape = 0 then List.replicate 128 0 else (bs.drop shape).take 128,
    mirror := u (place + 28) 4, slotMask := BitVec.ofNat 16 (u (place + 26) 2), rows := u (place + 24) 2,
    cols := u (place + 22) 2, row0 := u (place + 20) 2, col0 := u (place + 18) 2, minSlots := u (place + 16) 2,
    minBanks := u (place + 14) 2, bench := u (place + 2) 1 / 16, matq := u (place + 2) 1 / 2 % 2 = 1,
    reloc := u (place + 2) 1 % 2 = 1 }

/-- The image at a paged address: read with EX, its MAGIC, VERSION and CRC good (R69, R440, R441). An image whose MAGIC or
VERSION is wrong counts as unreadable, so that its job completes with INVALID_RECORD (DESIGN CHOICE, log 50: R441 names an
unreadable image and a failed CRC only). -/
def State.readImage (s : State) (p : BitVec 6) (va : Nat) : Option Image :=
  let ex := fun (i : PageInfo) => i.exS
  if va % 8 ≠ 0 then none
  else
    match s.supBytes p ex va 64 with
    | none => none
    | some hd =>
      match s.supBytes p ex va (numAt hd 44 4) with
      | none => none
      | some bs =>
        let zeroed := bs.take 8 ++ [0, 0, 0, 0] ++ bs.drop 12
        if numAt bs 0 2 = 0x514D ∧ numAt bs 2 2 = 1 ∧ 64 ≤ bs.length ∧ numAt bs 8 4 = crc32 zeroed then some (imageOf bs)
        else none

/-- Number of the class that an image's class record names (R224). -/
def classNumber (r : Nat) : BitVec 5 := bitsOf r 224 5

/-- A class record with the bits of its class number zero (R224). -/
def classBits (r : Nat) : Nat := r % 2 ^ 224 + r / 2 ^ 229 * 2 ^ 229

/-- Whether an image's class record is valid but for its bounds in the share (R224, R441). -/
def classValid (m : BitVec 16) (r : Nat) : Bool :=
  let x := classBits r
  let e := classOfRecord x
  classRecordOk x && decide ((classNumber r).toNat ≤ 28) && (!e.cnten || m.getLsbD (e.counter.toNat / 2)) &&
    (e.mode != 3 || m.getLsbD (2 * e.queue.toNat) || m.getLsbD (2 * e.queue.toNat + 1))

/-! ### Work queues (R436 to R439) -/

/-- A work queue. -/
def State.wq (s : State) (q : Nat) : WorkQueue := (lookupNat q s.queues).getD WorkQueue.reset

/-- A work queue changed. -/
def State.modWq (s : State) (q : Nat) (f : WorkQueue → WorkQueue) : State :=
  { s with queues := insertNat q (f (s.wq q)) s.queues }

/-- Records of a queue's rings (R438). -/
def WorkQueue.size (w : WorkQueue) : Nat := 2 ^ (4 + w.sizelog.toNat)

/-- Whether an interface lets its partition launch (R433). -/
def Vf.launches (v : Vf) : Bool := v.tdisp == .unlocked || v.tdisp == .run

/-- Whether the launch engine may read the queue's next record (R433, R434, R439, R441). -/
def State.readable (s : State) (q : Nat) : Bool :=
  let w := s.wq q
  let n := w.consumed.toNat + 1
  w.en && w.enabled && (w.err == 0 || w.err == 3) && decide (n ≤ w.submit.toNat) && decide (n ≤ w.chead.toNat + w.size) &&
    (s.vf w.part).launches

/-- The queues that root `k` may read, in round-robin order after the one whose read it began last: those of the partitions it serves
(R46, R432, R439). -/
def State.readOrder (s : State) (k : Nat) : List Nat :=
  let last := s.lastQueue.get (Fin.ofNat 2 k)
  let qs := ((s.queues.map Prod.fst).filter (fun q => s.readable q && s.rootOf (s.wq q).part == some k))
  qs.filter (fun q => decide (last < q)) ++ qs.filter (fun q => decide (q ≤ last))

/-- The launch engine of root `k` begins reads, in round-robin order, until four are in flight (R439). -/
def State.beginReads (s : State) (k : Nat) : State :=
  let r : Fin 2 := Fin.ofNat 2 k
  let flying := (s.reading.get r).filter s.readable
  let next := ((s.readOrder k).filter (fun q => !flying.contains q)).take (4 - flying.length)
  { s with reading := s.reading.set r (flying ++ next),
           lastQueue := match next.getLast? with
             | some q => s.lastQueue.set r q
             | none => s.lastQueue }

/-- The queues whose records a launch engine is reading (R439). -/
def State.readsOf (s : State) (k : Nat) : List Nat := (s.beginReads k).reading.get (Fin.ofNat 2 k)

/-- Fields of a launch record (R440). -/
def recordPrio (r : BitVec 512) : BitVec 3 := bitsOf r.toNat 32 3

/-- Wait entry `i`: valid, queue, sequence number (R440). -/
def waitEntry (r : BitVec 512) (i : Nat) : Option (Nat × Nat) :=
  let x := r.toNat / 2 ^ (64 + 48 * i) % 2 ^ 48
  if x / 2 ^ 47 = 1 then some (x / 2 ^ 34 % 2 ^ 13, x % 2 ^ 32) else none

/-- Whether a launch record's own fields are valid (R441). -/
def recordFieldsOk (r : BitVec 512) : Bool :=
  fieldOf r 3 0 == 1 && fieldOf r 31 8 == 0 && decide (fieldOf r 39 35 ≤ 16) && !(r.getLsbD 5 && r.getLsbD 6) &&
    (List.range 4).all (fun i => r.toNat / 2 ^ (96 + 48 * i) % 4 == 0)

/-- The trace area and the data-placement ranges of a record's extension block; none where it is invalid (R440, R441). -/
def State.extension (s : State) (p : BitVec 6) (r : BitVec 512) : Option (Dword × Nat × List (Nat × Nat)) :=
  let va := fieldOf r 319 256
  let rd := fun (i : PageInfo) => i.rdS
  if va = 0 then some (0, 0, [])
  else if va % 64 ≠ 0 then none
  else
    match s.supBytes p rd va 64 with
    | none => none
    | some hd =>
      let n := numAt hd 16 8
      if 64 < n then none
      else
        match s.supBytes p rd (va + 64) (16 * n) with
        | none => none
        | some bs =>
          some (BitVec.ofNat 64 (numAt hd 0 8), numAt hd 8 8,
            (List.range n).map (fun k => (numAt bs (16 * k) 8, numAt bs (16 * k + 8) 8)))

/-- The image of a job (R440). -/
def State.jobImage (s : State) (j : Job) : Option Image := s.readImage j.part (fieldOf j.record 447 384)

/-- Whether what a job's record names is valid: extension block, image, class records (R441). -/
def State.jobValid (s : State) (j : Job) : Bool :=
  recordFieldsOk j.record && (s.extension j.part j.record).isSome &&
    (match s.jobImage j with
     | some im => im.classes.all (classValid im.slotMask)
     | none => false)

/-! ### Completion (R48, R442, R443) -/

/-- COMPLETED after a sequence number completes: the highest below which all have completed (R437); `fuel` bounds the
numbers passed. -/
def advanceDone (fuel : Nat) (c : Dword) (done : List Nat) : Dword × List Nat :=
  match fuel with
  | 0 => (c, done)
  | f + 1 =>
    let n := c.toNat + 1
    if done.contains n then advanceDone f (BitVec.ofNat 64 n) (done.erase n) else (c, done)

/-- A completion record (R442). -/
def completionRecord (w : WorkQueue) (j : Job) (status : Nat) (cause : BitVec 8) : Nat :=
  (1 - w.cpos.toNat / w.size % 2) + natOfBool j.truncated * 2 + status * 2 ^ 32 + cause.toNat * 2 ^ 40 + j.queue * 2 ^ 51 +
    j.seq % 2 ^ 64 * 2 ^ 64

/-- A job's dependences are resolved: its wait entries, and on a serial queue every job before it (R39, R440). -/
def State.depsMet (s : State) (j : Job) : Bool :=
  (List.range 4).all (fun i =>
    match waitEntry j.record i with
    | some (q, w) => decide ((((s.wq q).completed.toNat + 2 ^ 32 - w) % 2 ^ 32) < 2 ^ 31)
    | none => true) &&
    (!(s.wq j.queue).serial || decide (j.seq ≤ (s.wq j.queue).completed.toNat + 1))

/-- Waiting jobs whose dependences are now resolved begin to wait for placement (R39, R46). -/
def State.markEligible (s : State) : State :=
  { s with jobs := s.jobs.map (fun e =>
      match e.2.phase with
      | .waiting none => (e.1, if s.depsMet e.2 then { e.2 with phase := .waiting (some s.ptime) } else e.2)
      | _ => e) }

/-- The completion record of a job written and its vector raised, COMPLETED advanced (R437, R442). The status of a reset is
written only on a queue that is enabled again (R443). -/
def State.writeCompletion (s : State) (j : Job) (status : Nat) (cause : BitVec 8) : State :=
  let w := s.wq j.queue
  if status = 9 ∧ !w.enabled then s
  else
    let a := hostBase + w.wcbase.toNat + 16 * (w.cpos.toNat % w.size)
    let s1 := { s with mem := Memory.setBytes s.mem a (bytesOf 16 (completionRecord w j status cause)) }
    (s1.modWq j.queue (fun w =>
      let d := if j.seq ≤ w.consumed.toNat then advanceDone (w.doneSeqs.length + 1) w.completed (j.seq :: w.doneSeqs)
               else (w.completed, w.doneSeqs)
      { w with cpos := w.cpos + 1, completed := d.1, doneSeqs := d.2 })).raiseVector j.part w.vector.toNat

/-- A slot that its job leaves: free for other jobs (R48). -/
def Slot.freed (sl : Slot) : Slot :=
  { sl with run := .off, job := none, bench := none, parked := false, capture := false, pending := [], deferred := none,
            phint := none }

/-- What a job held on its cores is given up: slots, engine commands, ports, mirrors, and the enable of its work lists
(R48, R323), and resynchronisation ends (R378); a deferred fault that was never delivered is logged (R347). -/
def State.releaseCores (s : State) (j : Nat) : State :=
  let logs := s.cores.flatMap (fun e => (List.finRange 16).filterMap (fun i =>
    let sl := e.2.slot i
    if sl.job = some j then sl.deferred.map (fun d => (e.1, i.val, d)) else none))
  let part := (s.job? j).map Job.part
  let s1 := logs.foldl (fun t x => t.log x.2.2.1 x.1 x.2.1 x.2.2.2) s
  { s1 with cores := s1.cores.map (fun e =>
      let c := e.2
      let mine := fun (i : SlotNo) => (c.slot i).job == some j
      (e.1, { c with
        slots := c.slots.map (fun sl => if sl.job = some j then sl.freed else sl),
        mq := c.mq.map (fun m => { m with entries := m.entries.filter (fun x => !mine x.slot) }),
        copies := c.copies.filter (fun x => !mine x.slot),
        colls := c.colls.filter (fun x => !mine x.slot),
        ports := c.ports.filter (fun p => p.job != j),
        mirrors := c.mirrors.filter (fun m => m.job != j),
        channels := if c.mirrors.any (fun m => m.job == j) then
            c.channels.map (fun ch => if some ch.part = part then
              { ch with resync := false, resend := [], answer := none } else ch)
          else c.channels,
        wl := if c.wl.job = some j then { c.wl with en := false } else c.wl })) }

/-- A job completes with a status: record, group entries, what it held. The committed copies of a job that a loss has ended
stay (R48, R208, R383, R442). -/
def State.finishJob (s : State) (j : Nat) (status : Nat) (cause : BitVec 8) : State :=
  match s.job? j with
  | none => s
  | some job =>
    let s1 := (s.releaseCores j).writeCompletion job status cause
    let s2 := { s1 with
      groups := s1.groups.filter (fun g => g.job != j),
      uses := s1.uses.filter (fun u => u.job != j),
      collUses := s1.collUses.filter (fun u => u.key.job != j),
      copies := if status = 6 then s1.copies else s1.copies.filter (fun c => c.job != j) }
    (s2.modJob j (fun x => { x with phase := .done, target := none, reserved := [] })).markEligible

/-- Whether every slot of a started job has halted and its writes and engine commands are complete (R48, R339, R347). -/
def State.allHalted (s : State) (j : Nat) (job : Job) : Bool :=
  (s.jobCores job).all (fun n => (maskSlots job.slotMask).all (fun i =>
    let sl := s.slot n i
    sl.job == some j && sl.run == .halted && sl.outstanding == 0 && s.enginesIdle n i))

/-- Whether no slot of a job that ends runs any more (R335, R342, R374). -/
def State.allStopped (s : State) (j : Nat) : Bool :=
  s.cores.all (fun e => e.2.slots.toList.all (fun sl =>
    sl.job != some j || ((sl.run == .off || sl.run == .halted) && sl.outstanding == 0)))

/-- JOB_COMPLETE (R48, R443). -/
def execJobComplete (s : State) : Host.Outcome State Fault Refusal :=
  match s.arg with
  | .job j =>
    match s.job? j with
    | none => .next s
    | some job =>
      match job.phase with
      | .running => if s.allHalted j job then .next (s.finishJob j 0 0) else .next s
      | .ending status cause => if s.allStopped j then .next (s.finishJob j status cause) else .next s
      | _ => .next s
  | _ => .next s

/-! ### Reading launch records (R439 to R441) -/

/-- A job made of a record (R440). -/
def jobOfRecord (q seq : Nat) (w : WorkQueue) (r : BitVec 512) : Job :=
  let lg := fieldOf r 39 35
  { queue := q, seq := seq, part := w.part, record := r, context := bitsOf r.toNat 48 16, prio := recordPrio r,
    super := r.getLsbD 7 && w.super, recov := r.getLsbD 4, recording := r.getLsbD 5, replay := r.getLsbD 6,
    slotMask := 0, row0 := 0, col0 := 0, rows := 0, cols := 0, phase := .waiting none, target := none, heat := [],
    shed := false, parked := false, shedAt := 0, start := 0, round := 0, recovering := [],
    logBytes := (if lg = 0 then 4 else lg) * 16384, traceBase := 0, traceLen := 0, traceAt := [], truncated := false }

/-- A host that fails: a failed read leaves the record unread with ERR 2, and a failed completion write sets ERR 3 (R438);
log 33. -/
def State.hostFailed (s : State) (n : Nat) (code : BitVec 64) : State :=
  let w := s.wq n
  let k := (s.rootOf w.part).getD 0
  if code = 2 ∧ (s.readsOf k).contains n then
    let s1 := s.beginReads k
    { s1 with reading := s1.reading.set (Fin.ofNat 2 k) ((s.readsOf k).erase n) }.modWq n (fun w => { w with err := 2 })
  else if code = 3 ∧ w.enabled ∧ w.cpos ≠ 0 then s.modWq n (fun w => { w with err := 3 })
  else s

/-- LAUNCH_RECORD_READ: the record's copy arrives; it is consumed unless SEQCHK fails, and an invalid one completes at once
(R439, R441). With a value it is a host's failure of code 2 or 3 (R438; log 33). -/
def execLaunchRecordRead (s : State) : Host.Outcome State Fault Refusal :=
  match s.arg with
  | .workQueue q =>
    let n := q.toNat
    let w := s.wq n
    let k := (s.rootOf w.part).getD 0
    if !(s.readsOf k).contains n then .next s
    else
      let seq := w.consumed.toNat + 1
      let r : BitVec 512 := BitVec.ofNat 512 (s.peek (hostBase + w.wqbase.toNat + 64 * ((seq - 1) % w.size)) 64)
      let s0 := s.beginReads k
      let s1 := { s0 with reading := s0.reading.set (Fin.ofNat 2 k) ((s.readsOf k).erase n) }
      if fieldOf r 47 40 ≠ seq % 256 then .next (s1.modWq n (fun w => { w with err := 1 }))
      else
        let job := jobOfRecord n seq w r
        let j := s1.nextJob
        let s2 := (s1.modWq n (fun w => { w with consumed := BitVec.ofNat 64 seq }))
        let s3 := { s2 with jobs := insertNat j job s2.jobs, nextJob := j + 1 }
        .next (if s3.jobValid job then s3.markEligible else s3.finishJob j 3 0)
  | .workQueueVal q v => .next (s.hostFailed q.toNat v)
  | _ => .next s

/-! ### Placement (R45, R46, R419) -/

/-- The ranges of an image's mirror sections, those that touch merged (R367). -/
def Image.mirrorRanges (im : Image) : List (Nat × Nat) :=
  (im.sections.filter (fun x => x.kind == 4)).foldl (fun r x => addRange r x.addr x.memSize) []

/-- Whether a core can hold an image's mirrored ranges: at most 16, of whole lines, inside the share (R367). An image whose ranges
do not fit anywhere counts as a mismatch (DESIGN CHOICE, log 50: no rule says how its launch ends). -/
def Image.rangesFit (im : Image) (share : Nat) : Bool :=
  decide (im.mirrorRanges.length ≤ 16) &&
    im.mirrorRanges.all (fun r => decide (r.1 % 64 = 0) && decide (r.2 % 64 = 0) && decide (r.1 + r.2 ≤ share))

/-- Whether a core meets an image's requirements for a job (R419). -/
def State.fitsCore (s : State) (j : Job) (im : Image) (n : Nat) : Bool :=
  let p := j.part
  let e := s.capOf n
  let share := s.shareSize n (some p)
  s.inRegion p n && (maskSlots im.slotMask).all (fun i => s.ownsSlot p n i.val) && decide (im.minSlots ≤ e.slots) &&
    decide (im.minBanks * 0x20000 ≤ share) && decide (im.mirror ≤ e.mirror * 4096) &&
    (!im.matq || s.ownsMatQueue p n 0 || s.ownsMatQueue p n 1) && (decide (im.bench < 2) || e.benchOk) &&
    im.sections.all (fun x => x.kind != 1 || decide (x.addr + x.memSize ≤ (s.slice n (some p)).2)) &&
    im.classes.all (fun r => s.ownsClass p n (classNumber r).toNat && (classOfRecord (classBits r)).inShare share) &&
    (!j.recov || im.sections.all (fun x => x.kind != 2 || decide (x.addr + x.memSize + 0x80 + j.logBytes ≤ share))) &&
    (!j.recov || im.rangesFit share)

/-- The cores of a region of a shape at an origin. -/
def State.regionCores (s : State) (r c rows cols : Nat) : List Nat :=
  (List.range (rows * cols)).map (fun k => (r + k / cols) * s.gridCols + (c + k % cols))

/-- Whether the region at an origin fits (R419). -/
def State.regionFits (s : State) (j : Job) (im : Image) (r c : Nat) : Bool :=
  decide (c + im.cols ≤ s.gridCols) && decide (r + im.rows ≤ 240) &&
    (s.regionCores r c im.rows im.cols).all (s.fitsCore j im)

/-- The origins where a job's region fits, lowest row first, then lowest column (R45, R419). -/
def State.origins (s : State) (j : Job) (im : Image) : List (Nat × Nat) :=
  let all := if im.reloc then (List.range 240).flatMap (fun r => (List.range s.gridCols).map (fun c => (r, c)))
             else [(im.row0, im.col0)]
  all.filter (fun o => s.regionFits j im o.1 o.2)

/-- Whether a job's wait began before another's; the job read first on a tie. Of two waiting jobs with overlapping target
regions, the one whose wait began first gets a slot that frees (R46; DESIGN CHOICE, log 50: the rule does not say which). -/
def waitsBefore (a b : Nat × Job) : Bool :=
  match a.2.phase, b.2.phase with
  | .waiting (some x), .waiting (some y) => decide (x < y) || (x == y && decide (a.1 < b.1))
  | _, _ => false

/-- Whether a slot is reserved for a job other than `j`: no other job may claim it (R46). -/
def State.reservedAgainst (s : State) (j : Nat) (n i : Nat) : Bool :=
  s.jobs.any (fun e => e.1 != j && e.2.reserved.contains (n, i))

/-- Whether the job's slots of every core of a region are free for it (R45, R46, R48). -/
def State.regionFree (s : State) (j : Nat) (im : Image) (o : Nat × Nat) : Bool :=
  (s.regionCores o.1 o.2 im.rows im.cols).all (fun n =>
    !s.underRecovery n && (maskSlots im.slotMask).all (fun i =>
      (s.slot n i).job.isNone && !(s.core n).handsOver i && !s.reservedAgainst j n i.val))

/-- A job put into a list of jobs in the order in which their waits began. -/
def insertWaiting (e : Nat × Job) : List (Nat × Job) → List (Nat × Job)
  | [] => [e]
  | x :: rest => if waitsBefore e x then e :: x :: rest else x :: insertWaiting e rest

/-- The free slots of a waiting job's target region that no other job has reserved, and those it has reserved (R46). -/
def State.reservable (s : State) (j : Nat) (im : Image) (o : Nat × Nat) : List (Nat × Nat) :=
  (s.regionCores o.1 o.2 im.rows im.cols).flatMap (fun n =>
    ((maskSlots im.slotMask).filter (fun i =>
      (s.slot n i).job.isNone && !s.underRecovery n && !s.reservedAgainst j n i.val)).map (fun i => (n, i.val)))

/-- The dispatcher reserves the slots that have freed in the target regions of waiting jobs; reservations outside a region end
(R46). -/
def State.reserve (s : State) : State :=
  ((s.jobs.filter (fun e => e.2.target.isSome)).foldl (fun l e => insertWaiting e l) []).foldl (fun t e =>
    match e.2.target, t.jobImage e.2 with
    | some o, some im => t.modJob e.1 (fun x => { x with reserved := t.reservable e.1 im o })
    | _, _ => t) s

/-- The four memory-edge chiplets nearest to a chiplet, ties to the lower number (R15, R45). -/
def nearestFour (x y : Nat) : List Nat :=
  (List.range 32).filter (fun e =>
    let before := fun (f : Nat) => decide (edgeDistance x y f < edgeDistance x y e) ||
      (edgeDistance x y f == edgeDistance x y e && decide (f < e))
    decide (((List.range 32).filter before).length < 4))

/-- Bytes of the data-placement map whose home stack is near a candidate's centre core (R45). -/
def State.score (s : State) (j : Job) (im : Image) (ranges : List (Nat × Nat)) (o : Nat × Nat) : Nat :=
  let n := (o.1 + (im.rows - 1) / 2) * s.gridCols + (o.2 + (im.cols - 1) / 2)
  let near := nearestFour (s.chipX n) (s.chipY n)
  (ranges.map (fun q =>
    ((List.range ((q.1 + q.2 + 4095) / 4096 - q.1 / 4096)).map (fun k =>
      let page := q.1 / 4096 * 4096 + 4096 * k
      let bytes := min (q.1 + q.2) (page + 4096) - max q.1 page
      match s.walk (some j.part) page with
      | .error _ => 0
      | .ok e =>
        match (s.pageInfo (some j.part) page e).place with
        | .hbm st | .uncached st | .pinned st => if near.contains st then bytes else 0
        | _ => 0)).sum)).sum

/-- The origin of the highest score, the first on a tie (R45). -/
def State.bestOrigin (s : State) (j : Job) (im : Image) : List (Nat × Nat) → Option (Nat × Nat)
  | [] => none
  | o :: rest =>
    let ranges := match s.extension j.part j.record with
      | some x => x.2.2
      | none => []
    if ranges.isEmpty then some o
    else some (rest.foldl (fun b x => if s.score j im ranges b < s.score j im ranges x then x else b) o)

/-- Whether a job's context is resident: it stands in no save area (R46, R360). -/
def State.contextIn (s : State) (j : Job) : Bool :=
  (s.vf j.part).areas.all (fun e => e.1 / 2 ^ 16 != j.context.toNat)

/-- What the dispatcher can do with an eligible job now: nothing, complete it as a mismatch, or start it at an origin (R39,
R46). -/
inductive Placing where
  | stay
  | mismatch
  | start (r c : Nat)
  deriving DecidableEq, Repr

/-- The dispatcher's decision about a job (R45, R46, R419). -/
def State.placing (s : State) (j : Nat) (job : Job) (im : Image) : Placing :=
  match s.origins job im with
  | [] => .mismatch
  | os =>
    let held := !(s.vf job.part).launches || decide (s.power.shedlvl ≤ job.prio.toNat) || !s.contextIn job
    let free := match job.target with
      | some t => if os.contains t then [t] else []
      | none => os
    if held then .stay
    else
      match s.bestOrigin job im (free.filter (s.regionFree j im)) with
      | some o => .start o.1 o.2
      | none => .stay

/-- Whether the dispatcher can act on a job now. -/
def State.actsOn (s : State) (j : Nat) (job : Job) : Bool :=
  match job.phase with
  | .waiting (some _) =>
    (match s.jobImage job with
     | some im => s.placing j job im != .stay
     | none => true)
  | _ => false

/-- The job that the dispatcher considers next: of those it can act on, the highest class, the one read first (R46). -/
def State.nextLaunch (s : State) : Option Nat :=
  ((s.jobs.filter (fun e => s.actsOn e.1 e.2)).foldl (fun b e =>
    match b with
    | none => some e
    | some x => if e.2.prio.toNat < x.2.prio.toNat then some e else some x) none).map Prod.fst

/-- Whether a job has waited 10 ms and has no target region that still fits (R46). -/
def State.wantsTarget (s : State) (job : Job) : Bool :=
  match job.phase with
  | .waiting (some t) =>
    decide (t + 10000000 ≤ s.ptime) && (match job.target, s.jobImage job with
      | some (r, c), some im => !s.regionFits job im r c
      | none, some _ => true
      | _, none => false)
  | _ => false

/-- A waiting job with another target region: its reservations outside that region end (R46). -/
def State.retarget (s : State) (j : Nat) (job : Job) (im : Image) : State :=
  let o := s.bestOrigin job im (s.origins job im)
  let inside := fun (x : Nat × Nat) => match o with
    | some (r, c) => (s.regionCores r c im.rows im.cols).contains x.1
    | none => false
  (s.modJob j (fun x => { x with target := o, reserved := x.reserved.filter inside })).reserve

/-- PLACEMENT_WAIT_EXPIRY: a job that has waited 10 ms, or whose target no longer fits, gets a target region, and the slots
free in it are reserved (R46). -/
def execPlacementWaitExpiry (s : State) : Host.Outcome State Fault Refusal :=
  match s.arg with
  | .job j =>
    match s.job? j with
    | some job =>
      match s.jobImage job with
      | some im =>
        .next (if s.wantsTarget job then s.retarget j job im else s)
      | none => .next s
    | none => .next s
  | _ => .next s

/-! ### Groups of a job (R38, R208 to R210) -/

/-- A tree over members: the root and each other member's parent among those before it, less than 15 levels down; which one
is free (R208; log 21). -/
def drawTree (seq t : Nat) (members : List Nat) : Tree :=
  let k := Config.treeParent seq t members.length % max 1 members.length
  let root := members.getD k 0
  let rest := members.eraseIdx k
  let built := rest.foldl (fun (acc : List (Nat × Nat × Nat)) m =>
      let open_ := acc.filter (fun x => decide (x.2.2 < 15))
      let par := open_.getD (Config.treeParent seq t m % max 1 open_.length) (root, root, 0)
      acc ++ [(m, par.1, par.2.2 + 1)]) [(root, root, 0)]
  { root := root, weight := Config.treeWeight seq t % 16, depth := built.foldl (fun d x => max d x.2.2) 0,
    parent := (built.drop 1).map (fun x => (x.1, x.2.1)) }

/-- The mesh links that a tree uses: those of the routes between members and their parents. -/
def State.treeLinks (s : State) (t : Tree) : List (Nat × Nat) := t.parent.flatMap (fun e => s.linksBetween e.1 e.2)

/-- The trees of an entry: the first is present, each other one where its weight is not zero and it uses no mesh link of those
before it (R38, R208). -/
def State.drawTrees (s : State) (seq : Nat) (members : List Nat) : List Tree :=
  let t0 := drawTree seq 0 members
  let add := fun (acc : List Tree × List (Nat × Nat)) (k : Nat) =>
    let t := drawTree seq (k + 1) members
    let ls := s.treeLinks t
    if t.weight = 0 ∨ ls.any acc.2.contains then acc else (acc.1 ++ [t], acc.2 ++ ls)
  ((List.range 3).foldl add ([{ t0 with weight := max 1 t0.weight }], s.treeLinks t0)).1

/-- Free entries of a partition's group table, lowest first (R208). -/
def State.freeGroups (s : State) (p : BitVec 6) : List Nat :=
  (List.range 256).filter (fun i => (s.group p i).isNone)

/-- The groups of a launch with their ports: the round group and the image's (R38, R209). -/
def State.launchGroups (s : State) (j : Nat) (job : Job) (im : Image) : List (Nat × Group) :=
  let recs := { port := 0, row := 0, col := 0, rows := job.rows, cols := job.cols : GroupRec } :: im.groups
  (recs.zip (s.freeGroups job.part)).map (fun e =>
    let g := e.1
    let ms := s.regionCores (job.row0 + g.row) (job.col0 + g.col) g.rows g.cols
    (g.port, { part := job.part, index := BitVec.ofNat 8 e.2, job := j, seq := job.seq, members := ms,
               trees := s.drawTrees job.seq ms }))

/-! ### The launch (R39 to R43) -/

/-- Bytes written at offsets of a partition's share on a core, line by line, with what follows a write of an engine (R39,
R200). -/
def State.writeShare (s : State) (n : Nat) (p : BitVec 6) (o : Nat) (bs : List Byte) : State :=
  (linePieces o bs.length).foldl (fun t q =>
    (t.put (t.sharePhys n (some p) q.1) ((bs.drop (q.1 - o)).take q.2)).1) s

/-- The bytes of a section: those of the file, then zero (R39). -/
def Image.content (im : Image) (x : Section) : List Byte :=
  ((im.bytes.drop x.fileOff).take (min x.fileSize x.memSize)) ++ List.replicate (x.memSize - x.fileSize) 0

/-- The image's code on a core, with fresh check bits as ISTW writes them (R39, R159, R348). -/
def State.writeCode (s : State) (n : Nat) (p : BitVec 6) (im : Image) : State :=
  (im.sections.filter (fun x => x.kind == 1)).foldl (fun t x =>
    let a := istoreAddr n ((t.slice n (some p)).1 + x.addr)
    let units := granulesOf a (im.content x).length
    { t with mem := Memory.setBytes t.mem a (im.content x), bad := t.bad.filter (fun u => !units.contains u) }) s

/-- The image's local-store sections on a core (R39). -/
def State.writeData (s : State) (n : Nat) (p : BitVec 6) (im : Image) : State :=
  (im.sections.filter (fun x => x.kind == 2)).foldl (fun t x => t.writeShare n p x.addr (im.content x)) s

/-- The low half of the shape record (R43). -/
def shapeLow (j : Job) (serial reloc : Bool) (start : Nat) (ports : Vector (Option (BitVec 8)) 4) : Nat :=
  let gp := fun (k : Fin 4) => match ports.get k with
    | some g => 2 ^ 15 + g.toNat
    | none => 0
  1 + natOfBool j.recov * 2 ^ 16 + natOfBool serial * 2 ^ 17 + natOfBool reloc * 2 ^ 18 + natOfBool j.recording * 2 ^ 19 +
    natOfBool j.replay * 2 ^ 20 + j.prio.toNat * 2 ^ 32 + j.part.toNat * 2 ^ 40 + j.context.toNat * 2 ^ 48 +
    j.seq % 2 ^ 64 * 2 ^ 64 + j.queue * 2 ^ 128 + j.slotMask.toNat * 2 ^ 144 + j.row0 * 2 ^ 160 + j.col0 * 2 ^ 176 +
    j.rows * 2 ^ 192 + j.cols * 2 ^ 208 + j.rows * j.cols * 2 ^ 224 + gp 0 * 2 ^ 256 + gp 1 * 2 ^ 272 + gp 2 * 2 ^ 288 +
    gp 3 * 2 ^ 304 + start % 2 ^ 64 * 2 ^ 320 + fieldOf j.record 511 448 * 2 ^ 384

/-- The shape record written on a core (R42, R43). -/
def State.writeShape (s : State) (n : Nat) (j : Job) (im : Image) (ports : Vector (Option (BitVec 8)) 4) (start : Nat) :
    State :=
  s.writeShare n j.part (s.shareSize n (some j.part) - 0x80)
    (bytesOf 64 (shapeLow j (s.wq j.queue).serial im.reloc start ports) ++ im.shape.drop 64)

/-- The state of a slot at its start (R41); SEED's xor takes the rank and the slot index. -/
def State.startState (s : State) (n : Nat) (i : SlotNo) (j : Nat) (job : Job) (im : Image) : Slot :=
  let rank := s.rankOf job n
  let idx := slotIndex job.slotMask i
  let vec := fun (x : Nat) => if x = 0xFFFFFFFF then (0 : BitVec 17) else BitVec.ofNat 17 x ||| 1
  let g := ((Vector.replicate 32 (0 : Dword)).set 3 (BitVec.ofNat 64 (s.shareSize n (some job.part) - 0x80))).set 4
    (BitVec.ofNat 64 rank)
  { Slot.reset with
    g := g.set 5 (BitVec.ofNat 64 idx), pc := BitVec.ofNat 64 (im.entries.getD i.val 0), job := some j,
    fp := { Slot.reset.fp with seed := BitVec.ofNat 64 (fieldOf job.record 383 320) ^^^ BitVec.ofNat 64 (rank * 16 ||| idx) },
    st := { Slot.reset.st with partition := job.part, slotNo := BitVec.ofNat 4 i.val,
                               mode := if job.super then .supervisor else .user },
    vec := { Slot.reset.vec with tvec := vec (im.entries.getD 16 0xFFFFFFFF), upvec := vec (im.entries.getD 17 0xFFFFFFFF) } }

/-- The mirror of a core of a recoverable job at launch: the image's ranges, every line to be streamed (R367). -/
def State.launchMirror (s : State) (n j : Nat) (im : Image) : Mirror :=
  let rs := im.mirrorRanges
  { job := j, allow := (s.capOf n).mirror * 4096, ranges := rs, dirty := rangeLines rs, prev := rangeLines rs, log := [],
    nrec := 0, lcause := 0, reexec := false, unprot := false, noSpace := false, streamed := false }

/-- The class records of an image written on a core, as CLSW would (R39, R224). -/
def State.launchClasses (s : State) (n : Nat) (im : Image) : State :=
  im.classes.foldl (fun t r =>
    let k := classNumber r
    let held := (t.core n).held.filter (fun h => h.msg.cls == k)
    (t.modCls n k (fun _ => { classOfRecord (classBits r) with drops := BitVec.ofNat 20 held.length })).modCore n
      (fun c => { c with held := c.held.filter (fun h => h.msg.cls != k) })) s

/-- Whether a slot of a core belongs to another job of a partition. -/
def State.otherJobOn (s : State) (n j : Nat) (p : BitVec 6) : Bool :=
  (s.core n).slots.toList.any (fun sl => match sl.job with
    | some k => k != j && ((s.job? k).map Job.part == some p)
    | none => false)

/-- Step 8 of a launch on a core: class records, counters, barriers, terms, ports and mirrored ranges (R39). Messages of an earlier
job of the partition that never were deposited are no longer waited for (R370). -/
def State.launchCore (s : State) (n j : Nat) (job : Job) (im : Image) (ports : Vector (Option (BitVec 8)) 4) : State :=
  let own := fun (k : Nat) => job.slotMask.getLsbD (k / 2)
  let shared := s.otherJobOn n j job.part
  (s.launchClasses n im).modCore n (fun c =>
    { c with
      c := Vector.ofFn (fun k => if own k.val then 0 else c.c.get k),
      bars := Vector.ofFn (fun k => if own k.val then none else c.bars.get k),
      terms := Vector.ofFn (fun k => if job.slotMask.getLsbD k.val then Term.reset else c.terms.get k),
      ports := c.ports ++ [{ job := j, port := ports, arrived := Vector.replicate 4 0, completed := Vector.replicate 4 0,
                             rbar := false, collUses := Vector.replicate 4 0 }],
      mirrors := if job.recov then c.mirrors ++ [s.launchMirror n j im] else c.mirrors,
      undeposited := if shared then c.undeposited else c.undeposited.filter (fun x => x.1 != job.part) })

/-- The ports of a core among a launch's groups (R210). -/
def portsAt (gs : List (Nat × Group)) (n : Nat) : Vector (Option (BitVec 8)) 4 :=
  Vector.ofFn (fun k => (gs.find? (fun g => g.1 == k.val && g.2.members.contains n)).map (fun g => g.2.index))

/-- Steps 5 to 8 of a launch, and the state of R41, on one core. -/
def State.loadRank (s : State) (j : Nat) (job : Job) (im : Image) (gs : List (Nat × Group)) (start n : Nat) : State :=
  let ports := portsAt gs n
  let s1 := (((s.writeCode n job.part im).writeData n job.part im).writeShape n job im ports start).launchCore n j job im ports
  (maskSlots job.slotMask).foldl (fun t i => t.setSlot n i (t.startState n i j job im)) s1

/-- The SLOTGO messages of a launch to one core (R39). -/
def State.sendStarts (s : State) (j : Nat) (job : Job) (im : Image) (n : Nat) : State :=
  let eng := 0xF200 + (s.rootOf job.part).getD 0
  (maskSlots job.slotMask).foldl (fun t i =>
    t.send (some (true, eng, n)) .slotgoArrival (.slotMsg
      { core := eng, slot := 0, part := job.part, target := n, tslot := i, job := j,
        offset := BitVec.ofNat 64 (im.entries.getD i.val 0), launch := true })) s

/-- A job placed, its slots claimed and its cores written; a group table too full or a mirror use over the allowance ends it
before (R39, R40, R208, R385). -/
def State.startJob (s : State) (j : Nat) (job0 : Job) (im : Image) (r c : Nat) : State :=
  let ext := (s.extension job0.part job0.record).getD (0, 0, [])
  let job := { job0 with slotMask := im.slotMask, row0 := r, col0 := c, rows := im.rows, cols := im.cols,
                         phase := .loading, target := none, reserved := [], start := s.ptime, traceBase := ext.1,
                         traceLen := ext.2.1 }
  let s0 := s.modJob j (fun _ => job)
  if (s.freeGroups job.part).length < im.groups.length + 1 then s0.finishJob j 2 0
  else
    let gs := s0.launchGroups j job im
    let cores := s0.jobCores job
    let old := fun (k : Copy) => match s.job? k.job with
      | some x => x.part == job.part && x.phase == .done
      | none => true
    let s1 := { s0 with groups := s0.groups ++ gs.map Prod.snd, copies := s0.copies.filter (fun k => !old k) }
    let s2 := cores.foldl (fun t n => t.loadRank j job im gs s.ptime n) s1
    let exceeds := job.recov && cores.any (fun n =>
      match s2.mirrorOf n j with
      | some m => decide (m.allow < s2.mirrorUse n job m.ranges)
      | none => false)
    if exceeds then s2.finishJob j 6 0x75 else s2

/-- The panel time at which the first SLOTGO is sent, written into the shape record of every core of the job (R43). -/
def State.writeStart (s : State) (job : Job) : State :=
  (s.jobCores job).foldl (fun t n =>
    t.writeShare n job.part (t.shareSize n (some job.part) - 0x80 + 40) (bytesOf 8 (s.ptime % 2 ^ 64))) s

/-- Once every write of a job's load is acknowledged, its SLOTGO messages are sent. Where a core of its region is under recovery, or
a layout commit has taken slice, slots or banks from it meanwhile, so that a write was refused, no slot starts and the job
completes with LAUNCH_FAILED (R39, R40, R443). While its class is shed, or its context is not resident, it is not started
(R46). -/
def State.startLoaded (s : State) (j : Nat) (job : Job) : State :=
  match s.jobImage job with
  | none => s.finishJob j 4 0
  | some im =>
    let cores := s.jobCores job
    if cores.any s.underRecovery || !cores.all (s.fitsCore job im) then s.finishJob j 4 0
    else if decide (s.power.shedlvl ≤ job.prio.toNat) || !s.contextIn job then s
    else cores.foldl (fun t n => t.sendStarts j job im n)
      ((s.modJob j (fun x => { x with phase := .running, start := s.ptime })).writeStart job)

/-- JOB_LAUNCH: a job that is loaded starts; otherwise the dispatcher acts on the next job: a mismatch or an unreadable image
completes it, else it is loaded (R39, R46, R419). -/
def execJobLaunch (s : State) : Host.Outcome State Fault Refusal :=
  match s.arg with
  | .job j =>
    match (s.job? j).filter (fun x => x.phase == .loading) with
    | some job => .next (s.startLoaded j job)
    | none =>
    let s := s.reserve
    if s.nextLaunch ≠ some j then .next s
    else
      match s.job? j with
      | none => .next s
      | some job =>
        match s.jobImage job with
        | none => .next (s.finishJob j 3 0)
        | some im =>
          match s.placing j job im with
          | .stay => .next s
          | .mismatch => .next (s.finishJob j 1 0)
          | .start r c => .next (s.startJob j job im r c)
  | _ => .next s

/-- The launch engines' moves: reads of records, the next launch, waits that have expired, completions. -/
def State.launchMoves (s : State) : List Event :=
  ((s.readsOf 0 ++ s.readsOf 1).map (fun q =>
    { kind := .launchRecordRead, arg := .workQueue (BitVec.ofNat 13 q) : Event })) ++
  (match s.reserve.nextLaunch with
   | some j => [{ kind := .jobLaunch, arg := .job j }]
   | none => []) ++
  (s.jobs.flatMap (fun e =>
    match e.2.phase with
    | .waiting _ => if s.wantsTarget e.2 then [{ kind := .placementWaitExpiry, arg := .job e.1 }] else []
    | .loading => [{ kind := .jobLaunch, arg := .job e.1 }]
    | .running =>
      (if s.allHalted e.1 e.2 then [{ kind := .jobComplete, arg := .job e.1 }] else []) ++
      (if e.2.shed && !e.2.parked && (s.commitUse e.1).isNone &&
          decide (e.2.shedAt + s.power.sheddl.toNat * 1000 ≤ s.ptime) then
        [{ kind := .shedDeadlineExpiry, arg := .job e.1 }] else [])
    | .ending _ _ => if s.allStopped e.1 then [{ kind := .jobComplete, arg := .job e.1 }] else []
    | .done => []))

end Sys2Proof.Machine
end

