-- ==== Sys2Proof/Machine/HostLink.lean ====
section
/-!
DEFINITION. What the host does to the panel: function states and resets (R432 to R435), queue registers (R436 to R438),
completion notices (R447), the frame table (R449), measurements (R451 to R453), snapshots (R455), host requests and AtomicOps
(R138, R195), and writes to register maps (R6).
-/
namespace Sys2Proof.Machine

/-! ### Interface states (R432 to R435) -/

/-- The jobs of a partition that are not done. -/
def State.liveJobs (s : State) (p : BitVec 6) : List Nat :=
  (s.jobs.filter (fun e => e.2.part == p && e.2.phase != .done)).map Prod.fst

/-- Whether a partition has a job resident: launched and not done (R432). -/
def State.jobResident (s : State) (p : BitVec 6) : Bool :=
  s.jobs.any (fun e => e.2.part == p && (match e.2.phase with
    | .running | .loading | .ending _ _ => true
    | _ => false))

/-- A violation: the interface enters ERROR, and every job of the partition is stopped and completes with TDISP_ERROR
(R434). -/
def State.violate (s : State) (p : BitVec 6) : State :=
  (s.liveJobs p).foldl (fun t j => t.endJob j 8 0) (s.modVf p (fun v => { v with tdisp := .error }))

/-- LOCK_INTERFACE (R433). -/
def execLockInterface (s : State) : Host.Outcome State Fault Refusal :=
  match s.arg with
  | .vf p => .next (if (s.vf p).tdisp = .unlocked then s.modVf p (fun v => { v with tdisp := .locked }) else s)
  | _ => .next s

/-- START_INTERFACE (R433). -/
def execStartInterface (s : State) : Host.Outcome State Fault Refusal :=
  match s.arg with
  | .vf p => .next (if (s.vf p).tdisp = .locked then s.modVf p (fun v => { v with tdisp := .run }) else s)
  | _ => .next s

/-- TDISP_VIOLATION: a violation in RUN, or a write to the configuration space in CONFIG_LOCKED (R433, R434). -/
def execTdispViolation (s : State) : Host.Outcome State Fault Refusal :=
  match s.arg with
  | .vf p => .next (if (s.vf p).tdisp = .run ∨ (s.vf p).tdisp = .locked then s.violate p else s)
  | _ => .next s

/-- Whether a physical address lies in a bank of a partition's share (R132). -/
def State.inPartShare (s : State) (p : BitVec 6) (a : Nat) : Bool :=
  isLocal a && (s.shareBanks (localCore a) (some p)).contains ((a - localBase) % 2 ^ 21 / 2 ^ 17)

/-- A partition's banks scrubbed on every core: zero, empty, scope zero, no error left (R153, R435). -/
def State.scrubBanks (s : State) (p : BitVec 6) : State :=
  { s with mem := s.mem.filter (fun c => !s.inPartShare p c.1),
           full := s.full.filter (fun w => !s.inPartShare p w.1),
           scopes := s.scopes.filter (fun w => !s.inPartShare p w.1),
           bad := s.bad.filter (fun a => !s.inPartShare p a),
           soft := s.soft.filter (fun a => !s.inPartShare p a) }

/-- A core with everything of a partition scrubbed: slots, engines, tiles, classes, channels and registers (R153, R362). -/
def State.scrubCore (s : State) (n : Nat) (p : BitVec 6) : Core :=
  let c := s.core n
  let slots := s.partSlots p n
  let mine := fun (i : Nat) => slots.contains i
  let owner := fun (i : SlotNo) => mine i.val
  { c with
    slots := Vector.ofFn (fun i => if owner i then Slot.reset else c.slots.get i),
    buffer := c.buffer.filter (fun x => !owner x.slot),
    waits := c.waits.filter (fun w => !(w.own && owner w.slot)),
    plb := c.plb.filter (fun e => e.part != some p),
    names := c.names.filter (fun e => e.1 != p),
    c := Vector.ofFn (fun k => if mine (k.val / 2) then 0 else c.c.get k),
    bars := Vector.ofFn (fun k => if mine (k.val / 2) then none else c.bars.get k),
    terms := Vector.ofFn (fun k => if mine k.val then Term.reset else c.terms.get k),
    q := Vector.ofFn (fun k => if mine (2 * k.val) && mine (2 * k.val + 1) then QueueReg.reset else c.q.get k),
    classes := Vector.ofFn (fun k =>
      if k.val < 29 ∧ s.inRegion p n ∧ s.ownsClass p n k.val then ClassEntry.reset else c.classes.get k),
    channels := c.channels.map (fun ch => if ch.part = p then Channel.reset else ch),
    held := c.held.filter (fun h => h.msg.part != p),
    refusing := c.refusing.filter (fun r => r.1 != p),
    sent := c.sent.filter (fun m => m.part != p),
    retained := c.retained.filter (fun r => r.2.part != p),
    mq := Vector.ofFn (fun k => if s.ownsMatQueue p n (BitVec.ofNat 1 k.val) then MatQueue.reset else c.mq.get k),
    tiles := Vector.ofFn (fun k => if s.ownsTile p n k.val then 0 else c.tiles.get k),
    badTiles := c.badTiles.filter (fun t => !s.ownsTile p n t),
    copies := c.copies.filter (fun x => x.part != p),
    colls := c.colls.filter (fun x => !owner x.slot),
    wl := match s.partEntry p with
      | some e => if e.workList && s.inRegion p n then WorkList.reset else c.wl
      | none => c.wl,
    rows := eraseNat p.toNat c.rows }

/-- The frame groups of HBM that a partition owns (R449). -/
def State.ownGroups (s : State) (p : BitVec 6) : List Nat :=
  (s.frames.filter (fun e => e.2.getLsbD 6 && fieldOf e.2 5 0 == p.toNat && !e.2.getLsbD 63)).map Prod.fst

/-- Bytes of a 2 MiB frame group set, with good check bits (R159, R449). -/
def State.fillGroup (s : State) (g : Nat) (f : Nat → Byte) : State :=
  let base := hbmAddr (g / 32768) (g % 32768 * 512) 0
  let other := fun (a : Nat) => decide (a < base) || decide (base + 0x200000 ≤ a)
  { s with mem := (List.range 0x200000).foldl (fun m k => Memory.set m (base + k) (f (base + k))) s.mem,
           bad := s.bad.filter other, soft := s.soft.filter other }

/-- A partition under a new key: what its frames held reads as unintelligible data, free bytes (R435, R450; log 15). -/
def State.rekey (s : State) (p : BitVec 6) : State :=
  ((s.ownGroups p).foldl (fun t g => t.fillGroup g (fun a => Config.freeByte (s.tick * 2 ^ 64 + a))) s).modVf p
    (fun v => { v with key := v.key + 1 })

/-- A work queue after a reset of its function: disabled, its counters zero (R435). -/
def WorkQueue.stopped (w : WorkQueue) : WorkQueue :=
  { w with enabled := false, submit := 0, consumed := 0, completed := 0, cpos := 0, chead := 0, doneSeqs := [] }

/-- What answers a request of one of the slots `p` tells, or goes to it, leaves no trace once the slot has been reset. -/
def answersSlot (e : Event) (p : Nat → SlotNo → Bool) : Bool :=
  match e.arg with
  | .reply r => p r.core r.slot
  | .ack c i _ => p c i
  | .slot c i => p c i
  | _ => false

/-- Whether a waiting step is a full/empty read of such a slot, which is withdrawn with it (R156). -/
def withdrawnFor (e : Event) (p : Nat → SlotNo → Bool) : Bool :=
  let read := fun (r : RemoteReq) => p r.core r.slot && (match r.op with
    | .feRead _ _ => true
    | _ => false)
  match e.arg with
  | .remote r => read r
  | .remoteAt r _ => read r
  | _ => false

/-- The requests of such a slot on their way, with no one to answer (R376, R428). -/
def orphanFor (e : Event) (p : Nat → SlotNo → Bool) : Event :=
  match e.arg with
  | .remote r => if p r.core r.slot then { e with arg := .remote { r with core := nobody } } else e
  | .red r => if p r.core r.slot then { e with arg := .red { r with core := nobody } } else e
  | .slotMsg m => if p m.core m.slot then { e with arg := .slotMsg { m with core := nobody } } else e
  | .code m => if p m.core m.slot then { e with arg := .code { m with core := nobody } } else e
  | _ => e

/-- Nothing on its way answers the slots `p` tells any more. -/
def State.orphanSlots (s : State) (p : Nat → SlotNo → Bool) : State :=
  { s with due := (s.due.filter (fun d => !answersSlot d.ev p && !withdrawnFor d.ev p)).map
             (fun d => { d with ev := orphanFor d.ev p }),
           cores := s.cores.map (fun e =>
             (e.1, { e.2 with waits := e.2.waits.filter (fun w => w.own || !p w.core w.slot) })) }

/-- A partition reset: handovers stopped, jobs ended with RESET, queues disabled, banks and cores scrubbed, save areas
forgotten, the fault queue cleared, a new key, CONFIG_UNLOCKED (R362, R433, R435). -/
def State.resetPartition (s : State) (p : BitVec 6) : State :=
  let s1 := (s.cores.map Prod.fst).foldl (fun t n => t.stopHandover n p 3 none) s
  let s2 := (s1.liveJobs p).foldl (fun t j => t.modJob j (fun x => { x with phase := .ending 9 0, parked := false })) s1
  let qs : List (Nat × WorkQueue) := s2.queues.map (fun e => (e.1, if e.2.part = p then e.2.stopped else e.2))
  let s3 : State := { s2 with queues := qs, contexts := s2.contexts.filter (fun x => x.part != p) }
  let s4 := (s3.scrubBanks p).orphanSlots (fun n i => (s3.partSlots p n).contains i.val)
  let cs : List (Nat × Core) := s4.cores.map (fun e => (e.1, s4.scrubCore e.1 p))
  let s5 : State := { s4 with cores := cs }
  (s5.rekey p).modVf p (fun v =>
    { v with tdisp := .unlocked, areas := [], fqbase := 0, fqcfg := 0, fqpos := 0, fqhead := 0, spill := [],
             spillLost := false, waiting := [] })

/-- FUNCTION_LEVEL_RESET (R362, R432, R435). -/
def execFunctionLevelReset (s : State) : Host.Outcome State Fault Refusal :=
  match s.arg with
  | .vf p => .next (if s.linked p then s.resetPartition p else s)
  | _ => .next s

/-- STOP_INTERFACE resets the partition as a function-level reset does (R432, R433). -/
def execStopInterface (s : State) : Host.Outcome State Fault Refusal :=
  match s.arg with
  | .vf p => .next (if s.linked p then s.resetPartition p else s)
  | _ => .next s

/-- PARTLINK: a write that would overlap the other mask, or change the bit of a partition with a job resident, is ignored and
logged; a change of the bit of a partition whose interface runs is a violation (R432, R434). -/
def execPartlink (s : State) : Host.Outcome State Fault Refusal :=
  match s.arg with
  | .rootVal root v =>
    let k : Fin 2 := Fin.ofNat 2 root.toNat
    let other := s.partlink.get (Fin.ofNat 2 (1 - root.toNat))
    let changed := ((List.range 64).map (BitVec.ofNat 6)).filter (fun p => ((s.partlink.get k) ^^^ v).getLsbD p.toNat)
    let running := changed.filter (fun p => (s.vf p).tdisp == .run)
    if v &&& other ≠ 0 ∨ changed.any s.jobResident then .next (s.log 0 0 root.toNat v)
    else if running ≠ [] then .next (running.foldl (fun t p => t.violate p) s)
    else .next { s with partlink := s.partlink.set k v }
  | _ => .next s

/-! ### Queue registers (R436 to R439) -/

/-- QUEUE_OWNERSHIP_WRITE: ignored and logged while the queue is enabled; a change for an interface that runs is a violation
(R434, R436). -/
def execQueueOwnershipWrite (s : State) : Host.Outcome State Fault Refusal :=
  match s.arg with
  | .workQueueVal q v =>
    let w := s.wq q.toNat
    let w1 := { w with part := bitsOf v.toNat 0 6, serial := v.getLsbD 13, super := v.getLsbD 14, en := v.getLsbD 15 }
    let running := ((if w.en then [w.part] else []) ++ (if w1.en then [w1.part] else [])).filter
      (fun p => (s.vf p).tdisp == .run)
    if w.enabled then .next (s.log 0 0 0 (q.setWidth 64))
    else if w1 != w && running != [] then .next (running.eraseDups.foldl (fun t p => t.violate p) s)
    else .next (s.modWq q.toNat (fun _ => w1))
  | _ => .next s

/-- Whether the virtual function that serves a partition owns a queue (R432, R437). -/
def State.ownsWq (s : State) (p : BitVec 6) (q : Nat) : Bool := s.linked p && (s.wq q).en && (s.wq q).part == p

/-- Whether a queue's ring registers can be written (R437). -/
def WorkQueue.idle (w : WorkQueue) : Bool := !w.enabled && w.completed == w.consumed

/-- A write of SUBMIT: accepted between CONSUMED and CONSUMED + N; it clears ERR (R439, R441). -/
def WorkQueue.setSubmit (w : WorkQueue) (v : Dword) : WorkQueue :=
  if w.consumed.toNat ≤ v.toNat ∧ v.toNat ≤ w.consumed.toNat + w.size then { w with submit := v, err := 0 } else w

/-- SUBMIT (R439, R441). -/
def execSubmit (s : State) : Host.Outcome State Fault Refusal :=
  match s.arg with
  | .vfQueueVal p q v =>
    if s.ownsWq p q.toNat then .next (s.modWq q.toNat (fun w => w.setSubmit v)) else .next s
  | _ => .next s

/-- A write of WQCFG; `may` tells whether the interface lets a queue be enabled (R433, R438). -/
def WorkQueue.setConfig (w : WorkQueue) (may : Bool) (v : Dword) : WorkQueue :=
  let sz : BitVec 4 := bitsOf v.toNat 1 4
  let w1 := { w with vector := bitsOf v.toNat 13 11, sizelog := if w.idle ∧ sz.toNat ≤ 11 then sz else w.sizelog }
  if v.getLsbD 0 then
    if w.enabled then w1
    else if may then
      { w1 with enabled := true, submit := 0, consumed := 0, completed := 0, cpos := 0, chead := 0, err := 0, doneSeqs := [] }
    else w1
  else { w1 with enabled := false }

/-- WQCFG (R438). -/
def execWqcfg (s : State) : Host.Outcome State Fault Refusal :=
  match s.arg with
  | .vfQueueVal p q v =>
    if s.ownsWq p q.toNat then .next (s.modWq q.toNat (fun w => w.setConfig (s.vf p).launches v)) else .next s
  | _ => .next s

/-! ### Notices and snapshots -/

/-- A write of NOTIFY: one completion notice, in the order of the writes (R447). -/
def State.notify (s : State) (p : BitVec 6) (v : Dword) : State :=
  let n := fieldOf v 63 48
  s.send (some (true, 0xF200 + (s.rootOf p).getD 0, n)) .completionNoticeArrival
    (.notice { part := p, context := bitsOf v.toNat 32 16, core := n, tag := bitsOf v.toNat 0 16,
               status := bitsOf v.toNat 16 8 })

/-- NOTIFY (R432, R447). -/
def execNotify (s : State) : Host.Outcome State Fault Refusal :=
  match s.arg with
  | .vfVal p v => .next (if s.linked p then s.notify p v else s)
  | _ => .next s

/-- Physical addresses of the present leaves below an entry of a partition's tables (R136, R137). -/
def State.leafCells (s : State) (p : BitVec 6) : Nat → Nat → List Nat
  | level, e =>
    if e / 2 ^ 63 % 2 = 0 ∨ e / 2 ^ 40 % 2 = 1 then []
    else
      match level with
      | 0 => []
      | l + 1 =>
        let stack := e / 2 ^ 24 % 32
        let frame := e % 2 ^ 24
        if 3 ≤ l ∨ s.frameAllowed (some p) stack frame true then
          (List.range 512).flatMap (fun i =>
            let a := s.framePhys stack frame (8 * i)
            let x := s.peek a 8
            if x / 2 ^ 63 % 2 = 1 ∧ x / 2 ^ 40 % 2 = 1 then [a] else s.leafCells p l x)
        else []

/-- A write of SNAPCTL: with bit 0 set, every present leaf of the partition with WR gets SNAP, its translations go, and the
snapshot is counted (R455). It waits while a save or restore of the partition writes its areas. -/
def State.snapshot (s : State) (p : BitVec 6) (v : Dword) : State :=
  if !v.getLsbD 0 then s
  else if s.cores.any (fun e => e.2.handovers.any (fun h => h.cmd.part == p)) then s.send none .snapctl (.vfVal p v)
  else
    let cells := ((s.rootEntries.flatMap (fun e => s.leafCells p 4 e)).eraseDups).filter
      (fun a => s.peek a 8 / 2 ^ 58 % 2 = 1)
    let s1 := cells.foldl (fun t a =>
      { t with mem := Memory.setBytes t.mem a (bytesOf 8 (t.peek a 8 ||| 2 ^ 62)) }) s
    let s2 := s1.dropTranslations (fun _ e => e.part == some p) (fun e => e.part == some p)
    s2.modVf p (fun x =>
      { x with snap := BitVec.ofNat 64 ((fieldOf x.snap 63 32 + 1) % 2 ^ 32 * 2 ^ 32 + 2) })

/-- SNAPCTL (R432, R455). -/
def execSnapctl (s : State) : Host.Outcome State Fault Refusal :=
  match s.arg with
  | .vfVal p v => .next (if s.linked p then s.snapshot p v else s)
  | _ => .next s

/-! ### Writes to register maps (R6) -/

/-- A dword written to a register of a queue block without a step of its own (R437). The low bits of a base address that its
alignment leaves no room for are dropped (DESIGN CHOICE, log 57: the spec says only that the addresses are aligned). -/
def WorkQueue.write (w : WorkQueue) (o : Nat) (v : Dword) : WorkQueue :=
  match o with
  | 0x00 => if w.idle then { w with wqbase := v &&& 0xFFFFFFFFFFFFFFC0 } else w
  | 0x10 => if w.idle then { w with wcbase := v &&& 0xFFFFFFFFFFFFFFF0 } else w
  | 0x18 => w.setSubmit v
  | 0x38 => { w with chead := v }
  | _ => w

/-- A dword written to a register of a virtual function's fault queue (R445); the low 5 bits of FQBASE are dropped (DESIGN CHOICE,
log 57). -/
def Vf.write (x : Vf) (o : Nat) (v : Dword) : Vf :=
  match o with
  | 0x10 => if x.fqcfg.getLsbD 0 then x else { x with fqbase := v &&& 0xFFFFFFFFFFFFFFE0 }
  | 0x18 => { x with fqcfg := if fieldOf v 4 1 ≤ 11 then v &&& 0xFFE01F else (v &&& 0xFFE001) ||| (x.fqcfg &&& 0x1E) }
  | 0x28 => { x with fqhead := v }
  | _ => x

/-- A dword written to BAR0 of a virtual function that serves a partition (R432, R437, R445). -/
def State.writeBar (s : State) (p : BitVec 6) (o : Nat) (v : Dword) : State :=
  if !s.linked p then s
  else if 0x80000 ≤ o then
    let q := (o - 0x80000) / 64
    let r := (o - 0x80000) % 64
    if !s.ownsWq p q then s
    else if r = 0x08 then s.modWq q (fun w => w.setConfig (s.vf p).launches v)
    else s.modWq q (fun w => w.write r v)
  else if o = 0x08 then s.notify p v
  else if o = 0x30 then s.snapshot p v
  else (s.modVf p (fun x => x.write o v)).drainEntries p

/-- What a host read of a register of a queue block gives (R437, R438). -/
def WorkQueue.dword (w : WorkQueue) (o : Nat) : Dword :=
  match o with
  | 0x00 => w.wqbase
  | 0x08 => BitVec.ofNat 64 (natOfBool w.enabled + 2 * w.sizelog.toNat + 2 ^ 11 * natOfBool w.super +
      2 ^ 12 * natOfBool w.serial + 2 ^ 13 * w.vector.toNat + 2 ^ 24 * w.err.toNat)
  | 0x10 => w.wcbase
  | 0x18 => w.submit
  | 0x20 => w.consumed
  | 0x28 => w.completed
  | 0x30 => w.cpos
  | 0x38 => w.chead
  | _ => 0

/-- The code of an interface state in VFSTAT (R445). -/
def Tdisp.code : Tdisp → Nat
  | .unlocked => 0
  | .locked => 1
  | .run => 2
  | .error => 3

/-- What a host read of a register of a virtual function gives; NOTIFY is write-only and reads zero, VFSTAT shows the number of
spilled entries in 12 bits (R6, R445, R455; log 50). -/
def Vf.dword (x : Vf) (o : Nat) : Dword :=
  match o with
  | 0x00 => BitVec.ofNat 64 (x.tdisp.code + 2 ^ 16 * (x.spill.length % 2 ^ 12) + 2 ^ 28 * natOfBool x.spillLost)
  | 0x10 => x.fqbase
  | 0x18 => x.fqcfg
  | 0x20 => x.fqpos
  | 0x28 => x.fqhead
  | 0x30 => x.snap
  | _ => 0

/-- What a host read of a dword of BAR0 of virtual function p gives; a block of a queue that it does not own reads zero (R6,
R437, R445). -/
def State.readBar (s : State) (p : BitVec 6) (o : Nat) : Dword :=
  if !s.linked p then 0
  else if 0x80000 ≤ o then
    let q := (o - 0x80000) / 64
    if s.ownsWq p q then (s.wq q).dword ((o - 0x80000) % 64) else 0
  else (s.vf p).dword o

/-- What a host read of an entry of a physical function's queue ownership table gives (R6, R436). -/
def State.readOwnership (s : State) (q : Nat) : Dword :=
  let w := s.wq q
  BitVec.ofNat 64 (w.part.toNat + 2 ^ 13 * natOfBool w.serial + 2 ^ 14 * natOfBool w.super + 2 ^ 15 * natOfBool w.en)

/-- REGISTER_WRITE: a store to the panel control space by a core, or, with a source of 0x10000 + p, a write of the host to
BAR0 of virtual function p at that offset, whose value is taken as the whole dword however narrow the write is (R6, R399, R437;
DESIGN CHOICE, log 57: the spec gives a width for NOTIFY only). -/
def execRegisterWrite (s : State) : Host.Outcome State Fault Refusal :=
  match s.arg with
  | .regWrite w =>
    if 0x10000 ≤ w.source then .next (s.writeBar (BitVec.ofNat 6 (w.source - 0x10000)) w.addr.toNat w.val)
    else .next (s.writeControl w.addr.toNat w.bytes w.val)
  | _ => .next s

/-! ### The frame table (R449) -/

/-- A table entry written by the security core in the panel's own table frames. -/
def State.putTable (s : State) (stack frame i : Nat) (e : Nat) : State :=
  { s with mem := Memory.setBytes s.mem (s.framePhys stack frame (8 * i)) (bytesOf 8 e) }

/-- A 512 GiB span assigned: its level-3 entry written, after the level-4 entry that names its table where there is none yet
(R136, R449). -/
def State.assignSpan (s : State) (span : Nat) (entry : Dword) (table : Nat × Nat) : State :=
  match s.root with
  | none => s
  | some r =>
    let va := span * 2 ^ 39
    let e := s.rootEntry va
    if e / 2 ^ 63 % 2 = 1 then s.putTable (e / 2 ^ 24 % 32) (e % 2 ^ 24) (span % 512) entry.toNat
    else (s.putTable r.1 r.2 (span / 512) (2 ^ 63 + table.1 % 32 * 2 ^ 24 + table.2 % 2 ^ 24)).putTable (table.1 % 32)
      (table.2 % 2 ^ 24) (span % 512) entry.toNat

/-- A domain put into a partition's domain set, or taken out of it (R449). -/
def State.setDomain (s : State) (x : Nat × Nat × Bool) : State :=
  s.modVf (BitVec.ofNat 6 x.1) (fun v =>
    let rest := v.domainSet.filter (fun d => d != x.2.1 % 4096)
    { v with domainSet := if x.2.2 then x.2.1 % 4096 :: rest else rest })

/-- A domain's rights for a partition written (R141). -/
def State.setRight (s : State) (x : Nat × Nat × BitVec 6) : State :=
  s.modVf (BitVec.ofNat 6 x.1) (fun v => { v with domains := insertNat (x.2.1 % 4096) x.2.2 v.domains })

/-- FRAME_TABLE_WRITE: the security core writes its tables, domain sets and domain rights too; a change of owner takes effect with the group written to zero and every translation that named it
gone; the panel's own tables assign level-3 spans (R449). -/
def execFrameTableWrite (s : State) : Host.Outcome State Fault Refusal :=
  match s.arg with
  | .frame f =>
    let old := s.groupEntry f.index
    let owner := fun (e : Dword) => e &&& 0x7F
    let s1 := if owner old ≠ owner f.entry then
        let base := hbmAddr (f.index / 32768) (f.index % 32768 * 512) 0
        let hit := fun (x : XlateEntry) => decide (x.phys < base + 0x200000) && decide (base < x.phys + x.size)
        let parts := s.xlate.flatMap (fun e => (e.2.filter hit).map (fun x => (x.part, x.base)))
        (s.fillGroup f.index (fun _ => 0)).dropTranslations
          (fun _ e => parts.any (fun q => q.1 == e.part && decide (e.base ≤ q.2) && decide (q.2 < e.base + e.size)) ||
            (match s.walk e.part e.base with
             | .ok x => groupOf (x / 2 ^ 24 % 32) (x % 2 ^ 24) == f.index && decide (x / 2 ^ 60 % 4 < 2)
             | .error _ => false))
          hit
      else s
    let s2 := { (f.rights.foldl State.setRight (f.domains.foldl State.setDomain s1)) with
                        frames := insertNat f.index (f.entry &&& 0xFFFFFFFFFFF000FF) s1.frames,
                        root := match f.root with
                          | some r => some r
                          | none => s1.root }
    .next (match f.span with
      | some x => s2.assignSpan x.1 x.2 f.table
      | none => s2)
  | _ => .next s

/-! ### Measurements (R451 to R453) -/

/-- A die's monotonic counter advanced before a signature (R451). -/
def State.countDie (s : State) (d : Nat) : State :=
  { s with dieCounters := insertNat d ((lookupNat d s.dieCounters).getD 0 + 1) s.dieCounters }

/-- The kind of a die by its index (R11, R429): compute chiplets, memory edges, link chiplets, roots (DESIGN CHOICE, log 16: the spec
gives the range of the index and not its order). -/
def dieKind (d : Nat) : DieKind :=
  if d < 400 then .compute else if d < 432 then .edge else if d < 448 then .link else .root

/-- The processors of a root chiplet whose images it runs. -/
def rootProcessors (k : Nat) : List Nat := (List.range 4).map (fun i => 0xF300 + 4 * k + i) ++ [0xF310 + k]

/-- The digests of the firmware images that a die runs (R452). -/
def State.imagesOn (s : State) (d : Nat) : List (BitVec 256) :=
  if d < 448 then []
  else (rootProcessors (d - 448)).filterMap (fun n => (lookupNat n s.firmware).map (fun f =>
    Config.digest ((f.code ++ f.data).flatMap (fun b => [b.1, b.2.toNat]))))

/-- A die's report (R452). -/
def State.report (s : State) (d : Nat) (nonce : BitVec 256) : Report :=
  { die := d, kind := dieKind d, firmware := s.imagesOn d,
    fuses := (s.fuses.filter (fun f => f.1 == d)).map Prod.snd,
    retired := Config.digest (s.retired.flatMap (fun r => [r.crc.toNat, r.time.toNat, r.seq.toNat, r.cause.toNat, r.kind.toNat,
      r.index.toNat, r.die.toNat, r.prow.toNat, r.pcol.toNat, r.commit.toNat])),
    seq := s.commit.seq, nonce := nonce }

/-- GET_MEASUREMENTS: the reports of two dies in one block, or all blocks; another index returns ERROR InvalidRequest, but for
those that SPDM defines, which 0 is (R452, R453). -/
def execGetMeasurements (s : State) : Host.Outcome State Fault Refusal :=
  match s.arg with
  | .measure root idx nonce =>
    let i := idx.toNat
    let blocks := if i = 0xFF then List.range 225 else if 1 ≤ i ∧ i ≤ 225 then [i - 1] else []
    let s1 := blocks.foldl (fun t b => (t.countDie (2 * b)).countDie (2 * b + 1)) s
    let answers := if 225 < i ∧ i < 0xFF then [Answer.invalidRequest root.toNat i]
      else blocks.map (fun b => Answer.block root.toNat (b + 1) [s.report (2 * b) nonce, s.report (2 * b + 1) nonce])
    .next { s1 with reports := s1.reports ++ answers }
  | _ => .next s

/-! ### Requests of the host (R138, R195, R432) -/

/-- HOST_MEMORY_REQUEST: a read changes nothing; a write is performed at its home in the share and tables of the function's
partition; one that no page serves, a write of a snapshot page, and one to a function that serves no partition are refused to the
host and logged (R138, R432, R455; log 57). -/
def execHostMemoryRequest (s : State) : Host.Outcome State Fault Refusal :=
  match s.arg with
  | .hostReq h =>
    let need := fun (i : PageInfo) => if h.write then i.wrS && !i.snap else i.rdS
    let pieces := linePieces h.va.toNat h.data.length
    if !s.linked h.vf then .next (s.log 0 0 h.vf.toNat h.va)
    else if pieces.any (fun q => (s.supPhys h.vf need q.1).isNone) then .next (s.log 0 0 h.vf.toNat h.va)
    else if !h.write then .next s
    else
      .next (pieces.foldl (fun t q =>
        match s.supPhys h.vf need q.1 with
        | some a => (t.put a ((h.data.drop (q.1 - h.va.toNat)).take q.2)).1
        | none => t) s)
  | _ => .next s

/-- HOST_ATOMICOP: FetchAdd, Swap or CAS of 32 or 64 bits on a page with SA is performed at the word's home; anything else is
refused to the host and logged (R195), a misaligned one too (DESIGN CHOICE, log 50: the rule's table does not name it). -/
def execHostAtomicop (s : State) : Host.Outcome State Fault Refusal :=
  match s.arg with
  | .hostAtomic h =>
    let need := fun (i : PageInfo) => s.linked h.vf && i.sa && i.rdS && i.wrS && !i.snap
    match s.supPhys h.vf need h.va.toNat with
    | none => .next (s.log 0 0 h.vf.toNat h.va)
    | some a =>
      if !hostOp h.op || !(h.bytes == 4 || h.bytes == 8) || h.va.toNat % h.bytes != 0 then
        .next (s.log 0 0 h.vf.toNat h.va)
      else .next (s.atomicAt a h.bytes h.op h.operand.toNat h.expected.toNat).1
  | _ => .next s

end Sys2Proof.Machine
end

