-- ==== Sys2Proof/Machine/Optical.lean ====
section
/-!
DEFINITION. The optical ports (R456, R457): frames received, replay, ports that go down and come up.
-/
namespace Sys2Proof.Machine

/-- A port changed. -/
def State.modPort (s : State) (k : Nat) (f : Port → Port) : State :=
  { s with portStates := insertNat k (f (s.port k)) s.portStates }

/-- Fields of a frame's header (R456). -/
def opticalSeq (f : BitVec 2048) : BitVec 16 := bitsOf f.toNat 48 16
/-- ACK of a frame. -/
def opticalAck (f : BitVec 2048) : BitVec 16 := bitsOf f.toNat 32 16
/-- TYPE of a frame. -/
def opticalType (f : BitVec 2048) : Nat := f.toNat / 2 ^ 24 % 2 ^ 8
/-- FILL of a frame. -/
def opticalFill (f : BitVec 2048) : Nat := f.toNat / 2 ^ 16 % 2 ^ 8

/-- Whether a frame's CRC is good (R456). -/
def opticalGood (f : BitVec 2048) : Bool := f.toNat / 2 ^ 2016 == crc32 (bytesOf 252 (f.toNat % 2 ^ 2016))

/-- Frames of a port that are sent and not acknowledged: those at the front of what it holds, 4,096 at most (R456). -/
def Port.inFlight (p : Port) : Nat := min 4096 p.window.length

/-- An acknowledgement: the frames before ACK leave the window, which is progress (R456). -/
def Port.acknowledge (p : Port) (ack : BitVec 16) (now : Nat) : Port :=
  let k := (ack - p.acked).toNat
  if k = 0 ∨ p.inFlight < k then p
  else
    { p with window := p.window.drop k, acked := ack, replays := 0, progressAt := now,
             riders := (p.riders.filter (fun r => decide (k < r.1))).map (fun r => (r.1 - k, r.2)) }

/-- Messages of a port's window whose last frame an acknowledgement covers (R221, R456). -/
def Port.accepted (p : Port) (ack : BitVec 16) : List Msg :=
  let k := (ack - p.acked).toNat
  if p.inFlight < k then [] else (p.riders.filter (fun r => decide (r.1 ≤ k))).map Prod.snd

/-- A port that is trained: sequence numbers begin at 0 on both sides (DESIGN CHOICE, log 26). -/
def Port.trained (p : Port) (up : Bool) (now : Nat) : Port :=
  { Port.reset with discards := p.discards, naks := p.naks, up := up, rising := !up, progressAt := now }

/-- One replay from ACK; after 64 in a row without progress the port goes down instead, which is logged (R456). -/
def State.replay (s : State) (k : Nat) : State :=
  let p := s.port k
  if 64 ≤ p.replays then ((s.modPort k Port.down).acceptAll (p.riders.map Prod.snd)).log 0 0 k 0
  else s.modPort k (fun p => { p with replays := p.replays + 1, progressAt := s.ptime })

/-- Ports that wait for the others' frames come up once every window is empty (R457). -/
def State.raisePorts (s : State) : State :=
  if s.portStates.any (fun e => e.2.rising) && s.portStates.all (fun e => !e.2.up || e.2.window.isEmpty) then
    { s with portStates := s.portStates.map (fun e =>
        (e.1, if e.2.rising then { e.2 with rising := false, up := true } else e.2)) }
  else s

/-- The message at the front of a port's flits, and the flits behind it (R214, R456). -/
def nextMessage (rx : List Byte) : Option (Msg × List Byte) :=
  if rx.length < 64 then none
  else
    let h : VReg := BitVec.ofNat 512 (ofBytes (rx.take 64))
    let len := fieldOf h 88 80
    let body := if len ≤ 32 then 0 else 64 * ((len + 63) / 64)
    if rx.length < 64 + body then none
    else
      let x := if len ≤ 32 then h.toNat / 2 ^ 256 else ofBytes ((rx.drop 64).take body)
      some (msgOfHeader h (BitVec.ofNat 2048 (x % 2 ^ (8 * len))), rx.drop (64 + body))

/-- A message from another panel: delivered where ALLOW admits its partition and its kind may travel, otherwise discarded
(R457). -/
def State.fromPort (s : State) (k : Nat) (m : Msg) : State :=
  let n := nameCore m.dest
  if s.portAllows k m.part && decide (m.kind.toNat ≤ 4) && s.ownPanel n m.dest then
    s.send (some (true, 0x50000 + namePanel m.source, n)) (arrivalKind m) (.msg m)
  else s.modPort k (fun p => { p with discards := p.discards + 1 })

/-- The whole messages at the front of a port's flits delivered; `fuel` bounds their number. -/
def State.takeMessages (s : State) (k : Nat) : Nat → State
  | 0 => s
  | fuel + 1 =>
    match nextMessage (s.port k).rx with
    | none => s
    | some (m, rest) => ((s.modPort k (fun p => { p with rx := rest })).fromPort k m).takeMessages k fuel

/-- One NAK frame sent for a frame that failed or a gap, until the expected frame comes (R456); it carries the next sequence number
(DESIGN CHOICE, log 26). -/
def Port.nak (p : Port) : Port :=
  if p.nakSent then p else { p with nakSent := true, naks := p.naks ++ [opticalFrame p.nextSeq p.expected 2 []] }

/-- A data frame: accepted in sequence, a gap answered with one NAK (R456). -/
def State.receiveData (s : State) (k : Nat) (f : BitVec 2048) : State :=
  let p := s.port k
  let d := (opticalSeq f - p.expected).toNat
  if d = 0 then
    let bytes := (bytesOf 240 (f.toNat / 2 ^ 64 % 2 ^ 1920)).take (opticalFill f)
    (s.modPort k (fun p => { p with expected := p.expected + 1, nakSent := false, rx := p.rx ++ bytes })).takeMessages k 8
  else if d < 2 ^ 15 then s.modPort k Port.nak
  else s

/-- OPTICAL_FRAME_RECEIVE (R456, R457). -/
def execOpticalFrameReceive (s : State) : Host.Outcome State Fault Refusal :=
  match s.arg with
  | .optical k f =>
    let p := s.port k
    if 48 ≤ k ∨ !(p.up || p.rising) then .next s
    else if !opticalGood f then .next (s.modPort k Port.nak)
    else if 3 < opticalType f ∨ 240 < opticalFill f then .next s
    else
      let s1 := (s.modPort k (fun p => p.acknowledge (opticalAck f) s.ptime)).acceptAll (p.accepted (opticalAck f))
      let s2 := match opticalType f with
        | 1 => s1.receiveData k f
        | 2 => if (s1.port k).window.isEmpty then s1 else s1.replay k
        | _ => s1
      .next s2.raisePorts
  | _ => .next s

/-- Nanoseconds without progress after which a sender replays (R456). -/
def replayTime : Nat := 4000

/-- Whether a port's replay timer has run out (R456). -/
def Port.replayDue (p : Port) (now : Nat) : Bool :=
  p.up && !p.window.isEmpty && decide (p.progressAt + replayTime ≤ now)

/-- OPTICAL_REPLAY_TIMEOUT (R456). -/
def execOpticalReplayTimeout (s : State) : Host.Outcome State Fault Refusal :=
  match s.arg with
  | .port k => .next (if (s.port k).replayDue s.ptime then (s.replay k).raisePorts else s)
  | _ => .next s

/-- OPTICAL_PORT_UP: a port that the layout has in use has come up; pairs move to it once the frames of the ports they used are acknowledged (R457). -/
def execOpticalPortUp (s : State) : Host.Outcome State Fault Refusal :=
  match s.arg with
  | .port k =>
    if !s.layout.ports.getLsbD k ∨ (s.port k).up then .next s
    else .next (s.modPort k (fun p => p.trained false s.ptime)).raisePorts
  | _ => .next s

/-- What the ports can do next. -/
def State.portMoves (s : State) : List Event :=
  (s.portStates.filter (fun e => e.2.replayDue s.ptime)).map (fun e => { kind := .opticalReplayTimeout, arg := .port e.1 })

end Sys2Proof.Machine
end

