-- ==== Sys2Proof/Machine/Panel.lean ====
section
/-!
DEFINITION. The panel's construction and its firmware: the retirement log (R429 to R431), the remap drawn from it (R413 to
R418), the layout and its commit (R422 to R425), the mailbox of a management core (R478, R479), its watchdog and its image
(R428, R454), loss of panel power and the scrubber (R158).
-/
namespace Sys2Proof.Machine

/-! ### The retirement log (R429 to R431) -/

/-- Bits 215:0 of a record (R429). -/
def RetireRec.body (r : RetireRec) : Nat :=
  r.pcol.toNat * 2 ^ 72 + r.prow.toNat * 2 ^ 76 + r.die.toNat * 2 ^ 80 + r.index.toNat * 2 ^ 96 + r.kind.toNat * 2 ^ 104 +
    r.cause.toNat * 2 ^ 112 + r.seq.toNat * 2 ^ 120 + r.time.toNat * 2 ^ 152

/-- The 32 bytes of a record (R429). -/
def RetireRec.word (r : RetireRec) : BitVec 256 := BitVec.ofNat 256 (r.body + r.crc.toNat * 2 ^ 216 + r.commit.toNat * 2 ^ 248)

/-- The CRC-32 over bits 215:0 of a record (R429). -/
def RetireRec.crcOf (r : RetireRec) : BitVec 32 := BitVec.ofNat 32 (crc32 (bytesOf 27 r.body))

/-- Whether a record's CRC matches (R431). -/
def RetireRec.crcGood (r : RetireRec) : Bool := r.crc == r.crcOf

/-- A record with its CRC. -/
def RetireRec.sealed (r : RetireRec) : RetireRec := { r with crc := r.crcOf }

/-- A record that retires its element (R431). -/
def RetireRec.live (r : RetireRec) : Bool := r.commit == 0xA5 && r.crcGood

/-- A committed record of an element that is retired now; its number and its CRC come with the append. -/
def State.retireRec (s : State) (cause kind index : BitVec 8) (die : BitVec 16) (prow pcol : BitVec 4) : RetireRec :=
  { commit := 0xA5, crc := 0, time := BitVec.ofNat 64 s.ptime, seq := 0, cause := cause, kind := kind, index := index,
    die := die, prow := prow, pcol := pcol }

/-- Records of a half of the log (R429). -/
def halfSize : Nat := 16384

/-- Records put at the end of a log in use, with the next sequence numbers (R430). -/
def State.appendRecords (s : State) (rs : List RetireRec) : State :=
  rs.foldl (fun t r =>
    { t with retired := t.retired ++ [RetireRec.sealed { r with seq := t.flashSeq }], flashSeq := t.flashSeq + 1 }) s

/-- A record appended while the security core waits for it, at boot and in a recovery's self-test: a full half's live records go
to the other half first, and the full half is erased (R430). -/
def State.appendRetired (s : State) (r : RetireRec) : State :=
  let s1 := if halfSize ≤ s.retired.length then
      { s with retired := [], otherHalf := [] }.appendRecords (s.retired.filter RetireRec.live)
    else s
  s1.appendRecords [r]

/-- The order of the security core's own steps: its flash appends, and a boot. -/
def securityPath : Option (Bool × Nat × Nat) := some (false, nobody, nobody)

/-- The live records of a full half written to the other half; the last one's COMMIT is still to come (R430). -/
def State.copyHalf (s : State) : State :=
  let t := { s with retired := [] }.appendRecords (s.retired.filter RetireRec.live)
  let last := t.retired.length - 1
  { s with otherHalf := t.retired.zipIdx.map (fun e => if e.2 = last then { e.1 with commit := 0xFF } else e.1),
           flashSeq := t.flashSeq }

/-- Whether the other half holds a copy whose last record has not committed. -/
def State.copying (s : State) : Bool := s.otherHalf.getLast?.any (fun r => r.commit == 0xFF)

/-- The bytes 0 to 30 of a record programmed: it does not count until its COMMIT is, which is a step of its own. Where the half is
full, its live records are copied first (R430). -/
def State.beginAppend (s : State) (r : RetireRec) (again : Arg) : State :=
  if s.retired.length < halfSize then
    ({ s with retired := s.retired ++ [RetireRec.sealed { r with seq := s.flashSeq, commit := 0xFF }],
              flashSeq := s.flashSeq + 1 }).send securityPath .retirementAppend (.record s.flashSeq)
  else if s.copying then s.send securityPath .retirementAppend again
  else
    let s1 := s.copyHalf
    match s1.otherHalf with
    | [] => ({ s1 with retired := [] }).send securityPath .retirementAppend again
    | _ => (s1.send securityPath .retirementAppend (.record (s1.flashSeq - 1))).send securityPath .retirementAppend again

/-- COMMIT of the record with a number programmed to 0xA5; once a copy's last record has it, the full half is erased (R430). -/
def State.endAppend (s : State) (n : BitVec 32) : State :=
  let done := fun (r : RetireRec) => if r.seq = n ∧ r.commit = 0xFF then { r with commit := 0xA5 } else r
  if s.copying && s.otherHalf.getLast?.any (fun r => r.seq == n) then
    { s with retired := s.otherHalf.map done, otherHalf := [] }
  else { s with retired := s.retired.map done }

/-- The element of a voided record tested again: a failure, which the test decides (log 16), retires it by a fresh record
with CAUSE 4 (R431). -/
def State.retest (s : State) (r : RetireRec) : State :=
  if Config.outcome (s.tick + r.seq.toNat) then s
  else s.appendRetired { s.retireRec 4 r.kind r.index r.die r.prow r.pcol with commit := 0xA5 }

/-- BOOT_LOG_READ: the half whose first record has the higher SEQ is used; a torn record and a committed one with a bad CRC
are voided, and their elements tested, the committed one's too (R430, R431; log 35). -/
def execBootLogRead (s : State) : Host.Outcome State Fault Refusal :=
  let first := fun (l : List RetireRec) => (l.head?.map (fun r => r.seq.toNat + 1)).getD 0
  let s0 := if first s.retired < first s.otherHalf then { s with retired := s.otherHalf, otherHalf := s.retired } else s
  let torn := s0.retired.filter (fun r => r.commit == 0xFF)
  let wrong := s0.retired.filter (fun r => r.commit == 0xA5 && !r.crcGood)
  let s1 := { s0 with retired := s0.retired.map (fun r =>
    if r.commit = 0xFF ∨ (r.commit = 0xA5 ∧ r.crcGood = false) then { r with commit := 0 } else r) }
  let s2 := wrong.foldl (fun t r => t.log 0 0 0 (r.seq.setWidth 64)) s1
  .next ((torn.filter RetireRec.crcGood ++ wrong).foldl (fun t r => t.retest r) s2)

/-! ### The remap of a chiplet (R413 to R415, R418, R420) -/

/-- Elements of a kind that the log retires on a physical core (R429). -/
def State.retiredOf (s : State) (h r c : Nat) (kind : BitVec 8) : List (BitVec 8) :=
  ((s.retired.filter (fun x => x.live && x.kind == kind && x.die.toNat == h && x.prow.toNat == r && x.pcol.toNat == c)).map
    RetireRec.index).eraseDups

/-- A dead core: by the fuses, by its own record, or with three defective contexts or banks (R413, R479). -/
def State.deadCore (s : State) (h r c : Nat) : Bool :=
  s.fuses.contains (h, r, c) || s.retiredOf h r c 4 != [] || decide (3 ≤ (s.retiredOf h r c 1).length) ||
    decide (3 ≤ (s.retiredOf h r c 2).length)

/-- Live cores of a physical row in ascending column (R414). -/
def State.liveCols (s : State) (h r : Nat) : List Nat := (List.range 12).filter (fun c => !s.deadCore h r c)

/-- The lending spare of a row (R414). -/
def State.lendingSpare (s : State) (h r : Nat) : Option Nat :=
  if r < 12 then ((s.liveCols h r).drop s.layout.cols).head? else none

/-- A core of the logical grid and the physical core that backs it: logical row and column, physical row and column. -/
abbrev Backing := Nat × Nat × Nat × Nat

/-- The number of the logical core at row `i` and column `j` of a chiplet (R12). -/
def State.coreAt (s : State) (h i j : Nat) : Nat := (12 * (h / 20) + i) * s.gridCols + h % 20 * s.layout.cols + j

/-- The physical position that backs a grid core: chiplet, row and column (R420). -/
def State.physPlace (s : State) (n : Nat) : Nat × Nat × Nat := (s.chipOf n, s.physRow n, s.physCol n)

/-- Whether the layout in force backs a core (R420). -/
def State.mapped (s : State) (n : Nat) : Bool := (s.remapOf n).getLsbD 15

/-- A row that can no longer be completed keeps its numbering: a logical core stays on its physical core while that lives, the
others take the row's unused cores in ascending order, as far as they go (R416; DEDUCED, log 51). -/
def State.shortRow (s : State) (h r : Nat) : List Backing :=
  let live := s.liveCols h r
  let kept := (List.range s.layout.cols).filterMap (fun j =>
    let n := s.coreAt h r j
    let p := s.physPlace n
    if s.mapped n && p.2.1 == r && live.contains p.2.2 then some (j, p.2.2) else none)
  let gaps := (List.range s.layout.cols).filter (fun j => !(kept.map Prod.fst).contains j)
  let free := live.filter (fun k => !(kept.map Prod.snd).contains k)
  (kept ++ gaps.zip free).map (fun x => (r, x.1, r, x.2))

/-- The table of a chiplet under R414, and the rows whose lending spare is lent. -/
def State.drawChip (s : State) (h : Nat) : List Backing × List Nat :=
  let c := s.layout.cols
  (List.range 12).foldl (fun acc r =>
    let l := s.liveCols h r
    let own := (l.take c).zipIdx.map (fun x => ((r, x.2, r, x.1) : Backing))
    if c ≤ l.length then (acc.1 ++ own, acc.2)
    else if l.length + 1 ≠ c then (acc.1 ++ s.shortRow h r, acc.2)
    else
      let lender := ((r + 1) :: (if r = 0 then [] else [r - 1])).find? (fun q =>
        (s.lendingSpare h q).isSome && !acc.2.contains q)
      match lender with
      | some q => (acc.1 ++ own ++ [(r, c - 1, q, (s.lendingSpare h q).getD 0)], q :: acc.2)
      | none => (acc.1 ++ s.shortRow h r, acc.2)) ([], [])

/-- Spares of a chiplet that no row uses (R364, R414). -/
def State.freeSpares (s : State) (h : Nat) : Nat :=
  ((List.range 12).map (fun r => (s.liveCols h r).length - s.layout.cols)).sum - (s.drawChip h).2.length

/-- A remap entry (R420). -/
def remapEntry (b : Backing) : BitVec 16 :=
  BitVec.ofNat 16 (2 ^ 15 + natOfBool (b.2.2.1 != b.1) * 2 ^ 14 + b.2.2.1 * 16 + b.2.2.2)

/-- The drawn table's entry for a logical row and column; zero where no core backs it (R420). -/
def drawnEntry (t : List Backing) (i j : Nat) : BitVec 16 :=
  match t.find? (fun b => b.1 == i && b.2.1 == j) with
  | some b => remapEntry b
  | none => 0

/-- A capacity-record entry in the layout; a full core is not listed. -/
def Layout.setCap (l : Layout) (n : Nat) (e : CapEntry) : Layout :=
  let full : CapEntry := { avail := true, xrow := false, benchOk := true, banks := 16, slots := 16, mirror := 18 }
  { l with caps := if e = full then eraseNat n l.caps else insertNat n e l.caps }

/-- A remap entry in the layout; a core that backs its own place is not listed. -/
def Layout.setRemap (l : Layout) (n : Nat) (own e : BitVec 16) : Layout :=
  { l with remap := if e = own then eraseNat n l.remap else insertNat n e l.remap }

/-- The capacity-record entry of a core that a physical core backs (R413, R415, R418). -/
def State.capacity (s : State) (h : Nat) (b : Backing) (mirror : Nat) : CapEntry :=
  let r := b.2.2.1
  let c := b.2.2.2
  { avail := true, xrow := r != b.1, benchOk := r == b.1 && s.retiredOf h r c 5 == [],
    banks := if 2 ≤ (s.retiredOf h r c 2).length then 15 else 16,
    slots := if 2 ≤ (s.retiredOf h r c 1).length then 15 else 16, mirror := mirror }

/-- The mirror allowance A of a zone's cores in units of 4 KiB (R365). -/
def State.allowance (s : State) (z : Nat) : Nat :=
  let spares := ((zoneChips (z ^^^ 1)).map (fun h => s.freeSpares h)).sum
  let cores := ((zoneChips z).map (fun h => (s.chipCores h).length)).sum
  min 18 ((spares * 0x200000 - 0x100000) / (2 * cores) / 4096)

/-- Whether the log retires a router's output link (R429). -/
def State.deadLink (s : State) (a : Nat × Nat) (port : Nat) : Bool :=
  let h := a.1 / 12 * 20 + a.2 / 12
  (s.retiredOf h (a.1 % 12) (a.2 % 12) 3).contains (BitVec.ofNat 8 port)

/-- A detour entry around a dead port by a side port (R421). -/
def detourWord (port side : Nat) : Word :=
  BitVec.ofNat 32 (7 * 2 ^ 29 + port * 2 ^ 24 + side * 2 ^ 21 + port * 2 ^ 18 + oppositePort side * 2 ^ 15)

/-- The side by which a detour passes a dead link: the first of the two whose three links live. The spec leaves the hops to the
security core (DESIGN CHOICE, log 35). -/
def State.detourSide (s : State) (a : Nat × Nat) (port : Nat) : Option Nat :=
  [(port + 1) % 4, (port + 3) % 4].find? (fun p =>
    let b := moveBy a p
    let c := moveBy b port
    portInside a p && portInside b port && !s.deadLink a p && !s.deadLink b port && !s.deadLink c (oppositePort p))

/-- The dead links of the log, by router and port (R429). -/
def State.deadLinks (s : State) : List ((Nat × Nat) × Nat) :=
  (s.retired.filter (fun r => r.live && r.kind == 3 && decide (r.die.toNat < 400))).map (fun r =>
    ((12 * (r.die.toNat / 20) + r.prow.toNat, 12 * (r.die.toNat % 20) + r.pcol.toNat), r.index.toNat % 4))

/-- A layout with a detour entry for every dead link of the log that has none, in the next entry of its router (R421). -/
def State.withDetours (s : State) (l : Layout) : Layout :=
  s.deadLinks.foldl (fun l e =>
    let r := 240 * e.1.1 + e.1.2
    let mine := l.detours.filter (fun d => d.1 == r)
    if mine.any (fun d => d.2.2.getLsbD 31 && fieldOf d.2.2 26 24 == e.2) then l
    else
      match s.detourSide e.1 e.2 with
      | some p => { l with detours := l.detours ++ [(r, mine.length, detourWord e.2 p)] }
      | none => l) l

/-- Whether dead links isolate the core at a router: none leads from it, or none to it (R421). -/
def State.cutOff (s : State) (a : Nat × Nat) : Bool :=
  (List.range 4).all (fun p => !portInside a p || s.deadLink a p) ||
    (List.range 4).all (fun p => !portInside a p || s.deadLink (moveBy a p) (oppositePort p))

/-- The layout with a chiplet's table, the mirror allowances of its zone and its buddy, and the detours of the log (R365, R414,
R418, R421). -/
def State.redrawWith (s : State) (h : Nat) (t : List Backing) : Layout :=
  let places := (List.range 12).flatMap (fun i => (List.range s.layout.cols).map (fun j => (i, j)))
  let l1 := places.foldl (fun l p =>
    let n := s.coreAt h p.1 p.2
    let l0 := l.setRemap n (remapEntry (p.1, p.2, p.1, p.2)) (drawnEntry t p.1 p.2)
    match t.find? (fun b => b.1 == p.1 && b.2.1 == p.2) with
    | some b => l0.setCap n (s.capacity h b 18)
    | Option.none => l0.setCap n CapEntry.none) ({ s.layout with blank := false } : Layout)
  let s1 := { s with layout := l1 }
  let z := zoneOf (h % 20) (h / 20)
  s.withDetours ([z, z ^^^ 1].foldl (fun l y =>
    ((zoneChips y).flatMap (fun g => s1.chipCores g)).foldl (fun l n =>
      l.setCap n { s1.capOf n with mirror := s1.allowance y }) l) l1)

/-- The layout with a chiplet's table drawn again (R414). -/
def State.redraw (s : State) (h : Nat) : Layout := s.redrawWith h (s.drawChip h).1

/-- A bank that nothing has written, written with every chiplet's table as the fuses and the log give it (R414, R425). -/
def State.rebuild (s : State) (l : Layout) : Layout :=
  ((List.range 400).filter (fun h => s.retired.any (fun r => r.live && r.die.toNat == h) || s.fuses.any (fun f => f.1 == h))).foldl
    (fun l h => { s with layout := l }.redraw h) { l with blank := false }

/-! ### The commit (R422 to R425) -/

/-- A journal record appended, with the layout's CRC; it counts once its commit byte is written, which is a step of its own (R424,
R430). -/
def State.journalAppend (s : State) (prepared : Bool) (n : Nat) (l : Layout) : State :=
  let r : JournalRec := { prepared := prepared, seq := n, layout := some l, crc := Config.layoutCrc n, committed := false }
  { s with journal := s.journal ++ [r] }.send securityPath .commit (.journal s.journal.length)

/-- The commit byte of a journal record written (R424, R430). -/
def State.journalCommit (s : State) (k : Nat) : State :=
  { s with journal := s.journal.zipIdx.map (fun e => if e.2 = k then { e.1 with committed := true } else e.1) }

/-- Whether the last journal record counts. -/
def State.journalled (s : State) : Bool := s.journal.getLast?.all (fun r => r.committed)

/-- Accepted tables that the retirement log has overtaken before their commit: they are refused, REASON 3 (R425, R478). -/
def State.recheck (s : State) : State :=
  { s with requests := s.requests.map (fun x =>
      if x.stage = 0 ∧ x.reason = 0 ∧ x.table.any (fun t => t != (s.drawChip x.chip).1) then { x with reason := 3 } else x) }

/-- Phase 1 of the next commit, where none is under way: one that a recovery asks for goes before the others; a table that was
accepted is the one that is written (R424, R479). The routers' banks keep what is written into them, so that reading them back
finds it. -/
def State.prepare (s0 : State) : State :=
  let s := s0.recheck
  let waits := s.requests.filter (fun r => r.stage == 0 && r.reason == 0)
  let next := match waits.find? LayoutReq.recovery with
    | some r => some r
    | none => waits.head?
  match next with
  | some r =>
    if s.bootHalted || s.commit.busy || s.requests.any (fun x => x.stage == 1) then s
    else
      let n := (s.commit.seq + 1).toNat
      let l := { s.redrawWith r.chip (r.table.getD (s.drawChip r.chip).1) with seq := n }
      ({ s with shadow := l, requests := s.requests.map (fun x => if x = r then { x with stage := 1 } else x) }).journalAppend
        true n l
  | none => s

/-- A remap asked for (R382, R431, R479). -/
def State.askLayout (s : State) (r : LayoutReq) : State := ({ s with requests := s.requests ++ [r] }).prepare

/-- The logical core that a physical place backs. -/
def State.coreOf (s : State) (h r c : Nat) : Option Nat := (s.chipCores h).find? (fun n => s.mapped n && s.physPlace n == (h, r, c))

/-- A core that dead links isolate is retired as a dead core: one that backs a logical core as a core that fails in service (R374,
R382), another by its record (R421). -/
def State.retireCut (s : State) (a : Nat × Nat) : State :=
  let h := a.1 / 12 * 20 + a.2 / 12
  if !s.cutOff a || s.deadCore h (a.1 % 12) (a.2 % 12) then s
  else
    match s.coreOf h (a.1 % 12) (a.2 % 12) with
    | some n => s.send none .containmentEvent (.core n)
    | none => s.send securityPath .retirementAppend
        (.retire 2 4 0 (BitVec.ofNat 16 h) (BitVec.ofNat 4 (a.1 % 12)) (BitVec.ofNat 4 (a.2 % 12)))

/-- What follows a retirement in service once its record counts: the chiplet's table is drawn and committed anew, and cores that a
dead link isolates are retired; a dead core that backs a logical core is replaced by its recovery (R382, R421, R431). -/
def State.afterRetire (s : State) (r : RetireRec) : State :=
  let h := r.die.toNat
  if !r.live || decide (400 ≤ h) then s
  else
    let a := (12 * (h / 20) + r.prow.toNat, 12 * (h % 20) + r.pcol.toNat)
    let s1 := if r.kind = 3 then (s.retireCut a).retireCut (moveBy a (r.index.toNat % 4)) else s
    s1.askLayout { chip := h, recovery := false, source := none, mail := 0, counter := 0, reason := 0, stage := 0, lseq := 0 }

/-- RETIREMENT_APPEND: a record's bytes are programmed, then its COMMIT, from when it counts (R430, R431). -/
def execRetirementAppend (s : State) : Host.Outcome State Fault Refusal :=
  match s.arg with
  | .retire cause kind index die prow pcol =>
    .next (s.beginAppend (s.retireRec cause kind index die prow pcol) s.arg)
  | .record n =>
    let s1 := s.endAppend n
    .next (match s1.retired.find? (fun r => r.seq == n) with
      | some r => if s.otherHalf.any (fun x => x.seq == n) then s1 else s1.afterRetire r
      | none => s1)
  | _ => .next s

/-- Whether two partitions of a layout would own a slot, a bank or a matrix queue of one core (R425), a class (R222), or bytes of
one instruction store twice (R35). -/
def Layout.twoOwners (l : Layout) : Bool :=
  l.parts.any (fun a => l.parts.any (fun b =>
    decide (a.1 < b.1) &&
      (((a.2.zones &&& b.2.zones != 0) &&
        ((a.2.slots &&& b.2.slots != 0) || (a.2.banks &&& b.2.banks != 0) || (a.2.matrix.isSome && a.2.matrix == b.2.matrix) ||
         (a.2.classes &&& b.2.classes != 0) ||
         (decide (a.2.sliceBase < b.2.sliceBase + b.2.sliceSize) && decide (b.2.sliceBase < a.2.sliceBase + a.2.sliceSize)))) ||
       a.2.edges.any b.2.edges.contains)))

/-- Whether a partition's entry has the form that R34 and R35 ask for: slots and banks on its grid cores, a slice of whole
4 KiB units inside the store. -/
def PartEntry.formed (e : PartEntry) : Bool :=
  e.zones == 0 ||
    (e.slots != 0 && e.banks != 0 && decide (e.sliceBase % 4096 = 0) && decide (e.sliceSize % 4096 = 0) &&
      decide (4096 ≤ e.sliceSize) && decide (e.sliceBase + e.sliceSize ≤ 0x20000))

/-- Whether a partition would own no live bank in some core of its region (R34, R418). A core that the capacity record does not
list is full. -/
def Layout.bankless (l : Layout) (e : PartEntry) : Bool :=
  l.caps.any (fun c => c.2.avail && e.zones.getLsbD (zoneOf (c.1 % (20 * l.cols) / l.cols) (c.1 / (20 * l.cols) / 12)) &&
    (List.range c.2.banks).all (fun b => !e.banks.getLsbD b))

/-- Whether the security core refuses a layout: two owners, an entry that is not well formed, a core without a bank of a
partition of it, or a router that would need a seventeenth detour (R34, R35, R421, R425). Regions are sets of whole zones by their
form. -/
def Layout.refused (l : Layout) : Bool :=
  l.twoOwners || l.parts.any (fun e => !PartEntry.formed e.2 || l.bankless e.2) || l.detours.any (fun d => decide (16 ≤ d.2.1))

/-- The layout that a proposal of the security core makes of the one in force, as commit `n` (R422, R457). -/
def State.proposed (s : State) (p : Proposal) (n : Nat) : Layout :=
  s.withDetours { (if s.layout.blank then s.rebuild s.layout else s.layout) with
    parts := p.parts, names := p.names, detours := p.detours, pinned := p.pinned, routes := p.routes, allow := p.allow, ports := p.ports,
    seq := n }

/-- The first phase of a commit of a layout with another partition table: refused and logged, or written into the shadow banks
and journalled, or queued behind the commit under way; it waits for its flip as that does (R34, R422, R424, R425). -/
def State.propose (s : State) (p : Proposal) : State :=
  let n := (s.commit.seq + 1).toNat
  let l := s.proposed p n
  if s.bootHalted || l.refused then s.log 0 0 0 (BitVec.ofNat 64 n)
  else if s.commit.busy || s.requests.any (fun x => x.stage == 1) then s.send none .commit (.proposal p)
  else
    let r : LayoutReq :=
      { chip := 0, recovery := false, source := none, mail := 0, counter := 0, reason := 0, stage := 1, lseq := 0 }
    ({ s with shadow := l, requests := s.requests ++ [r] }).journalAppend true n l

/-- The partition that owns a byte of an instruction store by a layout (R35). -/
def State.storeOwner (s : State) (a : Nat) : Option Nat :=
  let n := (a - istoreBase) / 2 ^ 18
  let o := (a - istoreBase) % 2 ^ 18
  (s.layout.parts.map Prod.fst).find? (fun p =>
    let sl := s.slice n (some (BitVec.ofNat 6 p))
    decide (sl.1 ≤ o) && decide (o < sl.1 + sl.2))

/-- The instruction stores as a layout that takes over from another leaves them: what passes to another partition holds zero
bytes with good check bits (R35). -/
def State.clearSlices (s : State) (new : Layout) : State :=
  let passes := fun (a : Nat) => decide (istoreBase ≤ a) && decide (a < istoreBase + 2 ^ 34) &&
    (match ({ s with layout := new }).storeOwner a with
     | some p => s.storeOwner a != some p
     | none => false)
  if s.layout.parts = new.parts ∧ s.layout.caps = new.caps then s
  else { s with mem := s.mem.filter (fun c => !passes c.1), bad := s.bad.filter (fun a => !passes a) }

/-- Local-store banks that pass to another partition by a layout that takes over are scrubbed (R153, R450). -/
def State.bankOwner (s : State) (n b : Nat) : Option Nat :=
  (s.layout.parts.map Prod.fst).find? (fun p => (s.shareBanks n (some (BitVec.ofNat 6 p))).contains b)

/-- The local stores as a layout that takes over from another leaves them: a bank that changes partition is scrubbed (R153,
R450). -/
def State.clearBanks (s : State) (new : Layout) : State :=
  let moves := fun (a : Nat) => isLocal a &&
    (let n := localCore a
     let b := (a - localBase) % 2 ^ 21 / 2 ^ 17
     s.isGrid n && ({ s with layout := new }).bankOwner n b != s.bankOwner n b)
  if s.layout.parts = new.parts ∧ s.layout.caps = new.caps then s
  else { s with mem := s.mem.filter (fun c => !moves c.1), full := s.full.filter (fun w => !moves w.1),
                scopes := s.scopes.filter (fun w => !moves w.1), bad := s.bad.filter (fun a => !moves a),
                soft := s.soft.filter (fun a => !moves a) }

/-- The class entries of a core that a layout that takes over gives to another partition, reset (R223). -/
def State.clearClasses (s : State) (new : Layout) (n : Nat) (c : Core) : Core :=
  let owner := fun (l : Layout) (k : Nat) =>
    (l.parts.map Prod.fst).find? (fun p => ({ s with layout := l }).ownsClass (BitVec.ofNat 6 p) n k)
  if s.layout.parts = new.parts then c
  else { c with classes := Vector.ofFn (fun k =>
    if k.val < 29 ∧ owner new k.val ≠ owner s.layout k.val then ClassEntry.reset else c.classes.get k) }

/-- COMMIT: the first phase of a commit of a proposed layout, or a write of the commit register with SEQ + 1 and the other bank sets BUSY; any other is ignored and logged
(R423). -/
def execCommit (s : State) : Host.Outcome State Fault Refusal :=
  match s.arg with
  | .proposal p => .next (s.propose p)
  | .journal k => .next (s.journalCommit k)
  | .val v =>
    if !s.commit.busy && fieldOf v 63 32 == (s.commit.seq + 1).toNat && v.getLsbD 0 != s.commit.active.getLsbD 0 then
      .next { s with commit := { seq := s.commit.seq + 1, busy := true, flipped := false, active := s.commit.active + 1,
                                 tickAt := (s.ptime / 512 + 1) * 512 } }
    else .next (s.log 0 0 0 v)
  | _ => .next s

/-- MESH_TICK: the routers switch banks at the first tick after the write; name caches are invalidated, instruction-store slices
that pass to another partition are zero, banks that do are scrubbed, class entries that do are reset, and optical ports that are no
longer in use go down (R35, R223, R423, R450, R457). -/
def execMeshTick (s : State) : Host.Outcome State Fault Refusal :=
  if s.commit.busy && !s.commit.flipped && decide (s.commit.tickAt ≤ s.ptime) then
    let s := ((s.clearSlices s.shadow).clearBanks s.shadow).applyPorts s.shadow
    .next { s with layout := { s.shadow with seq := s.commit.seq.toNat }, shadow := s.layout,
                   commit := { s.commit with flipped := true },
                   cores := s.cores.map (fun e => (e.1, { s.clearClasses s.shadow e.1 e.2 with names := [] })) }
  else .next s

/-- BUSY_CLEAR: every router has acknowledged; COMMITTED is appended, the request awaits its answer, and the next commit
begins (R423, R424). -/
def execBusyClear (s : State) : Host.Outcome State Fault Refusal :=
  if s.commit.busy && s.commit.flipped then
    let n := s.commit.seq.toNat
    let done := fun (r : LayoutReq) => if r.stage = 1 then { r with stage := 2, lseq := n } else r
    let s1 := { s with commit := { s.commit with busy := false, flipped := false },
                       requests := (s.requests.map done).filter (fun r => r.stage != 2 || r.source.isSome) }
    .next (s1.journalAppend false n s.layout).prepare
  else .next s

/-- A request whose commit may be run again from phase 1 (R425). -/
def LayoutReq.again (x : LayoutReq) : LayoutReq := if x.stage = 1 then { x with stage := 0 } else x

/-- JOURNAL_RECONCILE (R425). -/
def execJournalReconcile (s : State) : Host.Outcome State Fault Refusal :=
  let good := s.journal.filter JournalRec.committed
  let halt := { s.log 0 0 0 (s.commit.seq.setWidth 64) with bootHalted := true }
  if s.layout.blank then
    match (good.filter (fun r => !r.prepared)).getLast? with
    | some r =>
      match r.layout with
      | some l =>
        let n := r.seq + 1
        let l1 := { s.rebuild l with seq := n }
        .next ((({ s with layout := l1, commit := { seq := BitVec.ofNat 32 n, busy := false, active := s.commit.active + 1,
                                                    flipped := false, tickAt := s.commit.tickAt } }).journalAppend true n l1).journalAppend
          false n l1)
      | none => .next halt
    | none => .next halt
  else
    match good.getLast? with
    | none => .next halt
    | some r =>
      let n := s.commit.seq.toNat
      if r.prepared then
        if r.seq = n + 1 then
          .next ({ s with shadow := s.layout, requests := s.requests.map LayoutReq.again }).prepare
        else if r.seq = n then .next (s.journalAppend false n s.layout)
        else .next halt
      else if r.seq = n then .next s
      else .next halt

/-! ### The mailbox and the bell (R478, R479) -/

/-- The virtual address of the mailbox (R478). -/
def mailBase : Nat := 0x00FEF00000000000

/-- Where a management core's own mailbox frame lies: the security core, which has loaded the core's image, reads and writes it
there, whatever the core's firmware has mapped (R478, R479; log 35). -/
def State.mailPhys (s : State) (n : Nat) : Option Nat :=
  (lookupNat n s.firmware).map (fun f => s.framePhys f.mailbox.1 f.mailbox.2 0)

/-- Whether a request's header is invalid: KIND, a reserved bit, a coordinate (R478). -/
def mailInvalid (h : Nat) : Bool :=
  let f := fun (hi lo : Nat) => h / 2 ^ lo % 2 ^ (hi + 1 - lo)
  f 7 0 != 2 || f 15 13 != 0 || f 23 21 != 0 || f 63 29 != 0 || f 95 80 != 0 || f 511 128 != 0 ||
    decide (19 < f 12 8) || decide (19 < f 20 16)

/-- The verdict on the mailbox at an address: REASON 5, 3, 1 or 4, or none. A remap changes no region, and regions are sets of
whole zones by their form, so REASON 2 does not arise (R425, R478, R479). -/
def State.judgeMail (s : State) (a : Nat) : Nat :=
  let h := s.peek a 64
  let chip := h / 2 ^ 16 % 32 * 20 + h / 2 ^ 8 % 32
  let t := (s.drawChip chip).1
  let entry := fun (k : Nat) => if k % 12 < s.layout.cols then (drawnEntry t (k / 12) (k % 12)).toNat else 0
  let drawn := fun (w : Nat) => entry (2 * w) + 2 ^ 16 * entry (2 * w + 1)
  if mailInvalid h then 5
  else if (List.range 72).any (fun w => s.peek (a + 64 + 4 * w) 4 != drawn w) then 3
  else if (s.redraw chip).twoOwners then 1
  else if (s.redraw chip).detours.any (fun d => decide (16 ≤ d.2.1)) then 4
  else 0

/-- The request that a management core's mailbox holds, judged (R479); `source` is none where its reply goes to no one. -/
def State.mailRequest (s : State) (a : Nat) (source : Option Nat) : LayoutReq :=
  let h := s.peek a 64
  let chip := h / 2 ^ 16 % 32 * 20 + h / 2 ^ 8 % 32
  { chip := chip, recovery := false, source := source, mail := a, counter := BitVec.ofNat 5 (h / 2 ^ 24), reason := s.judgeMail a,
    stage := 0, lseq := 0, table := some (s.drawChip chip).1 }

/-- LAYOUTBELL: a management core's proposal is judged, and committed where it is accepted; another source's store, and a
bell rung too early, are logged. The bell of a core that has been reset since is completed for no one (R479). -/
def execLayoutbell (s : State) : Host.Outcome State Fault Refusal :=
  match s.arg with
  | .source n =>
    match s.kindOf n with
    | .management _ =>
      if s.requests.any (fun r => r.source == some n) then .next (s.log 0 n 0 0)
      else
        match s.mailPhys n with
        | none => .next (s.log 0 n 0 0)
        | some a => .next (s.askLayout (s.mailRequest a (some n)))
    | _ => .next (s.log 0 n 0 0)
  | .core n =>
    match s.mailPhys n with
    | none => .next s
    | some a =>
      let r := s.mailRequest a none
      .next (if r.reason = 0 then s.askLayout r else s)
  | _ => .next s

/-- Whether a request can be answered: refused, or committed (R479). -/
def LayoutReq.ready (r : LayoutReq) : Bool := r.reason != 0 || r.stage == 2

/-- LAYOUT_REPLY: STATUS, REASON and LSEQ at the mailbox's home, then the requester's counter (R479). -/
def execLayoutReply (s : State) : Host.Outcome State Fault Refusal :=
  match s.arg with
  | .index i =>
    let n := 0xF300 + i.toNat
    match s.requests.find? (fun r => r.source == some n && r.ready) with
    | none => .next s
    | some r =>
      let status := if r.reason = 0 then 1 else 2
      let s1 := { s with requests := s.requests.erase r }
      let s2 := ((s1.put (r.mail + 8) (bytesOf 1 status)).1.put (r.mail + 9) (bytesOf 1 r.reason)).1
      .next ((s2.put (r.mail + 12) (bytesOf 4 r.lseq)).1.bump n r.counter 1)
  | _ => .next s

/-! ### Firmware (R427, R428, R454) -/

/-- The bytes of a list of addressed bytes written at a base. -/
def State.writeBytes (s : State) (base : Nat) (bs : List (Nat × Byte)) : State :=
  { s with mem := bs.foldl (fun m b => Memory.set m (base + b.1) b.2) s.mem }

/-- A slot of a processor of a root chiplet as its load starts it: at its entry, in management mode, every register zero
(R329, R428, R480). -/
def rootSlot (i : SlotNo) (entry : Dword) (t : Nat) : Slot :=
  { Slot.reset with
    pc := entry, run := .running, readyAt := t,
    st := { Slot.reset.st with slotNo := BitVec.ofNat 4 i.val, mode := .management },
    cnt := { Slot.reset.cnt with cycleOff := BitVec.ofNat 64 t } }

/-- An image's code and data written on its core, the data at offsets of the core's self window, and its slots started, those that
the core has (R133, R426, R428, R454, R480). -/
def State.loadFirmware (s : State) (f : FirmwareLoad) : State :=
  let banks := s.shareBanks f.core none
  let s1 := (s.writeBytes (istoreAddr f.core 0) f.code).writeBytes 0 (f.data.map (fun b => (localAddr f.core banks b.1, b.2)))
  (f.entries.filter (fun e => decide (e.1.val < s.liveSlots f.core))).foldl (fun t e => t.setSlot f.core e.1 (rootSlot e.1 e.2 (t.core f.core).t))
    { s1 with fwGroups := (s1.fwGroups ++ f.groups).eraseDups }

/-- Bytes of an image. -/
def imageSize (f : FirmwareLoad) : Nat := f.code.length + f.data.length

/-- Whether an image keeps the limits of its kind: 256 KiB for the security core, and 32 MiB for all management images together
(R427). -/
def State.firmwareFits (s : State) (f : FirmwareLoad) : Bool :=
  match s.kindOf f.core with
  | .security _ => decide (imageSize f ≤ 0x40000)
  | _ =>
    let others := (s.firmware.filter (fun e => e.1 != f.core && (match s.kindOf e.1 with
      | .management _ => true
      | _ => false))).map (fun e => imageSize e.2)
    decide (imageSize f + others.sum ≤ 0x2000000)

/-- Whether the security core accepts an image: boot has not halted, its signature, its version, its size, a management core or the
active security core (R425 to R427, R454). -/
def State.acceptsImage (s : State) (f : FirmwareLoad) : Bool :=
  !s.bootHalted && f.verified && decide ((lookupNat f.kind s.rollback).getD 0 ≤ f.version) && s.firmwareFits f &&
    (match s.kindOf f.core with
     | .management _ => true
     | .security k => k == s.security.toNat
     | _ => false)

/-- FIRMWARE_IMAGE_LOAD (R427, R454). -/
def execFirmwareImageLoad (s : State) : Host.Outcome State Fault Refusal :=
  match s.arg with
  | .firmware f =>
    if s.acceptsImage f then
      let s1 := { s with rollback := insertNat f.kind f.version s.rollback, firmware := insertNat f.core f s.firmware }
      .next (s1.loadFirmware f)
    else .next s
  | _ => .next s

/-- Nothing on its way answers a core any more. -/
def State.orphan (s : State) (n : Nat) : State := s.orphanSlots (fun m _ => m == n)

/-- The local store of a core scrubbed: zero, empty, scope zero, no error (R153). -/
def State.scrubStore (s : State) (n : Nat) : State :=
  let mine := fun (a : Nat) => isLocal a && localCore a == n
  { s with mem := s.mem.filter (fun c => !mine c.1), full := s.full.filter (fun w => !mine w.1),
           scopes := s.scopes.filter (fun w => !mine w.1), bad := s.bad.filter (fun a => !mine a),
           soft := s.soft.filter (fun a => !mine a) }

/-- The instruction store of a core scrubbed (R428). -/
def State.scrubCode (s : State) (n : Nat) : State :=
  let other := fun (a : Nat) => decide (a < istoreAddr n 0) || decide (istoreAddr (n + 1) 0 ≤ a)
  { s with mem := s.mem.filter (fun c => other c.1), bad := s.bad.filter other }

/-- A management core reset: registers, counters, queues and stores; its requests are answered to no one, and no other event that
came before resets it again (R428, R479). -/
def State.resetRoot (s : State) (n : Nat) : State :=
  let c := s.core n
  let again := fun (d : Due) => d.ev.kind == .watchdogExpiry && d.ev.arg == .core n
  let bell := fun (d : Due) => if d.ev.kind = .layoutbell ∧ d.ev.arg = .source n then
    { d with ev := { d.ev with arg := .core n } } else d
  let s0 := { s with due := (s.due.filter (fun d => !again d)).map bell }
  let s1 := ((s0.orphan n).scrubStore n).scrubCode n
  let s2 := { s1 with requests := s1.requests.map (fun (r : LayoutReq) =>
    if r.source = some n then { r with source := none } else r) }
  s2.setCore n { Core.reset with t := c.t, panelId := c.panelId }

/-- Nanoseconds of a management core's watchdog (R428). -/
def watchdogTime : Nat := 100000000

/-- The cause is logged, the core reset, its image reloaded and started (R428). -/
def State.restartRoot (s : State) (i : Nat) : State :=
  let n := 0xF300 + i
  let s1 := ((s.log 0 n 0 0).resetRoot n)
  let s2 := { s1 with watchdogs := s1.watchdogs.set (Fin.ofNat 8 i) s.ptime }
  match lookupNat n s.firmware with
  | some f => s2.loadFirmware f
  | none => s2

/-- WATCHDOG_EXPIRY: after 100 ms without a store to the WDOG word, or at once for a core that a double fault or an
unhandled trap has stopped (R335, R342, R428). -/
def execWatchdogExpiry (s : State) : Host.Outcome State Fault Refusal :=
  match s.arg with
  | .index i =>
    if (s.watchdogs.get (Fin.ofNat 8 i.toNat)) + watchdogTime ≤ s.ptime then .next (s.restartRoot i.toNat) else .next s
  | .core n =>
    match s.kindOf n with
    | .management i => .next (s.restartRoot i)
    | _ => .next s
  | _ => .next s

/-- WDOG: a store to a core's word restarts its watchdog (R428). -/
def execWdog (s : State) : Host.Outcome State Fault Refusal :=
  match s.arg with
  | .index i => .next { s with watchdogs := s.watchdogs.set (Fin.ofNat 8 i.toNat) s.ptime }
  | _ => .next s

/-! ### Loss of panel power, and the scrubber -/

/-- A half of the log at a loss of panel power: a record whose COMMIT was not programmed yet is there whole, without its last bytes,
or not at all (R430, R431; log 16). -/
def State.tornHalf (s : State) (half : List RetireRec) : List RetireRec :=
  half.filterMap (fun r =>
    if r.commit ≠ 0xFF ∨ Config.outcome (s.tick + r.seq.toNat) then some r
    else if Config.outcome (s.tick + r.seq.toNat + 1) then some { r with crc := 0xFFFFFFFF }
    else none)

/-- The steps of a boot, in order: the log is read, the layout rebuilt, the images of the root chiplets' processors loaded
(R425, R427, R431). -/
def State.bootSteps (s : State) : List Due :=
  let events : List Event := [{ kind := .bootLogRead, arg := .none }, { kind := .journalReconcile, arg := .none }] ++
    s.firmware.map (fun e => { kind := .firmwareImageLoad, arg := .firmware e.2 })
  events.map (fun e => { path := securityPath, ev := e })

/-- PANEL_POWER_LOSS: the panel is as after reset, with both router banks empty, and boots; flash, fuses, the security core's
durable counters and host memory stay. Where root 0's security core fails its self-test, which is free, root 1's takes over (R423,
R425 to R427, R451, R454; log 16). -/
def execPanelPowerLoss (s : State) : Host.Outcome State Fault Refusal :=
  .next { State.reset with
    mem := s.mem.filter (fun c => decide (hostBase ≤ c.1)), tick := s.tick, inputs := s.inputs,
    due := s.bootSteps,
    layout := { Layout.reset with grade := s.layout.grade },
    shadow := { Layout.reset with grade := s.layout.grade },
    nextJob := s.nextJob, msix := s.msix, fuses := s.fuses, security := if Config.outcome s.tick then 0 else 1,
    retired := s.tornHalf s.retired, otherHalf := s.tornHalf s.otherHalf, flashSeq := s.flashSeq, journal := s.journal,
    reports := s.reports, dieCounters := s.dieCounters, rollback := s.rollback, firmware := s.firmware }

/-- An error in stored state has come about (R158, R227, R238, R296, R327). -/
def State.upset (s : State) (u : Upset) : State :=
  match u with
  | .soft a => { s with soft := granuleOf a :: s.soft }
  | .memory a => if s.bad.contains (granuleOf a) then s else { s with bad := granuleOf a :: s.bad }
  | .classEntry n k => s.modCls n k (fun e => { e with bad := true })
  | .channel n k => s.breakChannel n k
  | .tile n t => s.modCore n (fun c => { c with badTiles := t.toNat :: c.badTiles })
  | .copy n k => s.copyError n k
  | .term n e => s.termError n e

/-- SCRUBBER_PASS: single-bit errors in stored data are repaired (R158); an input names the errors that have come about by
then (DESIGN CHOICE, log 51). -/
def execScrubberPass (s : State) : Host.Outcome State Fault Refusal :=
  let s1 := { s with soft := [] }
  match s.arg with
  | .upsets us => .next (us.foldl State.upset s1)
  | _ => .next s1

/-- What the panel's construction and firmware can do next. -/
def State.panelMoves (s : State) : List Event :=
  (if s.requests.any (fun r => r.stage == 1) && !s.commit.busy && s.journalled && s.cores.all (fun e => e.2.handovers.isEmpty) then
    [{ kind := .commit, arg := .val (BitVec.ofNat 64 ((s.commit.seq + 1).toNat * 2 ^ 32 + (s.commit.active + 1).toNat)) }]
   else []) ++
  (if s.commit.busy && s.commit.flipped then [{ kind := .busyClear, arg := .none }]
   else if s.commit.busy && decide (s.commit.tickAt ≤ s.ptime) then [{ kind := .meshTick, arg := .none }] else []) ++
  ((List.range 8).filterMap (fun i =>
    if s.requests.any (fun r => r.source == some (0xF300 + i) && r.ready) then
      some { kind := .layoutReply, arg := .index (BitVec.ofNat 3 i) }
    else none)) ++
  ((List.finRange 8).filterMap (fun i =>
    if s.watchdogs.get i + watchdogTime ≤ s.ptime then
      some { kind := .watchdogExpiry, arg := .index (BitVec.ofNat 3 i.val) }
    else none))

end Sys2Proof.Machine
end

