-- ==== Sys2Proof/Machine/Recovery.lean ====
section
/-!
DEFINITION. Losses and recovery (R374 to R384): isolation, re-power, test and remap, restore, resynchronisation, release.
-/
namespace Sys2Proof.Machine

/-! ### What is lost (R374, R376, R381) -/

/-- The cores of a lost part (R374). -/
def State.lostCores (s : State) (l : Loss) : List Nat :=
  match l with
  | .zone z => (zoneChips z).flatMap (fun h => s.chipCores h)
  | .chiplet h => s.chipCores h
  | .core n => if s.isGrid n then [n] else []

/-- The cause of a loss (R385). -/
def lossCause (l : Loss) : BitVec 8 :=
  match l with
  | .core _ => 0x71
  | _ => 0x70

/-- The zone of a lost part, as its event record gives it (R384). -/
def State.lossZone (s : State) (l : Loss) : Nat :=
  match l with
  | .zone z => z
  | .chiplet h => zoneOf (h % 20) (h / 20)
  | .core n => s.zoneOfCore n

/-- The core of an event record (R384). -/
def lossCore (l : Loss) : Nat :=
  match l with
  | .core n => n
  | _ => 0xFFFF

/-- Whether a loss takes the sideboard copies of a core: with the buddy zone all of them, with a chiplet those that the
directory has there, which is free (R364, R381; log 25). -/
def State.losesCopies (s : State) (l : Loss) (n : Nat) : Bool :=
  s.isGrid n && (match l with
    | .zone z => s.zoneOfCore n == z ^^^ 1
    | .chiplet h =>
      let z := zoneOf (h % 20) (h / 20)
      s.zoneOfCore n == z ^^^ 1 && (zoneChips z)[Config.copyChip s.tick n % 8]? == some h
    | .core _ => false)

/-- The copies of a core are lost: UNPROT (R381). -/
def State.unprotect (s : State) (n : Nat) : State :=
  { s.modCore n (fun c => { c with mirrors := c.mirrors.map (fun m => { m with unprot := true, streamed := false }) }) with
    copies := s.copies.filter (fun k => k.core != n) }

/-- The sideboard copies that a loss takes. -/
def State.loseCopies (s : State) (l : Loss) : State :=
  ((s.cores.map Prod.fst).filter (fun n => s.losesCopies l n)).foldl (fun t n => t.unprotect n) s

/-- Whether a job has a resident rank on a core. -/
def State.hasRank (s : State) (n j : Nat) : Bool := (s.core n).slots.toList.any (fun sl => sl.job == some j)

/-- The jobs with a resident rank among cores (R374). -/
def State.jobsOn (s : State) (cores : List Nat) : List Nat :=
  (s.jobs.filter (fun e => e.2.phase == .running && cores.any (fun n => s.hasRank n e.1))).map Prod.fst

/-- Whether a job is recoverable and running. -/
def State.recovers (s : State) (j : Nat) : Bool :=
  match s.job? j with
  | some job => job.recov && job.phase == .running
  | none => false

/-! ### Isolation (R376 step 1, R380) -/

/-- A slot of a core that stops: a rank to be restored, or halted. -/
def Slot.cut (sl : Slot) (keep : Bool) : Slot :=
  if sl.run = .off then sl
  else { sl with run := if keep then .waiting .restoring else .halted, outstanding := 0, pending := [], deferred := none,
                 capture := false, bench := none }

/-- The partitions of the recoverable jobs with a rank on a core. -/
def State.rankParts (s : State) (n : Nat) : List (BitVec 6) :=
  ((s.core n).slots.toList.filterMap (fun sl => match sl.job with
    | some j => if s.recovers j then (s.job? j).map Job.part else none
    | none => none)).eraseDups

/-- The matrix unit of a lost core: the queues of the partitions with a rank there that recovers aborted, their tiles zero; the other half of
a unit in split mode stays as it is (R300). -/
def State.abortMatrix (s : State) (n : Nat) (c : Core) : Core :=
  let ps := s.rankParts n
  let mine := fun (t : Nat) => ps.any (fun p => s.ownsTile p n t)
  { c with
    mq := Vector.ofFn (fun q =>
      if ps.any (fun p => s.ownsMatQueue p n (BitVec.ofFin q)) then (c.mq.get q).cleared else c.mq.get q),
    tiles := Vector.ofFn (fun t => if mine t.val then 0 else c.tiles.get t),
    badTiles := c.badTiles.filter (fun t => !mine t) }

/-- The core as it stops: what its slots, engines and caches had under way is gone. -/
def State.cutCore (s : State) (n : Nat) : Core :=
  let c := s.core n
  let keep := fun (sl : Slot) => match sl.job with
    | some j => s.recovers j
    | none => false
  { s.abortMatrix n c with
    slots := c.slots.map (fun sl => sl.cut (keep sl)), near := [], buffer := [], plb := [], names := [], waits := [],
    held := [], refusing := [], sent := [], retained := [], copies := [], colls := [], handovers := [],
    channels := c.channels.map (fun ch => { ch with waiters := [] }),
    q := c.q.map (fun q => { q with readers := [], writers := [] }),
    isolated := true, asleep := false }

/-- Full/empty reads of other cores that wait at a core, as requests on their way (R380). -/
def State.requeueWaits (s : State) (n : Nat) : State :=
  ((s.core n).waits.filter (fun w => !w.own)).foldl (fun t w =>
    t.send (some (false, w.core, n)) .remoteRequest
      (.remote { core := w.core, slot := w.slot, part := (t.slot w.core w.slot).st.partition, node := .core n, va := w.va,
                 op := .feRead w.word w.clear })) s

/-- A core of a lost part stops: its handovers stop, its benches are gone, no one is left to be answered (R130, R363, R376). -/
def State.isolate (s : State) (n : Nat) : State :=
  let s1 := (s.core n).handovers.foldl (fun t h => t.stopHandover n h.cmd.part 4 (some 4)) s
  let s2 := (List.finRange 16).foldl (fun t i => t.unbench n i) s1
  let s3 := (s2.requeueWaits n).orphan n
  s3.setCore n (s3.cutCore n)

/-- The chiplet caches of a part that has lost its power hold nothing. -/
def State.coldCaches (s : State) (l : Loss) : State :=
  match l with
  | .zone z => (zoneChips z).foldl (fun t h => if (t.chip h).cache = [] then t else t.modChip h (fun c => { c with cache := [] })) s
  | .chiplet h => s.modChip h (fun c => { c with cache := [] })
  | .core _ => s

/-- A commit before its commit point begins again with the gathering of arrivals, which stay counted (R375). -/
def State.rollCommit (s : State) (j : Nat) : State :=
  let early := match s.commitUse j with
    | some u => u.phase == 1
    | none => false
  let s1 := { s with uses := s.uses.map (fun u =>
    if u.job = j ∧ u.phase ≠ 2 then { u with phase := 0, gathered := [], acks := [] } else u) }
  if !early then s1
  else
    { s1 with
      copies := s1.copies.filter (fun k => !(k.job == j && k.staging)),
      due := s1.due.filter (fun d =>
        let mine := match d.ev.arg with
          | .coreJob _ k => k == j
          | .job k => k == j
          | _ => false
        !(mine && (d.ev.kind == .roundStream || d.ev.kind == .mirrorStreamComplete || d.ev.kind == .commitPoint))),
      cores := s1.cores.map (fun e => (e.1, { e.2 with mirrors := e.2.mirrors.map (fun m =>
        if m.job = j then { m with streamed := false } else m) })) }

/-- A job ended by a loss: its event record, and its slots stop (R374, R381, R383, R384). -/
def State.endLost (s : State) (l : Loss) (t0 j : Nat) (cause : BitVec 8) : State :=
  match s.job? j with
  | none => s
  | some job =>
    if job.phase != .running then s
    else
      let s1 := s.postEntry job.part
        (eventRecord t0 (if job.recov then job.round else 0) job.seq (lossCore l) (s.lossZone l) true false cause.toNat)
      let s2 := (s1.endJob j 6 cause).modJob j (fun x => { x with recovering := [] })
      { s2 with cores := s2.cores.map (fun e =>
          if e.2.isolated then
            (e.1, { e.2 with slots := e.2.slots.map (fun sl => if sl.job = some j then sl.cut false else sl) })
          else e) }

/-- A recoverable job under recovery: the cores it has lost, and the cause in its cores' LCAUSE (R372, R376). -/
def State.beginJob (s : State) (l : Loss) (cores : List Nat) (j : Nat) : State :=
  match s.job? j with
  | none => s
  | some job =>
    let mine := cores.filter (s.jobCores job).contains
    let s1 := (s.rollCommit j).modJob j (fun x => { x with recovering := (mine ++ x.recovering).eraseDups })
    { s1 with cores := s1.cores.map (fun e => (e.1, { e.2 with mirrors := e.2.mirrors.map (fun m =>
        if m.job = j then { m with lcause := lossCause l } else m) })) }

/-- Jobs that cannot be recovered: a lost core of theirs is UNPROT (R381). -/
def State.hopeless (s : State) : List Nat :=
  (s.jobs.filter (fun e => s.recovers e.1 && e.2.recovering.any (fun n =>
    match s.mirrorOf n e.1 with
    | some m => m.unprot
    | none => false))).map Prod.fst

/-- The jobs being loaded on a core that is lost: no slot of them starts, and they complete with LAUNCH_FAILED (R40, R443). -/
def State.failLoads (s : State) (cores : List Nat) : State :=
  (s.jobs.filter (fun e => e.2.phase == .loading && (s.jobCores e.2).any cores.contains)).foldl (fun t e =>
    t.modJob e.1 (fun x => { x with phase := .ending 4 0 })) s

/-- RECOVERY_BEGIN (R374 to R376, R380, R381). A part lost again takes its cores out of an earlier recovery. -/
def execRecoveryBegin (s : State) : Host.Outcome State Fault Refusal :=
  match s.arg with
  | .loss l =>
    let t0 := ((s.losses.find? (fun x => x.1 == l)).map Prod.snd).getD s.ptime
    let cores := (s.lostCores l).filter (fun n => !(s.core n).isolated || s.awaits n)
    let jobs := s.jobsOn cores
    let older := (s.recoveries.map (fun (r : Recovery) => { r with cores := r.cores.filter (fun n => !cores.contains n) })).filter
      (fun r => r.cores != [])
    let benched := (cores.flatMap (fun n => ((List.finRange 16).filter (fun i => (s.slot n i).bench.isSome)).map
      (fun i => (n, i)))) ++ (s.recoveries.flatMap Recovery.benched).filter (fun b => cores.contains b.1)
    let ranks := cores.flatMap (fun n => (jobs.filter (s.hasRank n)).map (fun j => (n, j)))
    let r : Recovery := { loss := l, t0 := t0, cores := cores, jobs := jobs, attempts := 0, up := false, tested := false,
                          restored := false, benched := benched, ranks := ranks }
    let s1 := (cores.foldl (fun t n => t.isolate n) s).coldCaches l
    let s2 := jobs.foldl (fun t j => if t.recovers j then t.beginJob l cores j else t)
      { s1.loseCopies l with recoveries := r :: older, losses := s1.losses.filter (fun x => x.1 != l) }
    let s3 := jobs.foldl (fun t j => if t.recovers j then t else t.endLost l t0 j (lossCause l)) s2
    .next ((s3.hopeless.foldl (fun t j => t.endLost l t0 j 0x72) s3).failLoads cores)
  | _ => .next s

/-- CONTAINMENT_EVENT: a core fails in service (R374). -/
def execContainmentEvent (s : State) : Host.Outcome State Fault Refusal :=
  match s.arg with
  | .core n =>
    if s.isGrid n && !(s.core n).isolated then .next (s.lose (.core n)) else .next s
  | _ => .next s

/-! ### Re-power, test and remap (R376 steps 2 and 3, R382, R383) -/

/-- The recovery of a loss. -/
def State.recoveryOf (s : State) (l : Loss) : Option Recovery := s.recoveries.find? (fun r => r.loss == l)

/-- A recovery changed. -/
def State.modRecovery (s : State) (l : Loss) (f : Recovery → Recovery) : State :=
  { s with recoveries := s.recoveries.map (fun r => if r.loss = l then f r else r) }

/-- A permanent loss: the jobs it affects end with 0x70, the lost cores stay isolated (R383). -/
def State.permanent (s : State) (r : Recovery) : State :=
  let s1 := { s with recoveries := s.recoveries.erase r }
  r.jobs.foldl (fun t j => t.endLost r.loss r.t0 j 0x70) s1

/-- When each of the three attempts at re-power is made, in nanoseconds from t0 (R376). -/
def attemptTime (k : Nat) : Nat :=
  match k with
  | 0 => 100000
  | 1 => 2000000
  | _ => 4000000

/-- Whether an attempt at re-power is due (R376). -/
def Recovery.attemptDue (r : Recovery) (now : Nat) : Bool :=
  !r.up && decide (r.attempts < 3) && decide (r.t0 + attemptTime r.attempts ≤ now) &&
    (match r.loss with
     | .zone _ => true
     | _ => false)

/-- REPOWER_ATTEMPT: an attempt succeeds, or the third one makes the loss permanent (R376, R383). -/
def execRepowerAttempt (s : State) : Host.Outcome State Fault Refusal :=
  match s.arg with
  | .lossFlag l ok =>
    match s.recoveryOf l with
    | none => .next s
    | some r =>
      if !r.attemptDue s.ptime then .next s
      else if ok then .next ((s.modRecovery l (fun x => { x with attempts := 3 })).send none .powerGood (.loss l))
      else if r.attempts = 2 then .next (s.permanent r)
      else .next (s.modRecovery l (fun x => { x with attempts := x.attempts + 1 }))
  | _ => .next s

/-- POWER_GOOD: the lost part has its power back, and self-test begins (R376). -/
def execPowerGood (s : State) : Host.Outcome State Fault Refusal :=
  match s.arg with
  | .loss l =>
    let s1 := match l with
      | .zone z => s.modZone z (fun x => { x with tripped := false })
      | _ => s
    .next (s1.modRecovery l (fun x => { x with up := true }))
  | _ => .next s

/-- Nanoseconds after t0 at which a chiplet still off is lost for good (R376). -/
def thermalTime : Nat := 10000000000

/-- THERMAL_REPOWER_DEADLINE (R376, R383). -/
def execThermalRepowerDeadline (s : State) : Host.Outcome State Fault Refusal :=
  match s.arg with
  | .chip h =>
    match s.recoveryOf (.chiplet h) with
    | some r => if !r.up && decide (r.t0 + thermalTime ≤ s.ptime) then .next (s.permanent r) else .next s
    | none => .next s
  | _ => .next s

/-- A dead core logged in the retirement log (R376, R429, R431). -/
def State.retireCore (s : State) (cause : BitVec 8) (p : Nat × Nat × Nat) : State :=
  s.appendRetired (s.retireRec cause 4 0 (BitVec.ofNat 16 p.1) (BitVec.ofNat 4 p.2.1) (BitVec.ofNat 4 p.2.2))

/-- Whether the drawn table backs a core (R414). -/
def State.backed (s : State) (n : Nat) : Bool :=
  (s.drawChip (s.chipOf n)).1.any (fun b => b.1 == s.rowOf n % 12 && b.2.1 == s.localCol n)

/-- Spares that no substitution uses in the zone of a lost part (R364). -/
def State.zoneSpares (s : State) (l : Loss) : Nat := ((zoneChips (s.lossZone l)).map (fun h => s.freeSpares h)).sum

/-- Bytes that the copies of a zone's cores take in its sideboard: two of the allowance of each core that runs a recoverable
job (R364, R365). -/
def State.copyBytes (s : State) (z : Nat) : Nat :=
  ((s.cores.filter (fun e => s.isGrid e.1 && s.zoneOfCore e.1 == z)).map (fun e =>
    (e.2.mirrors.map (fun m => if m.noSpace then 0 else 2 * m.allow)).sum)).sum

/-- The copies that a spare taken into use held are moved; where a spare has been consumed and the sideboard has no space
left, cores whose copies it held, which the directory names freely, are UNPROT until their jobs complete, and an event record
reports it (R364, R365, R382; log 25). -/
def State.displaceCopies (s : State) (r : Recovery) (spares : Nat) : State :=
  let z := s.lossZone r.loss ^^^ 1
  let left := s.zoneSpares r.loss
  let full := decide (left < spares) && decide (left * 0x200000 < s.copyBytes z + 0x100000)
  let hit := if !full then [] else (s.cores.filter (fun e => s.isGrid e.1 && s.zoneOfCore e.1 == z && e.2.mirrors != [] &&
    Config.copyDropped s.tick e.1)).map Prod.fst
  hit.foldl (fun t n =>
    let t1 := (t.unprotect n).modCore n (fun c => { c with mirrors := c.mirrors.map (fun m => { m with noSpace := true }) })
    (t1.core n).mirrors.foldl (fun u m =>
      match u.job? m.job with
      | some job => u.postEntry job.part (eventRecord r.t0 job.round job.seq n z false false 0x71)
      | none => u) t1) s

/-- The remaps that a recovery asks for: layout commits that go before others (R382, R424). -/
def State.askRemaps (s : State) (chips : List Nat) : State :=
  chips.foldl (fun t h => t.askLayout { chip := h, recovery := true, source := none, mail := 0, counter := 0, reason := 0,
                                        stage := 0, lseq := 0 }) s

/-- SELF_TEST_COMPLETE: failed cores are retired, and so is a core that failed in service; spares take their places by a
layout commit; a lost core without a spare ends its jobs (R376, R382, R383). -/
def execSelfTestComplete (s : State) : Host.Outcome State Fault Refusal :=
  match s.arg with
  | .lossFailed l failed =>
    match s.recoveryOf l with
    | none => .next s
    | some r =>
      let isCore := match l with
        | .core _ => true
        | _ => false
      if r.tested || !(r.up || isCore) then .next s
      else
        let own := match l with
          | .core n => [s.physPlace n]
          | _ => []
        let places := own ++ failed.map (fun f => (f.1, f.2.1.toNat, f.2.2.toNat))
        let s1 := places.foldl (fun t p => t.retireCore (if isCore then 2 else 1) p) s
        let chips := ((places.map Prod.fst).filter (fun h => decide (h < 400))).eraseDups
        let gone := if chips = [] then [] else r.cores.filter (fun n => !s1.backed n)
        let ended := s1.jobsOn gone
        let s2 := ended.foldl (fun t j => t.endLost l r.t0 j 0x70) s1
        let s3 := s2.modRecovery l (fun x => { x with tested := true, cores := x.cores.filter (fun n => !gone.contains n) })
        if chips = [] then .next s3 else .next ((s3.displaceCopies r (s.zoneSpares l)).askRemaps chips)
  | _ => .next s

/-! ### Restore (R376 step 4, R377) -/

/-- Whether an event on its way comes from or goes to the interfaces of lost cores: they are gone before the restore
(R378). -/
def touchesCores (cores : List Nat) (e : Event) : Bool :=
  match e.arg with
  | .msg m => cores.contains (nameCore m.dest) || cores.contains (nameCore m.source)
  | .red m => (match m.node with
    | .core n => cores.contains n
    | _ => false)
  | .code m => cores.contains m.target
  | .remote r => (match r.node, r.op with
    | .core n, .write _ _ _ _ => cores.contains n
    | _, _ => false)
  | _ => false

/-- Whether the lost cores can be restored: tested, remapped, and nothing sent to them before is on its way (R376). -/
def State.restoreReady (s : State) (r : Recovery) : Bool :=
  r.tested && !r.restored && !s.requests.any LayoutReq.recovery && !s.due.any (fun d => touchesCores r.cores d.ev) &&
    s.cores.all (fun e => e.2.retained.all (fun m => !r.cores.contains (nameCore m.2.dest)))

/-- Whether a commit of a job has passed its commit point and has not reached core `n` yet (R371, R375). -/
def State.lateFor (s : State) (n j : Nat) : Bool :=
  match s.commitUse j with
  | some u => u.phase == 2 && !u.acks.contains n
  | none => false

/-- The copy that a rank is restored from: after the commit point the new one, else the committed one (R375, R377). -/
def State.copyFor (s : State) (n j : Nat) : Option Copy :=
  let mine := fun (k : Copy) (b : Bool) => k.job == j && k.core == n && k.staging == b
  match (if s.lateFor n j then s.copies.find? (fun k => mine k true) else none) with
  | some k => some k
  | none => s.copies.find? (fun k => mine k false)

/-- Arrivals of a restored core that are taken back: those at uses still being gathered (R375). -/
def State.withdrawArrivals (s : State) (n j : Nat) : State :=
  s.modPorts n j (fun p =>
    { p with rbar := false, arrived := Vector.ofFn (fun k =>
        match p.port.get k with
        | some g => if s.uses.any (fun u => u.job == j && u.group == g && u.use == p.arrived.get k && u.phase != 2) then
            p.completed.get k else p.arrived.get k
        | none => p.arrived.get k) })

/-- A slot of a copy, out of the rotation until the release: no monitor, no bench, no hint; INSTRET and CYCLE, which no copy
holds, count from the restore (R130, R366, R377, R402). -/
def Slot.revived (sl : Slot) (t : Nat) (parked : Bool) : Slot :=
  { sl with
    run := match sl.run with
      | .off => .off
      | .halted => .halted
      | _ => .waiting .restoring
    mons := Slot.reset.mons, bench := none, capture := false, parked := parked, outstanding := 0, pending := [],
    deferred := none, readyAt := t, taking := none, yields := [], rejoinAt := none, phint := none, turnOn := none,
    cnt := { sl.cnt with instret := 0, cycleOff := BitVec.ofNat 64 t },
    st := if sl.bench.isSome then { sl.st with bend := 4, brole := 0 } else sl.st }

/-- The mirror of a restored core: its ranges, an empty log, REEXEC, NREC and LCAUSE (R372, R377). -/
def Mirror.restored (m : Mirror) (ranges : List (Nat × Nat)) (cause : BitVec 8) : Mirror :=
  { m with ranges := ranges, dirty := [], prev := rangeLines ranges, log := [], reexec := true, lcause := cause,
           nrec := if m.nrec = BitVec.allOnes 16 then m.nrec else m.nrec + 1, streamed := false }

/-- A rank written from its copy: slots, core state, mirrored words (R366, R377). -/
def State.restoreCopy (s : State) (n j : Nat) (job : Job) (k : Copy) (cause : BitVec 8) : State :=
  let c := s.core n
  let t := c.t
  let c1 := k.slots.foldl (fun (x : Core) e => x.setSlot e.1 (e.2.revived t job.parked)) c
  let c2 := { c1 with
    c := Vector.ofFn (fun i => (lookupNat i.val k.counters).getD (c1.c.get i)),
    bars := Vector.ofFn (fun i => (lookupNat i.val k.bars).getD (c1.bars.get i)),
    q := Vector.ofFn (fun i => (lookupNat i.val k.queues).getD (c1.q.get i)),
    classes := Vector.ofFn (fun i => (lookupNat i.val k.classes).getD (c1.classes.get i)),
    channels := Vector.ofFn (fun i => match lookupNat i.val k.channels with
      | some ch => { ch with waiters := [], probes := 0, resync := false, resend := [], answer := none }
      | none => c1.channels.get i),
    rows := match k.row with
      | some r => insertNat job.part.toNat r c1.rows
      | none => c1.rows,
    mirrors := c1.mirrors.map (fun m => if m.job = j then m.restored k.ranges cause else m) }
  let s1 := s.setCore n c2
  let s2 := { s1 with mem := k.cells.foldl (fun m x => Memory.set m x.1 x.2) s1.mem }
  k.full.foldl (fun t w => t.putWord w.1 w.2.1 w.2.2) s2

/-- A rank of a job none of whose rounds has committed, written as its launch wrote it (R377). -/
def State.restoreLaunch (s : State) (n j : Nat) (job : Job) (started : List SlotNo) (cause : BitVec 8) : State :=
  match s.jobImage job, s.portsOf n j with
  | some im, some p =>
    let t := (s.core n).t
    let s1 := (((s.writeData n job.part im).writeShape n job im p.port job.start).launchClasses n im).modMirror n j
      (fun m => m.restored (s.launchMirror n j im).ranges cause)
    (maskSlots job.slotMask).foldl (fun u i =>
      let sl := u.startState n i j job im
      u.setSlot n i ({ sl with run := if started.contains i then .waiting .restoring else .off, readyAt := t,
                               parked := job.parked, cnt := { sl.cnt with cycleOff := BitVec.ofNat 64 t } })) s1
  | _, _ => s.endJob j 4 0

/-- A lost core as its power-up leaves it, with what the panel keeps for the ranks that will be restored, and its matrix unit as
`State.abortMatrix` left it (R300, R377). -/
def State.freshCore (s : State) (n : Nat) : Core :=
  let c := s.core n
  { Core.reset with
    t := c.t, p := c.p, o := c.o, panelId := c.panelId, isolated := true,
    slots := c.slots.map (fun sl => { Slot.reset with job := sl.job, st := sl.st,
                                                      run := if sl.run = .off then .off else .halted }),
    ports := c.ports, mirrors := c.mirrors, mq := c.mq, tiles := c.tiles, badTiles := c.badTiles,
    lastTaken := c.lastTaken, nextCmd := c.nextCmd }

/-- A rank restored from the copy of a commit that has not reached its core: the use of gp0 is complete there, its round counted in
the copy (R371, R375). -/
def State.countLate (s : State) (n j : Nat) : State :=
  match s.commitUse j with
  | some u => if s.lateFor n j then s.modPorts n j (fun p => { p with completed := p.completed.set 0 u.use }) else s
  | none => s

/-- The slots of a restored core that stood in a bench when they were lost resume alone, with cause 4 (R130). -/
def State.endBenches (s : State) (bs : List (Nat × SlotNo)) (n : Nat) : State :=
  (bs.filter (fun b => b.1 == n)).foldl (fun t b =>
    t.modSlot n b.2 (fun sl => { sl with st := { sl.st with bend := 4, brole := 0 } })) s

/-- The slots of a restored core that a SLOTHALT still waits for are named for capture again, or answered (R347). -/
def State.renameHalts (s : State) (n : Nat) : State :=
  (List.finRange 16).foldl (fun t i =>
    if t.cores.any (fun e => e.2.slots.toList.any (fun sl => sl.wait? == some (.slotAnswer n i true))) then
      let sl := t.slot n i
      if sl.run = .off ∨ sl.run = .halted then t.answerHalts n i else t.modSlot n i (fun x => { x with capture := true })
    else t) s

/-- A lost core restored: zero but for the ranks of the jobs that recover (R376, R377). -/
def State.restoreCore (s : State) (r : Recovery) (n : Nat) : State :=
  let c := s.core n
  let jobs := r.jobs.filter (fun j => s.recovers j && s.hasRank n j)
  let s1 := (s.scrubStore n).setCore n (s.freshCore n)
  let s2 := jobs.foldl (fun t j =>
    match t.job? j with
    | none => t
    | some job =>
      let started := (List.finRange 16).filter (fun i => (c.slot i).job == some j && (c.slot i).run != .off)
      let t1 := t.withdrawArrivals n j
      match t1.copyFor n j with
      | some k => (t1.restoreCopy n j job k (lossCause r.loss)).countLate n j
      | none => t1.restoreLaunch n j job started (lossCause r.loss)) s1
  ((s2.endBenches r.benched n).modCore n (fun c => { c with isolated := false })).renameHalts n

/-! ### Resynchronisation (R376 step 5, R378, R379) -/

/-- A record begins a kind-3 and kind-4 exchange, and its sends wait (R378). -/
def State.beginResync (s : State) (n : Nat) (idx : BitVec 6) : State :=
  (s.modChan n idx (fun c => { c with resync := true, answer := none, resend := [], lastReturn := s.ptime })).syncRequest n idx

/-- Channel records of core `n` with logged messages for restored cores of the own panel (R216, R378). -/
def State.logged (s : State) (n : Nat) (cores : List Nat) : List (BitVec 6) :=
  (((s.core n).mirrors.flatMap Mirror.log).filter (fun r =>
    s.ownPanel n r.msg.dest && cores.contains (nameCore r.msg.dest))).map LogRec.idx |>.eraseDups

/-- Channel records of a restored core whose receiver lies outside the lost part (R379). -/
def State.outward (s : State) (r : Recovery) (n : Nat) : List (BitVec 6) :=
  ((List.finRange 64).filter (fun k =>
    let ch := (s.core n).channels.get k
    ch.valid && !(s.ownPanel n ch.dest && r.cores.contains (nameCore ch.dest)))).map (fun k => BitVec.ofNat 6 k.val)

/-- RECOVERY_RESTORE: the lost cores are written and answer again, and resynchronisation begins (R377 to R379). -/
def execRecoveryRestore (s : State) : Host.Outcome State Fault Refusal :=
  match s.arg with
  | .loss l =>
    match s.recoveryOf l with
    | none => .next s
    | some r =>
      if !s.restoreReady r then .next s
      else
        let s1 := r.cores.foldl (fun t n => t.restoreCore r n) s
        let s2 := ((s1.cores.map Prod.fst).filter (fun n => !r.cores.contains n)).foldl (fun t n =>
          (t.logged n r.cores).foldl (fun u k => u.beginResync n k) t) s1
        let s3 := r.cores.foldl (fun t n => (t.outward r n).foldl (fun u k => u.beginResync n k) t) s2
        .next (s3.modRecovery l (fun x => { x with restored := true }))
  | _ => .next s

/-- Whether a core is one that a recovery has restored and not yet released. -/
def State.underRestore (s : State) (n : Nat) : Bool := s.recoveries.any (fun r => r.restored && r.cores.contains n)

/-- The job whose resend log on core `n` holds messages of a record. -/
def State.loggingJob (s : State) (n : Nat) (idx : BitVec 6) : Option Nat :=
  ((s.core n).mirrors.find? (fun m => m.log.any (fun r => r.idx == idx))).map Mirror.job

/-- The bytes of a resend log written again after records were taken out of it (R373). -/
def State.rewriteLog (s : State) (n j : Nat) (job : Job) : State :=
  match s.mirrorOf n j with
  | none => s
  | some m =>
    let bs := m.log.flatMap (fun r => bytesOf 16 (logHeader r.idx r.msg) ++ payloadBytes r.msg)
    s.putWords n (some job.part) none (wordsFrom (s.logOffset n job) bs)

/-- Step 2 of R378: S less the logged records, SEQ the first logged one, C := TAIL; the log gives its messages up to be
sent again. -/
def State.rewind (s : State) (n : Nat) (idx : BitVec 6) (tail : Word) : State :=
  match s.loggingJob n idx with
  | none => s.modChan n idx (fun c => { c with resync := false, answer := none })
  | some j =>
    let recs := ((s.mirrorOf n j).map Mirror.log).getD []
    let mine := recs.filter (fun r => r.idx == idx)
    let bytes := mine.foldl (fun a r => a + recordSize r.msg.len) 0
    let s1 := s.modChan n idx (fun c =>
      { c with s := c.s - BitVec.ofNat 32 bytes, seq := ((mine.head?).map (fun r => r.msg.seq)).getD c.seq, c := tail,
               answer := none, resend := mine.map LogRec.msg })
    let ch := s.chan n idx
    let s2 := (s1.modMirror n j (fun m => { m with log := m.log.filter (fun r => r.idx != idx) })).modCore n (fun c =>
      { c with undeposited := c.undeposited.filter (· != (ch.part, ch.dest, ch.cls)) })
    match s2.job? j with
    | some job => s2.rewriteLog n j job
    | none => s2

/-- Whether a record's next logged message may be sent again: capacity, and room in the outgoing buffer (R235, R378). -/
def State.resendFits (s : State) (n : Nat) (idx : BitVec 6) : Bool :=
  let c := s.chan n idx
  match c.resend with
  | [] => false
  | m :: _ => decide ((c.s - c.c).toNat + recordSize m.len ≤ c.k.toNat) &&
      s.outRoom n m.part

/-- The next logged message sent again with its SEQ, and logged; after the last one the record's new sends go on (R378). -/
def State.resendNext (s : State) (n : Nat) (idx : BitVec 6) : State :=
  match (s.chan n idx).resend with
  | [] => s
  | m :: rest =>
    let s1 := (s.modChan n idx (fun c =>
      { (c.sent (recordSize m.len)) with resend := rest, resync := rest != [] })).noteSent n m
    let s2 := match (s1.core n).mirrors.find? (fun x => match s1.job? x.job with
        | some job => job.part == m.part
        | none => false) with
      | some mir =>
        match s1.job? mir.job with
        | some job => s1.logSend n mir.job job idx m
        | none => s1
      | none => s1
    s2.place n m

/-- RESEND_LOG_REWIND: an answered record is rewound, or, of a restored core, catches up with T (R378, R379); a rewound one
sends its next logged message. -/
def execResendLogRewind (s : State) : Host.Outcome State Fault Refusal :=
  match s.arg with
  | .channel n idx =>
    let c := s.chan n idx
    if !c.resync then .next s
    else
      match c.answer with
      | some (_, tail, t) =>
        if s.underRestore n then
          .next (s.modChan n idx (fun c =>
            if c.seq = t then { c with resync := false, answer := none, c := tail, catching := none }
            else { c with resync := false, answer := none, catching := some (t, tail) }))
        else .next (s.rewind n idx tail)
      | none => if s.resendFits n idx then .next (s.resendNext n idx) else .next s
  | _ => .next s

/-- Whether an exchange is to be sent again: no reply for 64 µs (R378). -/
def Channel.retryDue (c : Channel) (now : Nat) : Bool :=
  c.resync && c.answer.isNone && c.resend == [] && decide (c.lastReturn + syncTime ≤ now)

/-- RESYNC_RETRY (R378). -/
def execResyncRetry (s : State) : Host.Outcome State Fault Refusal :=
  match s.arg with
  | .channel n idx =>
    if (s.chan n idx).retryDue s.ptime then .next (s.beginResync n idx) else .next s
  | _ => .next s

/-! ### Release (R376 step 6, R384) -/

/-- Whether restored cores can be released: each T is known, and no phase of a commit is still on its way to them (R371,
R375, R379). -/
def State.releaseReady (s : State) (r : Recovery) : Bool :=
  r.restored && r.cores.all (fun n => (s.core n).channels.toList.all (fun ch => !ch.resync)) &&
    !s.due.any (fun d => match d.ev.arg with
      | .coreJob n _ => r.cores.contains n
      | .group m => r.cores.contains m.node
      | _ => false)

/-- TRANS of an event record: the lost part itself returned (R384). -/
def Recovery.transient (r : Recovery) : Bool :=
  match r.loss with
  | .core _ => false
  | _ => r.up

/-- RECOVERY_RELEASE: the restored slots rejoin, commits may complete, the event records are posted (R376, R384). -/
def execRecoveryRelease (s : State) : Host.Outcome State Fault Refusal :=
  match s.arg with
  | .loss l =>
    match s.recoveryOf l with
    | none => .next s
    | some r =>
      if !s.releaseReady r then .next s
      else
        let wake := fun (sl : Slot) => if sl.run = .waiting .restoring then { sl with run := .running } else sl
        let s1 := r.cores.foldl (fun t n => t.modCore n (fun c => { c with slots := c.slots.map wake })) s
        let s2 := { s1 with recoveries := s1.recoveries.erase r }
        .next ((r.jobs.filter s2.recovers).foldl (fun t j =>
          match t.job? j with
          | some job =>
            (t.modJob j (fun x => { x with recovering := x.recovering.filter (fun n => !r.cores.contains n) })).postEntry
              job.part (eventRecord r.t0 job.round job.seq (lossCore l) (t.lossZone l) false r.transient (lossCause l).toNat)
          | none => t) s2)
  | _ => .next s

/-- What recoveries can do next. -/
def State.recoveryMoves (s : State) : List Event :=
  s.recoveries.flatMap (fun r =>
    (if r.attemptDue s.ptime then
      [{ kind := .repowerAttempt, arg := .lossFlag r.loss true : Event }, { kind := .repowerAttempt, arg := .lossFlag r.loss false }]
     else []) ++
    (match r.loss with
     | .chiplet h => if !r.up && decide (r.t0 + thermalTime ≤ s.ptime) then
         [{ kind := .thermalRepowerDeadline, arg := .chip h }] else []
     | _ => []) ++
    (if !r.tested && (r.up || (match r.loss with
        | .core _ => true
        | _ => false)) then [{ kind := .selfTestComplete, arg := .lossFailed r.loss [] }] else []) ++
    (if s.restoreReady r then [{ kind := .recoveryRestore, arg := .loss r.loss }] else []) ++
    (if s.releaseReady r then [{ kind := .recoveryRelease, arg := .loss r.loss }] else []))

/-- What a core's channel records under resynchronisation can do next. -/
def State.resyncMoves (s : State) (n : Nat) : List Event :=
  (List.finRange 64).filterMap (fun k =>
    let idx : BitVec 6 := BitVec.ofNat 6 k.val
    let c := (s.core n).channels.get k
    if !c.resync then none
    else if c.answer.isSome || s.resendFits n idx then some { kind := .resendLogRewind, arg := .channel n idx }
    else if c.retryDue s.ptime then some { kind := .resyncRetry, arg := .channel n idx }
    else none)

end Sys2Proof.Machine
end

