-- ==== Sys2Proof/Machine/Special.lean ====
section
/-!
DEFINITION. The special functions, major 0x28 (R264 to R272). F(x) of R269 is an exact real rounded to 12 bits; rational
ones are computed exactly, the transcendental ones in fixed point with `fixBits` fraction bits, which decides every rounding
to 12 bits for the arguments there are (log 9).
-/
namespace Sys2Proof.Machine

/-! ### Fixed point -/

/-- Fraction bits of the fixed-point evaluations. -/
def fixBits : Nat := 640

/-- One in fixed point. -/
def fixOne : Int := 2 ^ fixBits

/-- Product in fixed point. -/
def fixMul (a b : Int) : Int := a * b / 2 ^ fixBits

/-- Σ x^k / k! for k below `n`, from the term `t` of index `k` (Taylor's series). -/
def expTerms (x : Int) : Nat → Nat → Int → Int
  | 0, _, _ => 0
  | n + 1, k, t => t + expTerms x n (k + 1) (fixMul t x / ((k : Int) + 1))

/-- Repeated squaring in fixed point. -/
def fixSquare : Nat → Int → Int
  | 0, x => x
  | n + 1, x => fixSquare n (fixMul x x)

/-- exp(x) in fixed point for |x| up to 256: the series at x / 2^10, squared ten times. -/
def fixExp (x : Int) : Int := fixSquare 10 (expTerms (x / 1024) 130 0 fixOne)

/-- Σ z^(2k+1) / (2k+1) for k below `n`, with sign `g` at each second term (artanh for 1, arctan for −1). -/
def oddTerms (z2 : Int) (g : Int) : Nat → Nat → Int → Int
  | 0, _, _ => 0
  | n + 1, k, t => t / (2 * (k : Int) + 1) + oddTerms z2 g n (k + 1) (g * fixMul t z2)

/-- ln of (256 + j) / 256 in fixed point: 2 artanh(j / (512 + j)). -/
def fixLn (j : Nat) : Int :=
  let z := fixOne * j / (512 + j)
  2 * oddTerms (fixMul z z) 1 220 0 z

/-- ln 2. -/
def fixLn2 : Int := fixLn 256

/-- arctan(1 / n) in fixed point. -/
def fixAtanInv (n : Nat) : Int :=
  let z := fixOne / n
  oddTerms (fixMul z z) (-1) 150 0 z

/-- π in fixed point, by Machin's formula. -/
def fixPi : Int := 16 * fixAtanInv 5 - 4 * fixAtanInv 239

/-- Σ (−1)^k x^(2k+c) / (2k+c)! from the term `t` of exponent `m`. -/
def trigTerms (x2 : Int) : Nat → Nat → Int → Int
  | 0, _, _ => 0
  | n + 1, m, t => t + trigTerms x2 n (m + 2) (-(fixMul t x2 / (((m : Int) + 1) * ((m : Int) + 2))))

/-- sin x in fixed point for 0 ≤ x ≤ 2π. -/
def fixSin (x : Int) : Int := trigTerms (fixMul x x) 120 1 x

/-- cos x in fixed point for 0 ≤ x ≤ 2π. -/
def fixCos (x : Int) : Int := trigTerms (fixMul x x) 120 0 fixOne

/-- The integer square root of a number below 2^(2n). -/
def sqrtBits : Nat → Nat → Nat → Nat
  | 0, _, r => r
  | n + 1, x, r => sqrtBits n x (if (r + 2 ^ n) * (r + 2 ^ n) ≤ x then r + 2 ^ n else r)

/-! ### r12 (R268) -/

/-- r12(num / den) as n × 2^e, with n of 12 bits (or 4096): nearest even at 12 significant bits (R268). -/
def r12 (num den : Nat) : Nat × Int :=
  if num = 0 then (0, 0)
  else
    let k : Int := (num.log2 : Int) - den.log2
    let scale := fun (t : Int) => if 0 ≤ t then (num * 2 ^ t.toNat, den) else (num, den * 2 ^ (-t).toNat)
    let t0 : Int := 11 - k
    let t : Int := if (scale t0).1 / (scale t0).2 < 2048 then t0 + 1 else t0
    let p := scale t
    let n := p.1 / p.2
    let r := p.1 % p.2
    let up := decide (p.2 < 2 * r) || (decide (2 * r = p.2) && decide (n % 2 = 1))
    (if up then n + 1 else n, -t)

/-- r12 of a positive fixed-point number. -/
def r12Fix (x : Int) : Nat × Int := r12 x.toNat (2 ^ fixBits)

/-! ### F(x) (R269) -/

/-- floor(x) of ±m × 2^e. -/
def floorOf (neg : Bool) (m : Nat) (e : Int) : Int :=
  let v : Int := if neg then -(m : Int) else m
  if 0 ≤ e then v * 2 ^ e.toNat else v / 2 ^ (-e).toNat

/-- 2k + 1 + 2^(b+1), the numerator of mid(m, b) over 2^(b+1) for m = mant / 2^l (R268). -/
def midNum (mant l b : Nat) : Nat := 2 ^ (b + 1) + 2 * ((mant - 2 ^ l) * 2 ^ b / 2 ^ l) + 1

/-- mid(m, 7) × 2^e in fixed point. -/
def midFix (mant l : Nat) (e : Int) : Int :=
  let x := fixOne * midNum mant l 7 / 2 ^ 8
  if 0 ≤ e then x * 2 ^ e.toNat else x / 2 ^ (-e).toNat

/-- A signed fixed-point result rounded to 12 bits. -/
def signedFix (x : Int) : Bool × Nat × Int :=
  let r := r12Fix (if x < 0 then -x else x)
  (decide (x < 0), r.1, r.2)

/-- F(x) for x = ±mant × 2^exp, finite and not zero, outside the rows of R270 (R269). The answer is a
sign, a significand and an exponent. -/
def sfuValue (op : SfuOp) (neg : Bool) (mant : Nat) (exp : Int) : Bool × Nat × Int :=
  let l := mant.log2
  let e : Int := exp + l
  match op with
  | .rcp =>
    let r := r12 (2 ^ 8) (midNum mant l 7)
    (neg, r.1, r.2 - e)
  | .rsq =>
    let c := if e % 2 = 0 then 1 else 2
    let h : Int := if e % 2 = 0 then e / 2 else (e - 1) / 2
    let k := (mant * c - 2 ^ l) * 64 / 2 ^ l
    let r := r12 (sqrtBits 70 (128 * 2 ^ 120 / (129 + 2 * k)) 0) (2 ^ 60)
    (false, r.1, r.2 - h)
  | .exp2 =>
    let q := floorOf neg mant (exp + 8)
    let r := r12Fix (fixExp (fixLn2 * (q % 256) / 256))
    (false, r.1, r.2 + q / 256)
  | .log2 =>
    let j := (mant - 2 ^ l) * 256 / 2 ^ l
    signedFix (fixOne * e + fixLn j * 2 ^ fixBits / fixLn2)
  | .tanh =>
    if e < -6 then (neg, mant, exp)
    else if 5 ≤ e then (neg, 1, 0)
    else
      let u := fixExp (-2 * midFix mant l e)
      let r := r12Fix ((fixOne - u) * 2 ^ fixBits / (fixOne + u))
      (neg, r.1, r.2)
  | .sigm =>
    if e < -24 then (false, 1, -1)
    else if 8 ≤ e then (if neg then (false, 1, -400) else (false, 1, 0))
    else
      let u := fixExp (-(midFix mant l e))
      let r := r12Fix ((if neg then u else fixOne) * 2 ^ fixBits / (fixOne + u))
      (false, r.1, r.2)
  | .sin | .cos =>
    if e < -6 then (if op = .sin then (neg, mant, exp) else (false, 1, 0))
    else
      let n : Int := (mant : Int) * 2 ^ (exp + 200).toNat * 2 ^ 12 * 2 ^ fixBits
      let q : Int := n / (2 * fixPi * 2 ^ 200)
      let v : Int := (if neg then -q - 1 else q) % 4096
      let t := 2 * fixPi * (2 * v + 1) / 8192
      signedFix (if op = .sin then fixSin t else fixCos t)

/-- Whether r = ±n × 2^k is the exact value of the function at ±mant × 2^exp: every value but these is irrational (R267). -/
def sfuExact (op : SfuOp) (neg : Bool) (mant : Nat) (exp : Int) (r : FVal) : Bool :=
  match r with
  | .fin rn n _ =>
    match op with
    | .rcp => rn == neg && decide (n ≠ 0) && (FVal.mul r (.fin neg mant exp)).1.lt (.fin false 1 0) == false &&
        (FVal.fin false 1 0).lt (FVal.mul r (.fin neg mant exp)).1 == false
    | .rsq =>
      let p := (FVal.mul (FVal.mul r r).1 (.fin neg mant exp)).1
      !p.lt (.fin false 1 0) && !(FVal.fin false 1 0).lt p
    | .exp2 =>
      let fl := floorOf neg mant exp
      let isInt := decide (FVal.lt (.fin (decide (fl < 0)) fl.natAbs 0) (.fin neg mant exp) = false)
      isInt && !r.lt (.fin false 1 fl) && !(FVal.fin false 1 fl).lt r
    | .log2 =>
      let e : Int := exp + mant.log2
      let w : FVal := .fin (decide (e < 0)) e.natAbs 0
      decide (mant = 2 ^ mant.log2) && !r.lt w && !w.lt r
    | _ => false
  | _ => false

/-- The rows of R270: the fixed results, with their flags; none where F applies. -/
def sfuFixed (op : SfuOp) (x : FVal) : Option (FVal × BitVec 5) :=
  let one : FVal := .fin false 1 0
  let half : FVal := .fin false 1 (-1)
  match x with
  | .nan _ => none
  | .inf neg =>
    match op with
    | .rcp => some (.fin neg 0 0, 0)
    | .rsq => some (if neg then (.nan false, flagNV) else (.fin false 0 0, 0))
    | .exp2 => some (if neg then .fin false 0 0 else .inf false, 0)
    | .log2 => some (if neg then (.nan false, flagNV) else (.inf false, 0))
    | .tanh => some (.fin neg 1 0, 0)
    | .sigm => some (if neg then .fin false 0 0 else one, 0)
    | .sin | .cos => some (.nan false, flagNV)
  | .fin neg m e =>
    if m = 0 then
      match op with
      | .rcp | .rsq => some (.inf neg, flagDZ)
      | .log2 => some (.inf true, flagDZ)
      | .exp2 | .cos => some (one, 0)
      | .tanh | .sin => some (.fin neg 0 0, 0)
      | .sigm => some (half, 0)
    else
      let ex : Int := e + m.log2
      match op with
      | .rcp =>
        if ex ≤ -129 then some (.inf neg, flagOF ||| flagNX)
        else if 126 ≤ ex then some (.fin neg 0 0, flagUF ||| flagNX)
        else none
      | .rsq | .log2 => if neg then some (.nan false, flagNV) else none
      | .exp2 =>
        if !neg && decide (7 ≤ ex) then some (.inf false, flagOF ||| flagNX)
        else if x.lt (.fin true 150 0) then some (.fin false 0 0, flagUF ||| flagNX)
        else none
      | _ => none

/-- One lane of a special function of type `f`: the result and the flags (R267). -/
def sfuLane (op : SfuOp) (f : Fmt) (x : Nat) : Nat × BitVec 5 :=
  let v := f.decode x
  match v with
  | .nan sig => (f.nanCode, if sig then flagNV else 0)
  | _ =>
    match sfuFixed op v with
    | some r => ((f.result 0 0 r.1).1, r.2)
    | none =>
      match v with
      | .fin neg m e =>
        let z := sfuValue op neg m e
        let r1 := fmtF32.round 0 0 false z.1 z.2.1 z.2.2
        let r2 := if f = fmtF32 then r1
          else
            let c := convert (.flt fmtF32) (.flt f) 0 0 false r1.1
            (c.1, c.2 ||| r1.2)
        let nx := if sfuExact op neg m e (f.decode r2.1) then 0 else flagNX
        (r2.1, (r2.2 &&& (flagOF ||| flagUF)) ||| nx)
      | _ => (x, 0)

/-! ### The instructions -/

/-- Whether a processor has no special-function unit: an edge core or a processor of a root chiplet (R266, R426). -/
def State.noUnits (s : State) : Bool := !s.isGrid s.curCore

/-- The requests that wait at a core's port of the special-function unit, oldest first: one per slot (R264). -/
def State.sfuQueue (s : State) (n : Nat) : List SlotNo :=
  (s.core n).sfuPort.filter (fun i => match (s.slot n i).wait? with
    | some (.sfu _) => true
    | _ => false)

/-- Whether a slot's request is the next that its port serves: the oldest one, on a core in isolated issue mode the oldest one
of its partition (R264). -/
def State.sfuNext (s : State) (n : Nat) (i : SlotNo) : Bool :=
  if s.isolatedMode n then
    (s.sfuQueue n).find? (fun k => (s.slot n k).st.partition == (s.slot n i).st.partition) == some i
  else (s.sfuQueue n).head? == some i

/-- A special-function instruction: the enabled lanes are sent and the slot leaves the rotation (R264, R265). -/
def State.sfu (s : State) (op : SfuOp) (d a : BitVec 4) (km : BitVec 3) (ty : BitVec 5) (word : Nat) : State :=
  if s.noUnits then s.illegal word
  else
    let s1 := s.modHere (fun c => { c with sfuPort := c.sfuPort.filter (fun i => i != s.curSlot) ++ [s.curSlot] })
    s1.park (.sfu { op := op, d := d, src := s.getV a, mask := s.getK km, ty := ty })

/-- VRCP (R269). -/
def execVrcp (d a : BitVec 4) (km : BitVec 3) (ty : BitVec 5) (s : State) : Host.Outcome State Fault Refusal :=
  .next (s.sfu .rcp d a km ty (wordOf (.vrcp d a km ty)))
/-- VRSQ (R269). -/
def execVrsq (d a : BitVec 4) (km : BitVec 3) (ty : BitVec 5) (s : State) : Host.Outcome State Fault Refusal :=
  .next (s.sfu .rsq d a km ty (wordOf (.vrsq d a km ty)))
/-- VEXP2 (R269). -/
def execVexp2 (d a : BitVec 4) (km : BitVec 3) (ty : BitVec 5) (s : State) : Host.Outcome State Fault Refusal :=
  .next (s.sfu .exp2 d a km ty (wordOf (.vexp2 d a km ty)))
/-- VLOG2 (R269). -/
def execVlog2 (d a : BitVec 4) (km : BitVec 3) (ty : BitVec 5) (s : State) : Host.Outcome State Fault Refusal :=
  .next (s.sfu .log2 d a km ty (wordOf (.vlog2 d a km ty)))
/-- VTANH (R269). -/
def execVtanh (d a : BitVec 4) (km : BitVec 3) (ty : BitVec 5) (s : State) : Host.Outcome State Fault Refusal :=
  .next (s.sfu .tanh d a km ty (wordOf (.vtanh d a km ty)))
/-- VSIGM (R269). -/
def execVsigm (d a : BitVec 4) (km : BitVec 3) (ty : BitVec 5) (s : State) : Host.Outcome State Fault Refusal :=
  .next (s.sfu .sigm d a km ty (wordOf (.vsigm d a km ty)))
/-- VSIN (R269). -/
def execVsin (d a : BitVec 4) (km : BitVec 3) (ty : BitVec 5) (s : State) : Host.Outcome State Fault Refusal :=
  .next (s.sfu .sin d a km ty (wordOf (.vsin d a km ty)))
/-- VCOS (R269). -/
def execVcos (d a : BitVec 4) (km : BitVec 3) (ty : BitVec 5) (s : State) : Host.Outcome State Fault Refusal :=
  .next (s.sfu .cos d a km ty (wordOf (.vcos d a km ty)))

/-- A special-function result written to its slot: enabled lanes and FFLAGS; the instruction is complete (R265, R267). -/
def State.sfuDone (s : State) (n : Nat) (i : SlotNo) (r : SfuReq) : State :=
  let w := widthOf r.ty
  let sl := s.slot n i
  let out := mapLanes w (lanesOf r.ty) r.mask (sl.getV r.d) (fun j => sfuLane r.op (vecFmt r.ty) (lane w j r.src))
  let sl1 := sl.setV r.d out.1
  (s.setSlot n i { sl1 with fp := { sl1.fp with fflags := sl1.fp.fflags ||| out.2 }, ilen := 4 }).completeSlot n i

/-- SPECIAL_FUNCTION_RESULT: the result of the port's next request returns, or it is lost on the ring and the instruction
faults 0x40 (R264, R265, R271). -/
def execSpecialFunctionResult (s : State) : Host.Outcome State Fault Refusal :=
  match s.arg with
  | .slotFlag n i bad =>
    match (s.slot n i).wait? with
    | some (.sfu r) =>
      if (s.core n).isolated || !s.sfuNext n i then .next s
      else if bad then .next (s.answerFault n i 0x40 s.noAddr)
      else .next (s.sfuDone n i r)
    | _ => .next s
  | _ => .next s

end Sys2Proof.Machine
end

