-- ==== Sys2Proof/Machine/Dispatch.lean ====
section
/-!
DEFINITION. Dispatch: one arm per row of the table of operations and events, each a call of its meaning.
-/
namespace Sys2Proof.Machine

/-- The meaning of an instruction or of a step that is no instruction. -/
def exec (i : Instr) (s : State) : Host.Outcome State Fault Refusal :=
  match i with
  | .add d a b => Sys2Proof.Machine.execAdd d a b s
  | .sub d a b => Sys2Proof.Machine.execSub d a b s
  | .and d a b => Sys2Proof.Machine.execAnd d a b s
  | .or d a b => Sys2Proof.Machine.execOr d a b s
  | .xor d a b => Sys2Proof.Machine.execXor d a b s
  | .andn d a b => Sys2Proof.Machine.execAndn d a b s
  | .mul d a b => Sys2Proof.Machine.execMul d a b s
  | .mulhS d a b => Sys2Proof.Machine.execMulhS d a b s
  | .mulhN d a b => Sys2Proof.Machine.execMulhN d a b s
  | .divS d a b => Sys2Proof.Machine.execDivS d a b s
  | .divN d a b => Sys2Proof.Machine.execDivN d a b s
  | .remS d a b => Sys2Proof.Machine.execRemS d a b s
  | .remN d a b => Sys2Proof.Machine.execRemN d a b s
  | .minS d a b => Sys2Proof.Machine.execMinS d a b s
  | .minN d a b => Sys2Proof.Machine.execMinN d a b s
  | .maxS d a b => Sys2Proof.Machine.execMaxS d a b s
  | .maxN d a b => Sys2Proof.Machine.execMaxN d a b s
  | .seq d a b => Sys2Proof.Machine.execSeq d a b s
  | .sne d a b => Sys2Proof.Machine.execSne d a b s
  | .sltS d a b => Sys2Proof.Machine.execSltS d a b s
  | .sltN d a b => Sys2Proof.Machine.execSltN d a b s
  | .shl d a b => Sys2Proof.Machine.execShl d a b s
  | .shr d a b => Sys2Proof.Machine.execShr d a b s
  | .sar d a b => Sys2Proof.Machine.execSar d a b s
  | .rol d a b => Sys2Proof.Machine.execRol d a b s
  | .addw d a b => Sys2Proof.Machine.execAddw d a b s
  | .subw d a b => Sys2Proof.Machine.execSubw d a b s
  | .mulw d a b => Sys2Proof.Machine.execMulw d a b s
  | .addi d a imm => Sys2Proof.Machine.execAddi d a imm s
  | .andi d a imm => Sys2Proof.Machine.execAndi d a imm s
  | .ori d a imm => Sys2Proof.Machine.execOri d a imm s
  | .xori d a imm => Sys2Proof.Machine.execXori d a imm s
  | .sltiS d a imm => Sys2Proof.Machine.execSltiS d a imm s
  | .sltiN d a imm => Sys2Proof.Machine.execSltiN d a imm s
  | .shli d a sc => Sys2Proof.Machine.execShli d a sc s
  | .shri d a sc => Sys2Proof.Machine.execShri d a sc s
  | .sari d a sc => Sys2Proof.Machine.execSari d a sc s
  | .lih d imm => Sys2Proof.Machine.execLih d imm s
  | .lit d imm => Sys2Proof.Machine.execLit d imm s
  | .clz d a => Sys2Proof.Machine.execClz d a s
  | .ctz d a => Sys2Proof.Machine.execCtz d a s
  | .popc d a => Sys2Proof.Machine.execPopc d a s
  | .brev d a => Sys2Proof.Machine.execBrev d a s
  | .bswap d a => Sys2Proof.Machine.execBswap d a s
  | .sel d a b cc => Sys2Proof.Machine.execSel d a b cc s
  | .bfx d a pos ln => Sys2Proof.Machine.execBfx d a pos ln s
  | .bfi d a pos ln => Sys2Proof.Machine.execBfi d a pos ln s
  | .lea d a b sc => Sys2Proof.Machine.execLea d a b sc s
  | .slice d a b num => Sys2Proof.Machine.execSlice d a b num s
  | .beq a b off => Sys2Proof.Machine.execBeq a b off s
  | .bne a b off => Sys2Proof.Machine.execBne a b off s
  | .blt a b off => Sys2Proof.Machine.execBlt a b off s
  | .bge a b off => Sys2Proof.Machine.execBge a b off s
  | .bltn a b off => Sys2Proof.Machine.execBltn a b off s
  | .bgen a b off => Sys2Proof.Machine.execBgen a b off s
  | .jal d off => Sys2Proof.Machine.execJal d off s
  | .jalr d a imm => Sys2Proof.Machine.execJalr d a imm s
  | .loop a off => Sys2Proof.Machine.execLoop a off s
  | .loopi off cc => Sys2Proof.Machine.execLoopi off cc s
  | .lbrk => Sys2Proof.Machine.execLbrk s
  | .bench num => Sys2Proof.Machine.execBench num s
  | .benchF num => Sys2Proof.Machine.execBenchF num s
  | .split => Sys2Proof.Machine.execSplit s
  | .bxch d a row => Sys2Proof.Machine.execBxch d a row s
  | .ldS8 d a imm => Sys2Proof.Machine.execLdS8 d a imm s
  | .ldN8 d a imm => Sys2Proof.Machine.execLdN8 d a imm s
  | .ldS16 d a imm => Sys2Proof.Machine.execLdS16 d a imm s
  | .ldN16 d a imm => Sys2Proof.Machine.execLdN16 d a imm s
  | .ldS32 d a imm => Sys2Proof.Machine.execLdS32 d a imm s
  | .ldN32 d a imm => Sys2Proof.Machine.execLdN32 d a imm s
  | .ld64 d a imm => Sys2Proof.Machine.execLd64 d a imm s
  | .st8 b a imm => Sys2Proof.Machine.execSt8 b a imm s
  | .st16 b a imm => Sys2Proof.Machine.execSt16 b a imm s
  | .st32 b a imm => Sys2Proof.Machine.execSt32 b a imm s
  | .st64 b a imm => Sys2Proof.Machine.execSt64 b a imm s
  | .ldx d a b sz gr sh => Sys2Proof.Machine.execLdx d a b sz gr sh s
  | .stx d a b sz sh => Sys2Proof.Machine.execStx d a b sz sh s
  | .vld d a km sz off => Sys2Proof.Machine.execVld d a km sz off s
  | .vst d a km sz off => Sys2Proof.Machine.execVst d a km sz off s
  | .vlds d a km sz b => Sys2Proof.Machine.execVlds d a km sz b s
  | .vsts d a km sz b => Sys2Proof.Machine.execVsts d a km sz b s
  | .vgth d a b km sz sh => Sys2Proof.Machine.execVgth d a b km sz sh s
  | .vsct d a b km sz sh => Sys2Proof.Machine.execVsct d a b km sz sh s
  | .ldf d a imm => Sys2Proof.Machine.execLdf d a imm s
  | .ldfC d a imm => Sys2Proof.Machine.execLdfC d a imm s
  | .stf b a imm => Sys2Proof.Machine.execStf b a imm s
  | .feclr b a => Sys2Proof.Machine.execFeclr b a s
  | .ldaq d a sc sz off => Sys2Proof.Machine.execLdaq d a sc sz off s
  | .strl d a sc sz off => Sys2Proof.Machine.execStrl d a sc sz off s
  | .fence sc => Sys2Proof.Machine.execFence sc s
  | .fenceAcq sc => Sys2Proof.Machine.execFenceAcq sc s
  | .fenceRel sc => Sys2Proof.Machine.execFenceRel sc s
  | .pref ln a imm => Sys2Proof.Machine.execPref ln a imm s
  | .ncinv a imm => Sys2Proof.Machine.execNcinv a imm s
  | .cinv a imm => Sys2Proof.Machine.execCinv a imm s
  | .amoAdd d a b sz off sc => Sys2Proof.Machine.execAmoAdd d a b sz off sc s
  | .amoAnd d a b sz off sc => Sys2Proof.Machine.execAmoAnd d a b sz off sc s
  | .amoOr d a b sz off sc => Sys2Proof.Machine.execAmoOr d a b sz off sc s
  | .amoXor d a b sz off sc => Sys2Proof.Machine.execAmoXor d a b sz off sc s
  | .amoMinS d a b sz off sc => Sys2Proof.Machine.execAmoMinS d a b sz off sc s
  | .amoMinN d a b sz off sc => Sys2Proof.Machine.execAmoMinN d a b sz off sc s
  | .amoMaxS d a b sz off sc => Sys2Proof.Machine.execAmoMaxS d a b sz off sc s
  | .amoMaxN d a b sz off sc => Sys2Proof.Machine.execAmoMaxN d a b sz off sc s
  | .amoSwap d a b sz off sc => Sys2Proof.Machine.execAmoSwap d a b sz off sc s
  | .amoCas d a b sz off sc => Sys2Proof.Machine.execAmoCas d a b sz off sc s
  | .amoFaddF32 d a b off sc => Sys2Proof.Machine.execAmoFaddF32 d a b off sc s
  | .amoFaddBf16x2 d a b off sc => Sys2Proof.Machine.execAmoFaddBf16x2 d a b off sc s
  | .amoFmaxF32 d a b off sc => Sys2Proof.Machine.execAmoFmaxF32 d a b off sc s
  | .redAdd a b sz off sc => Sys2Proof.Machine.execRedAdd a b sz off sc s
  | .redAnd a b sz off sc => Sys2Proof.Machine.execRedAnd a b sz off sc s
  | .redOr a b sz off sc => Sys2Proof.Machine.execRedOr a b sz off sc s
  | .redXor a b sz off sc => Sys2Proof.Machine.execRedXor a b sz off sc s
  | .redMinS a b sz off sc => Sys2Proof.Machine.execRedMinS a b sz off sc s
  | .redMinN a b sz off sc => Sys2Proof.Machine.execRedMinN a b sz off sc s
  | .redMaxS a b sz off sc => Sys2Proof.Machine.execRedMaxS a b sz off sc s
  | .redMaxN a b sz off sc => Sys2Proof.Machine.execRedMaxN a b sz off sc s
  | .redFaddF32 a b off sc => Sys2Proof.Machine.execRedFaddF32 a b off sc s
  | .redFaddBf16x2 a b off sc => Sys2Proof.Machine.execRedFaddBf16x2 a b off sc s
  | .redFmaxF32 a b off sc => Sys2Proof.Machine.execRedFmaxF32 a b off sc s
  | .marm md a imm => Sys2Proof.Machine.execMarm md a imm s
  | .mwait d a => Sys2Proof.Machine.execMwait d a s
  | .mdisarm md => Sys2Proof.Machine.execMdisarm md s
  | .mdisarmAll => Sys2Proof.Machine.execMdisarmAll s
  | .bar cc num => Sys2Proof.Machine.execBar cc num s
  | .bara cc num => Sys2Proof.Machine.execBara cc num s
  | .barw num => Sys2Proof.Machine.execBarw num s
  | .gbar pos => Sys2Proof.Machine.execGbar pos s
  | .cwait d a b num => Sys2Proof.Machine.execCwait d a b num s
  | .cadd a num => Sys2Proof.Machine.execCadd a num s
  | .cset a num => Sys2Proof.Machine.execCset a num s
  | .crd d num => Sys2Proof.Machine.execCrd d num s
  | .send d a sc num => Sys2Proof.Machine.execSend d a sc num s
  | .sendm d a b sc => Sys2Proof.Machine.execSendm d a b sc s
  | .sendl d b sc => Sys2Proof.Machine.execSendl d b sc s
  | .mrecv d a => Sys2Proof.Machine.execMrecv d a s
  | .nlook d a => Sys2Proof.Machine.execNlook d a s
  | .ninv a => Sys2Proof.Machine.execNinv a s
  | .qget d qn => Sys2Proof.Machine.execQget d qn s
  | .qput a qn => Sys2Proof.Machine.execQput a qn s
  | .vqget d qn => Sys2Proof.Machine.execVqget d qn s
  | .vqput a qn => Sys2Proof.Machine.execVqput a qn s
  | .qstat d qn => Sys2Proof.Machine.execQstat d qn s
  | .clsw a cc => Sys2Proof.Machine.execClsw a cc s
  | .chfree a cc => Sys2Proof.Machine.execChfree a cc s
  | .chsync d a => Sys2Proof.Machine.execChsync d a s
  | .vadd d a b km ty sc => Sys2Proof.Machine.execVadd d a b km ty sc s
  | .vsub d a b km ty sc => Sys2Proof.Machine.execVsub d a b km ty sc s
  | .vmul d a b km ty sc => Sys2Proof.Machine.execVmul d a b km ty sc s
  | .vmulh d a b km ty => Sys2Proof.Machine.execVmulh d a b km ty s
  | .vmin d a b km ty => Sys2Proof.Machine.execVmin d a b km ty s
  | .vmax d a b km ty => Sys2Proof.Machine.execVmax d a b km ty s
  | .vabs d a km ty sc => Sys2Proof.Machine.execVabs d a km ty sc s
  | .vneg d a km ty sc => Sys2Proof.Machine.execVneg d a km ty sc s
  | .vfma d a b km ty => Sys2Proof.Machine.execVfma d a b km ty s
  | .vfms d a b km ty => Sys2Proof.Machine.execVfms d a b km ty s
  | .vfnma d a b km ty => Sys2Proof.Machine.execVfnma d a b km ty s
  | .vdot d a b km ty => Sys2Proof.Machine.execVdot d a b km ty s
  | .vand d a b km ty => Sys2Proof.Machine.execVand d a b km ty s
  | .vor d a b km ty => Sys2Proof.Machine.execVor d a b km ty s
  | .vxor d a b km ty => Sys2Proof.Machine.execVxor d a b km ty s
  | .vnot d a km ty => Sys2Proof.Machine.execVnot d a km ty s
  | .vshl d a b km ty => Sys2Proof.Machine.execVshl d a b km ty s
  | .vshr d a b km ty => Sys2Proof.Machine.execVshr d a b km ty s
  | .vsar d a b km ty => Sys2Proof.Machine.execVsar d a b km ty s
  | .vcmp kd a b km ty pos => Sys2Proof.Machine.execVcmp kd a b km ty pos s
  | .vsel d a b km ty => Sys2Proof.Machine.execVsel d a b km ty s
  | .vmov d a km ty => Sys2Proof.Machine.execVmov d a km ty s
  | .vcvt d a row sc km ty fl => Sys2Proof.Machine.execVcvt d a row sc km ty fl s
  | .vperm d a b km ty => Sys2Proof.Machine.execVperm d a b km ty s
  | .vshuf d a b km ty => Sys2Proof.Machine.execVshuf d a b km ty s
  | .vbcst d gr ty => Sys2Proof.Machine.execVbcst d gr ty s
  | .vins d gr ln ty => Sys2Proof.Machine.execVins d gr ln ty s
  | .vext gr a ln ty => Sys2Proof.Machine.execVext gr a ln ty s
  | .vli d imm md => Sys2Proof.Machine.execVli d imm md s
  | .vred d a km ty off => Sys2Proof.Machine.execVred d a km ty off s
  | .kand d a b => Sys2Proof.Machine.execKand d a b s
  | .kor d a b => Sys2Proof.Machine.execKor d a b s
  | .kxor d a b => Sys2Proof.Machine.execKxor d a b s
  | .knot d a => Sys2Proof.Machine.execKnot d a s
  | .kmovKK d a => Sys2Proof.Machine.execKmovKK d a s
  | .kpop gr a => Sys2Proof.Machine.execKpop gr a s
  | .kmovKG d gr => Sys2Proof.Machine.execKmovKG d gr s
  | .kmovGK gr a => Sys2Proof.Machine.execKmovGK gr a s
  | .vcls d a km ty => Sys2Proof.Machine.execVcls d a km ty s
  | .vscale d a b km ty => Sys2Proof.Machine.execVscale d a b km ty s
  | .vrcp d a km ty => Sys2Proof.Machine.execVrcp d a km ty s
  | .vrsq d a km ty => Sys2Proof.Machine.execVrsq d a km ty s
  | .vexp2 d a km ty => Sys2Proof.Machine.execVexp2 d a km ty s
  | .vlog2 d a km ty => Sys2Proof.Machine.execVlog2 d a km ty s
  | .vtanh d a km ty => Sys2Proof.Machine.execVtanh d a km ty s
  | .vsigm d a km ty => Sys2Proof.Machine.execVsigm d a km ty s
  | .vsin d a km ty => Sys2Proof.Machine.execVsin d a km ty s
  | .vcos d a km ty => Sys2Proof.Machine.execVcos d a km ty s
  | .mcmd a qn => Sys2Proof.Machine.execMcmd a qn s
  | .mresume qn => Sys2Proof.Machine.execMresume qn s
  | .mabort qn => Sys2Proof.Machine.execMabort qn s
  | .mstat d qn => Sys2Proof.Machine.execMstat d qn s
  | .mmap a b qn => Sys2Proof.Machine.execMmap a b qn s
  | .mmov d ty row => Sys2Proof.Machine.execMmov d ty row s
  | .mmovw d ty row => Sys2Proof.Machine.execMmovw d ty row s
  | .cpy d a b num fl cc => Sys2Proof.Machine.execCpy d a b num fl cc s
  | .cpys qn a b num cc => Sys2Proof.Machine.execCpys qn a b num cc s
  | .cpy2d a num fl cc => Sys2Proof.Machine.execCpy2d a num fl cc s
  | .coll a off pos => Sys2Proof.Machine.execColl a off pos s
  | .ecfg a tm => Sys2Proof.Machine.execEcfg a tm s
  | .etrig tm => Sys2Proof.Machine.execEtrig tm s
  | .wpush a b => Sys2Proof.Machine.execWpush a b s
  | .wpop d b => Sys2Proof.Machine.execWpop d b s
  | .wquiet d pos => Sys2Proof.Machine.execWquiet d pos s
  | .wlvl d a => Sys2Proof.Machine.execWlvl d a s
  | .trap imm => Sys2Proof.Machine.execTrap imm s
  | .eret => Sys2Proof.Machine.execEret s
  | .upret => Sys2Proof.Machine.execUpret s
  | .crr d imm => Sys2Proof.Machine.execCrr d imm s
  | .crw d a imm => Sys2Proof.Machine.execCrw d a imm s
  | .yield => Sys2Proof.Machine.execYield s
  | .halt => Sys2Proof.Machine.execHalt s
  | .slotgo a b => Sys2Proof.Machine.execSlotgo a b s
  | .slothalt a => Sys2Proof.Machine.execSlothalt a s
  | .istw a b => Sys2Proof.Machine.execIstw a b s
  | .plbinv a => Sys2Proof.Machine.execPlbinv a s
  | .csave a => Sys2Proof.Machine.execCsave a s
  | .crest a => Sys2Proof.Machine.execCrest a s
  | .rbar => Sys2Proof.Machine.execRbar s
  | .miradd a b => Sys2Proof.Machine.execMiradd a b s
  | .mirdel a b => Sys2Proof.Machine.execMirdel a b s
  | .rstat d => Sys2Proof.Machine.execRstat d s
  | .phint sh => Sys2Proof.Machine.execPhint sh s
  | .pcapw a => Sys2Proof.Machine.execPcapw a s
  | .shedw a => Sys2Proof.Machine.execShedw a s
  | .illegalInstruction long word => Sys2Proof.Machine.execIllegalInstruction long word s
  | .compactForm form => Sys2Proof.Machine.execCompactForm form s
  | .fetchFault addr bad => Sys2Proof.Machine.execFetchFault addr bad s
  | .benchFormationTimeout => Sys2Proof.Machine.execBenchFormationTimeout s
  | .redArrival => Sys2Proof.Machine.execRedArrival s
  | .hostAtomicCompletion => Sys2Proof.Machine.execHostAtomicCompletion s
  | .mwaitTimeout => Sys2Proof.Machine.execMwaitTimeout s
  | .groupArrivalMessage => Sys2Proof.Machine.execGroupArrivalMessage s
  | .groupCompletionMessage => Sys2Proof.Machine.execGroupCompletionMessage s
  | .cwaitTimeout => Sys2Proof.Machine.execCwaitTimeout s
  | .messageArrival => Sys2Proof.Machine.execMessageArrival s
  | .heldMessageDeposit => Sys2Proof.Machine.execHeldMessageDeposit s
  | .holdTimeout => Sys2Proof.Machine.execHoldTimeout s
  | .messageRefusal => Sys2Proof.Machine.execMessageRefusal s
  | .refusalResend => Sys2Proof.Machine.execRefusalResend s
  | .nameTableWalk => Sys2Proof.Machine.execNameTableWalk s
  | .channelReturnArrival => Sys2Proof.Machine.execChannelReturnArrival s
  | .channelProbe => Sys2Proof.Machine.execChannelProbe s
  | .channelProbeArrival => Sys2Proof.Machine.execChannelProbeArrival s
  | .chsyncRequestArrival => Sys2Proof.Machine.execChsyncRequestArrival s
  | .chsyncReplyArrival => Sys2Proof.Machine.execChsyncReplyArrival s
  | .chsyncTimeout => Sys2Proof.Machine.execChsyncTimeout s
  | .flowDepositAck => Sys2Proof.Machine.execFlowDepositAck s
  | .qcfgWrite => Sys2Proof.Machine.execQcfgWrite s
  | .specialFunctionResult => Sys2Proof.Machine.execSpecialFunctionResult s
  | .matrixCommandStart => Sys2Proof.Machine.execMatrixCommandStart s
  | .matrixKstep => Sys2Proof.Machine.execMatrixKstep s
  | .matrixCommandComplete => Sys2Proof.Machine.execMatrixCommandComplete s
  | .matrixStateError => Sys2Proof.Machine.execMatrixStateError s
  | .stsprRowArrival => Sys2Proof.Machine.execStsprRowArrival s
  | .stsprClosingArrival => Sys2Proof.Machine.execStsprClosingArrival s
  | .copyPiece => Sys2Proof.Machine.execCopyPiece s
  | .copyComplete => Sys2Proof.Machine.execCopyComplete s
  | .collUnitTransfer => Sys2Proof.Machine.execCollUnitTransfer s
  | .collUseComplete => Sys2Proof.Machine.execCollUseComplete s
  | .collBadData => Sys2Proof.Machine.execCollBadData s
  | .termFire => Sys2Proof.Machine.execTermFire s
  | .levellingInterval => Sys2Proof.Machine.execLevellingInterval s
  | .workItemsArrival => Sys2Proof.Machine.execWorkItemsArrival s
  | .workItemsReturn => Sys2Proof.Machine.execWorkItemsReturn s
  | .wquietQuiescent => Sys2Proof.Machine.execWquietQuiescent s
  | .wlcfgWrite => Sys2Proof.Machine.execWlcfgWrite s
  | .asyncCauseEntry => Sys2Proof.Machine.execAsyncCauseEntry s
  | .timerInterrupt => Sys2Proof.Machine.execTimerInterrupt s
  | .slotRejoin => Sys2Proof.Machine.execSlotRejoin s
  | .fncfgWrite => Sys2Proof.Machine.execFncfgWrite s
  | .slotgoArrival => Sys2Proof.Machine.execSlotgoArrival s
  | .slothaltArrival => Sys2Proof.Machine.execSlothaltArrival s
  | .istwArrival => Sys2Proof.Machine.execIstwArrival s
  | .plbinvAck => Sys2Proof.Machine.execPlbinvAck s
  | .completionNoticeArrival => Sys2Proof.Machine.execCompletionNoticeArrival s
  | .noticeReturn => Sys2Proof.Machine.execNoticeReturn s
  | .handoverCommand => Sys2Proof.Machine.execHandoverCommand s
  | .slotCapture => Sys2Proof.Machine.execSlotCapture s
  | .bankExchange => Sys2Proof.Machine.execBankExchange s
  | .handoverComplete => Sys2Proof.Machine.execHandoverComplete s
  | .roundStream => Sys2Proof.Machine.execRoundStream s
  | .mirrorStreamComplete => Sys2Proof.Machine.execMirrorStreamComplete s
  | .commitPoint => Sys2Proof.Machine.execCommitPoint s
  | .roundCommit => Sys2Proof.Machine.execRoundCommit s
  | .recoveryBegin => Sys2Proof.Machine.execRecoveryBegin s
  | .repowerAttempt => Sys2Proof.Machine.execRepowerAttempt s
  | .powerGood => Sys2Proof.Machine.execPowerGood s
  | .selfTestComplete => Sys2Proof.Machine.execSelfTestComplete s
  | .recoveryRestore => Sys2Proof.Machine.execRecoveryRestore s
  | .resendLogRewind => Sys2Proof.Machine.execResendLogRewind s
  | .resyncRetry => Sys2Proof.Machine.execResyncRetry s
  | .recoveryRelease => Sys2Proof.Machine.execRecoveryRelease s
  | .containmentEvent => Sys2Proof.Machine.execContainmentEvent s
  | .shedDeadlineExpiry => Sys2Proof.Machine.execShedDeadlineExpiry s
  | .coreRetention => Sys2Proof.Machine.execCoreRetention s
  | .budgetTick => Sys2Proof.Machine.execBudgetTick s
  | .telemetryFrame => Sys2Proof.Machine.execTelemetryFrame s
  | .frameLossTimeout => Sys2Proof.Machine.execFrameLossTimeout s
  | .telemetryEcho => Sys2Proof.Machine.execTelemetryEcho s
  | .currentStepSample => Sys2Proof.Machine.execCurrentStepSample s
  | .riseHeld => Sys2Proof.Machine.execRiseHeld s
  | .senseClr => Sys2Proof.Machine.execSenseClr s
  | .degrClear => Sys2Proof.Machine.execDegrClear s
  | .zoneTrip => Sys2Proof.Machine.execZoneTrip s
  | .phaseFailure => Sys2Proof.Machine.execPhaseFailure s
  | .thermalClamp => Sys2Proof.Machine.execThermalClamp s
  | .thermalPark => Sys2Proof.Machine.execThermalPark s
  | .thermalShutdown => Sys2Proof.Machine.execThermalShutdown s
  | .clampLift => Sys2Proof.Machine.execClampLift s
  | .thermalRestart => Sys2Proof.Machine.execThermalRestart s
  | .registerWrite => Sys2Proof.Machine.execRegisterWrite s
  | .remoteRequest => Sys2Proof.Machine.execRemoteRequest s
  | .remoteReply => Sys2Proof.Machine.execRemoteReply s
  | .writeAck => Sys2Proof.Machine.execWriteAck s
  | .plbWalk => Sys2Proof.Machine.execPlbWalk s
  | .translationWalk => Sys2Proof.Machine.execTranslationWalk s
  | .writeThroughDrain => Sys2Proof.Machine.execWriteThroughDrain s
  | .waitTableRefusal => Sys2Proof.Machine.execWaitTableRefusal s
  | .feclrComplete => Sys2Proof.Machine.execFeclrComplete s
  | .jobLaunch => Sys2Proof.Machine.execJobLaunch s
  | .placementWaitExpiry => Sys2Proof.Machine.execPlacementWaitExpiry s
  | .jobComplete => Sys2Proof.Machine.execJobComplete s
  | .launchRecordRead => Sys2Proof.Machine.execLaunchRecordRead s
  | .submit => Sys2Proof.Machine.execSubmit s
  | .wqcfg => Sys2Proof.Machine.execWqcfg s
  | .queueOwnershipWrite => Sys2Proof.Machine.execQueueOwnershipWrite s
  | .partlink => Sys2Proof.Machine.execPartlink s
  | .notify => Sys2Proof.Machine.execNotify s
  | .fqhead => Sys2Proof.Machine.execFqhead s
  | .faultPostArrival => Sys2Proof.Machine.execFaultPostArrival s
  | .snapctl => Sys2Proof.Machine.execSnapctl s
  | .lockInterface => Sys2Proof.Machine.execLockInterface s
  | .startInterface => Sys2Proof.Machine.execStartInterface s
  | .stopInterface => Sys2Proof.Machine.execStopInterface s
  | .functionLevelReset => Sys2Proof.Machine.execFunctionLevelReset s
  | .tdispViolation => Sys2Proof.Machine.execTdispViolation s
  | .getMeasurements => Sys2Proof.Machine.execGetMeasurements s
  | .hostAtomicop => Sys2Proof.Machine.execHostAtomicop s
  | .opticalFrameReceive => Sys2Proof.Machine.execOpticalFrameReceive s
  | .opticalReplayTimeout => Sys2Proof.Machine.execOpticalReplayTimeout s
  | .opticalPortUp => Sys2Proof.Machine.execOpticalPortUp s
  | .layoutbell => Sys2Proof.Machine.execLayoutbell s
  | .layoutReply => Sys2Proof.Machine.execLayoutReply s
  | .commit => Sys2Proof.Machine.execCommit s
  | .meshTick => Sys2Proof.Machine.execMeshTick s
  | .busyClear => Sys2Proof.Machine.execBusyClear s
  | .journalReconcile => Sys2Proof.Machine.execJournalReconcile s
  | .retirementAppend => Sys2Proof.Machine.execRetirementAppend s
  | .bootLogRead => Sys2Proof.Machine.execBootLogRead s
  | .watchdogExpiry => Sys2Proof.Machine.execWatchdogExpiry s
  | .wdog => Sys2Proof.Machine.execWdog s
  | .firmwareImageLoad => Sys2Proof.Machine.execFirmwareImageLoad s
  | .unexplainedStepDrop => Sys2Proof.Machine.execUnexplainedStepDrop s
  | .thermalRepowerDeadline => Sys2Proof.Machine.execThermalRepowerDeadline s
  | .panelPowerLoss => Sys2Proof.Machine.execPanelPowerLoss s
  | .hostMemoryRequest => Sys2Proof.Machine.execHostMemoryRequest s
  | .scrubberPass => Sys2Proof.Machine.execScrubberPass s
  | .mwaitTcmpInterrupt => Sys2Proof.Machine.execMwaitTcmpInterrupt s
  | .frameTableWrite => Sys2Proof.Machine.execFrameTableWrite s

end Sys2Proof.Machine
end

