-- ==== Sys2Proof/Machine/Moves.lean ====
section
/-!
DEFINITION. The moves the panel can make next: packets that may be delivered, the next act of the outside world, steps of
engines whose condition holds, and a clock cycle of a core with a started slot. Which one comes is not fixed (log 4).
-/
namespace Sys2Proof.Machine

/-- A move: a clock cycle of a core, an entry of the waiting steps, the next input, or a step whose condition holds. -/
inductive Move where
  | cycle (n : Nat)
  | due (k : Nat)
  | input
  | event (e : Event)
  deriving DecidableEq, Repr

/-- Whether a store to the panel control space is being performed: the accesses after it wait. -/
def State.controlBusy (s : State) : Bool :=
  s.due.any (fun d => d.path.isSome && (match d.ev.kind with
    | .registerWrite | .layoutbell | .wdog => true
    | _ => false))

/-- Whether a launch's SLOTGO names a slot that a handover has saved before it started: it waits for the slot's restore, so that
every slot of the job starts (R40; DESIGN CHOICE, log 14). -/
def State.savedUnstarted (s : State) (m : SlotMsg) : Bool :=
  s.contexts.any (fun x => x.core == m.target && x.slots.any (fun e => e.1 == m.tslot && e.2.job == some m.job))

/-- Whether a waiting step must wait: for a store to the panel control space, for a handover at its destination, for the restore
of an isolated core, or for the recovery of a core that has stopped (R240, R358, R375, R376, R380). -/
def State.blocked (s : State) (d : Due) : Bool :=
  (match d.path with
   | some (_, _, dst) => s.dying dst
   | none => false) ||
  match d.ev.arg with
  | .remote r =>
    (r.node == .control && s.controlBusy) ||
    (match r.node with
     | .core n => s.holdsFor n r.part
     | _ => false) ||
    (match s.isolatedHome r, r.op with
     | some _, .write _ _ _ _ => false
     | some n, _ => s.unanswered n r.core r.slot
     | none, _ => false)
  | .red m => (m.node == .control && s.controlBusy) || s.heldBack d
  | .msg _ => s.heldBack d
  | .slotMsg m => s.awaits m.target || (m.launch && ((s.core m.target).handsOver m.tslot || s.savedUnstarted m))
  | .coreJob n _ => d.ev.kind != .mirrorStreamComplete && s.awaits n
  | .remoteAt _ t => decide (s.ptime < t)
  | .group m => s.awaits m.node
  | _ => false

/-- The partition of a message that keeps its place behind refused messages of it, and whether its own step refuses it: user
messages and closing arrivals are refused at their destination, kinds 1 to 9 and 11 wait (R215, R221, R239). -/
def State.refusable (s : State) (e : Event) : Option (BitVec 6 × Bool) :=
  if e.kind = .messageRefusal then none
  else
    match e.arg with
    | .msg m => if m.kind = 0 ∨ (m.kind = 9 ∧ m.len = 0) then some (m.part, true)
                else some (m.part, false)
    | .red m => some (m.part, false)
    | .code m => some (m.part, false)
    | .slotMsg m => some (m.part, false)
    | .items m => (s.job? m.job).map (fun j => (j.part, false))
    | .group m => (s.job? m.job).map (fun j => (j.part, false))
    | .coreJob _ k => (s.job? k).map (fun j => (j.part, false))
    | _ => none

/-- Whether a message stands still: its source retains messages for its destination, or its destination refuses its
source's messages and it is of a kind that keeps its place until it is resent (R221). -/
def State.standsStill (s : State) (src dst : Nat) (p : BitVec 6) (own : Bool) : Bool :=
  (s.core src).retained.any (fun r => r.2.part == p && nameCore r.2.dest == dst) ||
    (!own && (s.core dst).refusing.any (fun r => r.1 == p && nameCore r.2 == src))

/-- What a pass over the waiting steps has found: the positions of those that may happen, the ordered paths on which one has been
found, the pairs with the partition whose messages stand still, those whose messages wait for a handover, and the next position. -/
structure Scan where
  ready : List Nat := []
  taken : List (Bool × Nat × Nat) := []
  still : List (Nat × Nat × BitVec 6) := []
  held : List (Nat × Nat × BitVec 6) := []
  next : Nat := 0
  deriving DecidableEq, Repr

/-- Whether a step brings a message that a slot or an engine has sent to a core, and not one of a tree or of load levelling. -/
def slotMessage (e : Event) : Bool :=
  match e.arg with
  | .msg _ | .red _ | .code _ | .slotMsg _ => true
  | _ => false

/-- One waiting step looked at. A message that a handover at its destination holds back, or one that stands still, holds back
those of its partition behind it (R176, R221, R240). -/
def State.scan (s : State) (a : Scan) (x : Due) : Scan :=
  let skip := { a with next := a.next + 1 }
  match x.path with
  | none => if s.blocked x then skip else { skip with ready := a.ready ++ [a.next] }
  | some (msg, src, dst) =>
    match s.refusable x.ev with
    | some (p, own) =>
      if msg && slotMessage x.ev && (s.heldBack x || a.held.contains (src, dst, p)) then
        { skip with held := (src, dst, p) :: a.held }
      else if s.blocked x then skip
      else if msg && (a.still.contains (src, dst, p) || s.standsStill src dst p own) then
        { skip with still := (src, dst, p) :: a.still }
      else if a.taken.contains (msg, src, dst) then skip
      else { skip with ready := a.ready ++ [a.next], taken := (msg, src, dst) :: a.taken }
    | none =>
      if s.blocked x || a.taken.contains (msg, src, dst) then skip
      else { skip with ready := a.ready ++ [a.next], taken := (msg, src, dst) :: a.taken }

/-- The positions of the waiting steps that may happen: on an ordered path only the first of those that are not blocked
(R176); a message that stands still holds back those of its partition behind it (R221). -/
def State.eligible (s : State) : List Nat := (s.due.foldl s.scan {}).ready

/-- Whether a core has a started slot, a valid term, an increment to make or a matrix command, so that its cycles matter (R27,
R287, R315). -/
def Core.active (c : Core) : Bool :=
  !c.isolated && !c.asleep && (c.slots.toList.any (fun sl => sl.run != .off && sl.run != .halted) ||
    c.terms.toList.any (fun t => t.valid) || c.outs != [] || c.mq.toList.any (fun m => m.entries != []))

/-- The step that ends a slot's wait as a cycle of its core begins, because a deadline in core cycles has passed or panel time has
reached TCMP: a bench that has not formed, MWAIT, CWAIT (R123, R201, R207). -/
def State.lateWait (s : State) (n : Nat) (i : SlotNo) : Option Instr :=
  if s.benchLate n i then some .benchFormationTimeout
  else
    match (s.slot n i).wait? with
    | some (.mwait _ dl) =>
      if s.timesOut n i 4 dl then some .mwaitTimeout
      else if (s.slot n i).pastTcmp s.ptime then some .mwaitTcmpInterrupt else none
    | some (.cwait _ _ _ dl) => if s.timesOut n i 32 dl then some .cwaitTimeout else none
    | _ => none

/-- The steps that end a slot's wait, of a wait that a unit of the panel serves or that panel time bounds. -/
def State.waitMoves (s : State) (n : Nat) (i : SlotNo) (w : Wait) : List Event :=
  match w with
  | .walk va => [{ kind := .plbWalk, arg := .slotAddr n i va }]
  | .translation va =>
    let e : BitVec 5 := match s.page (s.accOf n i) va.toNat with
      | .ok p => BitVec.ofNat 5 p.2.place.edge
      | .error _ => 0
    [{ kind := .translationWalk, arg := .translation e (s.slot n i).who va }]
  | .nameWalk t _ => [{ kind := .nameTableWalk, arg := .slotTarget n i t }]
  | .hostAtomic _ _ _ _ _ _ _ _ =>
    [{ kind := .hostAtomicCompletion, arg := .slotFlag n i false }, { kind := .hostAtomicCompletion, arg := .slotFlag n i true }]
  | .sfu _ => if s.sfuNext n i then [{ kind := .specialFunctionResult, arg := .slotFlag n i false }] else []
  | .chsync _ _ dl => if dl ≤ s.ptime then [{ kind := .chsyncTimeout, arg := .slot n i }] else []
  | _ => []

/-- The steps of a slot that no instruction of it makes; a slot whose wait is over rejoins in a cycle of its core (R27). -/
def State.slotMoves (s : State) (n : Nat) (i : SlotNo) : List Event :=
  let sl := s.slot n i
  match sl.run with
  | .off => []
  | .halted => []
  | r =>
    (match r with
     | .waiting w => s.waitMoves n i w
     | _ => []) ++
    (if sl.st.tie && s.pastTcmp n i then [{ kind := .timerInterrupt, arg := .slot n i }] else [])

/-- The steps of a core's message interface. -/
def State.interfaceMoves (s : State) (n : Nat) : List Event :=
  let c := s.core n
  ((List.range 32).filterMap (fun k =>
    let cl : BitVec 5 := BitVec.ofNat 5 k
    if c.held.any (fun h => h.msg.cls == cl) && (s.depositHeld n cl).isSome then
      some { kind := .heldMessageDeposit, arg := .coreClass n cl } else none)) ++
  (((c.held.map (fun h => h.msg.part)).eraseDups.filter (fun p => s.overdue n p != [])).map
    (fun p => { kind := .holdTimeout, arg := .corePart n p })) ++
  (((c.retained.filter (fun r => decide (r.1 ≤ s.ptime) && !s.refusalUnderWay n r.2.part (nameCore r.2.dest))).map
    (fun r => (r.2.part, r.2.dest))).eraseDups.map
    (fun r => { kind := .refusalResend, arg := .corePartDest n r.1 r.2 })) ++
  (((List.finRange 64).filter (fun k => s.probeDue n (BitVec.ofNat 6 k.val))).map
    (fun k => { kind := .channelProbe, arg := .channel n (BitVec.ofNat 6 k.val) }))

/-- The steps of a core's engines. -/
def State.coreMoves (s : State) (n : Nat) : List Event :=
  let c := s.core n
  if c.isolated || s.dying n then []
  else
    (List.finRange 16).flatMap (fun i => s.slotMoves n i) ++
    (if c.buffer = [] then [] else [{ kind := .writeThroughDrain, arg := .core n }]) ++
    s.interfaceMoves n ++ s.matrixMoves n ++ s.engineMoves n ++ s.collMoves n ++ s.workMoves n ++ s.handoverMoves n ++
    s.resyncMoves n ++
    (if s.isGrid n && c.retainable then [{ kind := .coreRetention, arg := .core n }] else [])

/-- The steps of the power controller that time brings (R392, R395, R400). -/
def State.powerMoves (s : State) : List Event :=
  (if s.power.nextTick ≤ s.ptime then [{ kind := .budgetTick, arg := .none }] else []) ++
  ([0, 1] : List (BitVec 1)).filterMap (fun r =>
    if s.power.echoAt.get r.toFin ≤ s.ptime then some { kind := .telemetryEcho, arg := .root r } else none) ++
  (if !s.power.lost && decide (s.power.lastAt + 2000000 ≤ s.ptime) then [{ kind := .frameLossTimeout, arg := .none }] else []) ++
  s.senses.filterMap (fun e =>
    match e.2.riseSince with
    | some t =>
      if t + 1000000000 ≤ s.ptime && !e.2.degr then
        some { kind := .riseHeld, arg := .point (e.1 / 16) (BitVec.ofNat 4 e.1) }
      else none
    | none => none)

/-- The steps whose condition holds. -/
def State.derived (s : State) : List Event :=
  s.cores.flatMap (fun e => s.coreMoves e.1) ++ s.groupMoves ++ s.launchMoves ++ s.powerMoves ++ s.heatMoves ++ s.panelMoves ++
    s.recoveryMoves ++ s.portMoves

/-- A step of the layout commit that cannot wait any longer: the routers switch banks at the mesh tick, and BUSY clears by the second
one (R423). -/
def State.urgent (s : State) : Option Event :=
  if !s.commit.busy || decide (s.ptime < s.commit.tickAt) then none
  else if !s.commit.flipped then some { kind := .meshTick, arg := .none }
  else if s.commit.tickAt + 512 ≤ s.ptime then some { kind := .busyClear, arg := .none }
  else none

/-- The moves the panel can make next, where none is urgent; cores whose clocks are locked by a bench make one move (R124). -/
def State.freeMoves (s : State) : List Move :=
  s.eligible.map .due
  ++ (if s.inputs = [] then [] else [.input])
  ++ s.derived.map .event
  ++ (s.cores.filter (fun e => e.2.active && !s.dying e.1 &&
    ((s.lockedWith e.1).filter (fun m => !s.dying m)).headD e.1 == e.1)).map (fun e => .cycle e.1)

/-- The moves the panel can make next. -/
def State.moves (s : State) : List Move :=
  match s.urgent with
  | some e => [.event e]
  | none => s.freeMoves

end Sys2Proof.Machine
end

