-- ==== Sys2Proof/Machine/Issue.lean ====
section
/-!
DEFINITION. What a cycle of a core does: the chosen slot's instruction, alone or on every member of a bench, or its
asynchronous cause (R26, R124 to R129, R341).
-/
namespace Sys2Proof.Machine

/-- Run a step on a state, keeping a stop as it is. -/
def andThen (o : Host.Outcome State Fault Refusal) (f : State → Host.Outcome State Fault Refusal) :
    Host.Outcome State Fault Refusal :=
  match o with
  | .next s => f s
  | .fault r => .fault r
  | .refused r => .refused r

/-- The slot's turn with the instruction `ins`, in a state in which it issues: a fault that an answer brought is taken first;
then a drained slot that is named for capture is captured; then the instruction's own precise fault goes before an
asynchronous cause, and the cause before the instruction (R341, R347, R358). -/
def issueOn (ins : Instr) (n : Nat) (i : SlotNo) (s : State) : Host.Outcome State Fault Refusal :=
  let sl := s.slot n i
  match sl.taking with
  | some f => .next (s.takeAnswer n i f)
  | none =>
    if sl.bench.isNone && sl.capture && s.captureReady n i then exec .slotCapture { s with arg := .slot n i }
    else match sl.nextCause with
    | none => exec ins s
    | some _ =>
      match exec ins s with
      | .next s1 => if s1.trapped then .next s1 else exec .asyncCauseEntry { s with arg := .slot n i }
      | stop => stop

/-- A slot outside any bench issues. -/
def issueAlone (s : State) (n : Nat) (i : SlotNo) : Host.Outcome State Fault Refusal :=
  issueOn (s.fetch n i) n i (s.beginIssue n i)

/-- The members of a bench on whose slots its next instruction executes: those that have completed fewest of the stream, since
a member may still have to complete what the others have (R124). -/
def State.benchIssuers (s : State) (b : Bench) (i : SlotNo) : List Nat :=
  let done := fun (m : Nat) => ((s.slot m i).bench.map Bench.done).getD 0
  let least := (benchCores b).foldl (fun a m => min a (done m)) (done b.leader)
  (benchCores b).filter (fun m => done m == least)

/-- The bench's instruction on its issuing members, each with its own registers, and whether one of them took a fault, an
upcall or another cause (R124, R129). -/
def issueMembers (ins : Instr) (i : SlotNo) : List Nat → Bool → State → State × Bool × Option Refusal
  | [], trapped, s => (s, trapped, none)
  | m :: rest, trapped, s =>
    match issueOn ins m i (s.beginIssue m i) with
    | .next s1 => issueMembers ins i rest (trapped || s1.trapped) s1
    | .fault _ => (s, trapped, none)
    | .refused r => (s, trapped, some r)

/-- A bench issues: the leader fetches, and the instruction executes on every member; a fault or an upcall on a member ends
the bench with cause 3, different next addresses end it with cause 2 (R124, R128, R129). The leader's cycle is counted where
its slot has completed the instruction already. -/
def issueBench (s : State) (b : Bench) (i : SlotNo) : Host.Outcome State Fault Refusal :=
  let ms := s.benchIssuers b i
  let ins := s.fetchFrom b.leader (s.slot (ms.headD b.leader) i)
  let s0 := if ms.contains b.leader then s else s.tickCore b.leader
  let r := issueMembers ins i ms false s0
  match r.2.2 with
  | some e => .refused e
  | none => if r.2.1 then .next (r.1.dissolve b i 3) else .next (r.1.settleBench b i)

/-- What each core of a locked group does in a cycle: the slot it chooses; a core on which a bench of another core issues has
no choice of its own (R26, R29, R124). -/
def State.choices (s : State) : List Nat → List Nat → List (Nat × Option SlotNo)
  | [], _ => []
  | m :: rest, taken =>
    if taken.contains m then s.choices rest taken
    else
      match s.chosen m with
      | none => (m, none) :: s.choices rest taken
      | some i =>
        match (s.slot m i).bench with
        | none => (m, some i) :: s.choices rest taken
        | some b => (m, some i) :: s.choices rest (s.benchIssuers b i ++ taken)

/-- The chosen slots issue, and the other cores count the cycle. -/
def runChoices : List (Nat × Option SlotNo) → State → Host.Outcome State Fault Refusal
  | [], s => .next s
  | (n, none) :: rest, s => runChoices rest (s.tickCore n)
  | (n, some i) :: rest, s =>
    let o := if (s.core n).ready i then
        match (s.slot n i).bench with
        | none => issueAlone s n i
        | some b => issueBench s b i
      else .next (s.tickCore n)
    andThen o (runChoices rest)

/-- The waits of a core's slots at the start of a cycle: a slot whose condition is met rejoins 1 to 4 cycles after, a free
number of them (R27; log 5). One that waits in the ring is ready at once (R92). -/
def rejoinSlot (n : Nat) (i : SlotNo) (s : State) : Host.Outcome State Fault Refusal :=
  if s.rejoinReady n i then
    let t := (s.core n).t
    let at_ := if (s.slot n i).inRing then t else ((s.slot n i).rejoinAt).getD (t + Config.rejoin (s.tick + 16 * n + i.val) % 4)
    if at_ ≤ t then exec .slotRejoin { s with arg := .slot n i }
    else .next (s.modSlot n i (fun sl => { sl with rejoinAt := some at_ }))
  else if (s.slot n i).rejoinAt.isSome then .next (s.modSlot n i (fun sl => { sl with rejoinAt := none }))
  else .next s

/-- The terms of a core whose conditions hold as the cycle begins fire in it, in ascending order, and what the firings of the cycle
before count is counted (R315). -/
def fireTerms (n : Nat) (s : State) : Host.Outcome State Fault Refusal :=
  let s0 := if (s.core n).outs = [] then s else s.modCore n (fun c => { c with outs := [] })
  andThen ((s.firing n).foldl (fun o e => andThen o (fun t => exec .termFire { t with arg := .term n e })) (.next s0))
    (fun t => .next (t.countOuts n (s.core n).outs))

/-- The waits of a core's slots that a deadline ends, ended as the cycle begins (R123, R201, R207). -/
def endLate (n : Nat) (s : State) : Host.Outcome State Fault Refusal :=
  (List.finRange 16).foldl (fun o i => andThen o (fun t =>
    match t.lateWait n i with
    | some k => exec k { t with arg := .slot n i }
    | none => .next t)) (.next s)

/-- What the locked cores do as a cycle begins: terms fire, waits whose deadline has passed end, slots whose wait is over rejoin,
and benches at a boundary are settled (R27, R123, R128, R130, R201, R207, R315). -/
def beginCycle (cores : List Nat) (s : State) : Host.Outcome State Fault Refusal :=
  let fired := cores.foldl (fun o n => andThen (andThen o (fireTerms n)) (endLate n)) (.next s)
  let o := cores.foldl (fun o n => (List.finRange 16).foldl (fun o i => andThen o (rejoinSlot n i)) o) fired
  andThen o (fun s1 => .next (cores.foldl (fun t n => (List.finRange 16).foldl (fun t i =>
    match (t.slot n i).bench with
    | some b => if b.leader = n then t.settleBench b i else t
    | none => t) t) s1))

/-- A clock cycle of core `n` and of the cores locked to it that have not stopped (R376). -/
def coreCycle (s : State) (n : Nat) : Host.Outcome State Fault Refusal :=
  let cores := (s.lockedWith n).filter (fun m => !s.dying m)
  andThen (beginCycle cores s) (fun s1 => runChoices (s1.choices cores []) s1)

/-- A waiting step taken from the list happens. -/
def runDue (s : State) (k : Nat) : Host.Outcome State Fault Refusal :=
  match s.due[k]? with
  | none => .next s
  | some d => exec d.ev.kind { s with due := s.due.eraseIdx k, arg := d.ev.arg, trapped := false }

/-- The next input happens. -/
def runInput (s : State) : Host.Outcome State Fault Refusal :=
  match s.inputs with
  | [] => .next s
  | e :: rest => exec e.kind { s with inputs := rest, arg := e.arg, trapped := false }

/-- A move is made. -/
def runMove (s : State) : Move → Host.Outcome State Fault Refusal
  | .cycle n => coreCycle s n
  | .due k => runDue s k
  | .input => runInput s
  | .event e => exec e.kind { s with arg := e.arg, trapped := false }

/-- Time passes: a free number of nanoseconds (R23, log 3), and the model's counter of free values goes on. Panel time never
decreases: at the end of its 64 bits it stands. -/
def State.passTime (s : State) : State :=
  { s with ptime := min (s.ptime + Config.elapsed s.tick) (2 ^ 64 - 1), tick := s.tick + 1 }

/-- Whether a move is a clock cycle of a core. -/
def Move.isCycle : Move → Bool
  | .cycle _ => true
  | _ => false

/-- Whether a move is a step of a unit whose condition holds. -/
def Move.isEvent : Move → Bool
  | .event _ => true
  | _ => false

/-- The move that comes next of those the panel can make: the only one, or a free choice. So that everything that can happen
happens in the end (R49), every 64th step is the turn of the first waiting step, and in between every 64th step is that of one
core after another, and every 64th that of one unit's step after another (log 4). -/
def State.pick (s : State) (ms : List Move) : Option Move :=
  match ms with
  | [] => none
  | [m] => some m
  | m :: rest =>
    let all := m :: rest
    let turn := fun (kind : Move → Bool) =>
      let l := all.filter kind
      l.getD (s.tick / 64 % max 1 l.length) m
    some (if s.tick % 64 = 0 then m
      else if s.tick % 64 = 16 then turn Move.isEvent
      else if s.tick % 64 = 32 then turn Move.isCycle
      else all.getD (Config.choice s.tick % all.length) m)

/-- A user-mode thread of partition 0 on core 0, slot 0, alone on a panel whose partition 0 owns every zone, slot and bank:
what a fetched word needs to be the next instruction (log 12). -/
def State.withFetch (s : State) (w : Nat) : State :=
  let entry : PartEntry :=
    { zones := BitVec.allOnes 50, edges := [], slots := 0xFFFF, banks := 0xFFFF, matrix := some 0, sliceBase := 0,
      sliceSize := 0x20000, classes := BitVec.allOnes 29, workList := true }
  let job : Job :=
    { queue := 0, seq := 1, part := 0, record := 0, context := 0, prio := 0, super := false, recov := false,
      recording := false, replay := false, slotMask := 0xFFFF, row0 := 0, col0 := 0, rows := 1, cols := 1,
      phase := .running, target := none, heat := [], shed := false, parked := false, shedAt := 0, start := 0, round := 0,
      recovering := [], logBytes := 0, traceBase := 0, traceLen := 0,
      traceAt := [], truncated := false }
  let c := s.core 0
  let sl := c.slot 0
  let sl1 := { sl with run := .running, job := some 0, pc := 0, readyAt := c.t, parked := false, capture := false,
                       pending := [], bench := none, taking := none, yields := [] }
  let s1 := { s with layout := { s.layout with blank := false, parts := insertNat 0 entry s.layout.parts },
                     jobs := insertNat 0 job s.jobs, due := [], inputs := [], curCore := 0, curSlot := 0 }
  let s2 := { s1 with cores := [(0, { c.setSlot 0 sl1 with lastIssuer := 15, fduty := 16, isolated := false, asleep := false })] }
  { s2 with mem := Memory.setBytes s2.mem (istoreAddr 0 0) (tableBytes w) }

end Sys2Proof.Machine
end

