-- ==== Sys2Proof/Machine/Step.lean ====
section
/-!
DEFINITION. A step of the panel: time passes and one of the moves it could make is made; where it could make none, time
passes.
-/
namespace Sys2Proof.Machine

/-- One step. -/
def step (s : State) : Host.Outcome State Fault Refusal :=
  match s.pick s.moves with
  | none => .next s.passTime
  | some m => runMove s.passTime m

/-- `s` with the instruction whose bits are `w` stored where the next step fetches, and what makes that step fetch it. -/
def State.withFetchWord (s : State) (nbits w : Nat) : State := s.withFetch (w % 2 ^ nbits)

end Sys2Proof.Machine
end

