-- ==== Sys2Proof/Safety.lean ====
section
/-!
DEFINITION. What counts as a safe run, and the terms in which claims say what a step changes and what it leaves unchanged.
-/
namespace Sys2Proof.Machine

/-- The state after `k` steps, where every one of them answers a next state. -/
def runSteps : Nat → State → Option State
  | 0, s => some s
  | k + 1, s =>
    match step s with
    | .next s' => runSteps k s'
    | .fault _ => none
    | .refused _ => none

/-- A run of `k` steps is safe when none of them stops the machine. -/
def Safe (k : Nat) (s : State) : Prop := runSteps k s ≠ none

/-- Memory reads as before at every address. -/
def SameMemory (s t : State) : Prop := ∀ a, Memory.get t.mem a = Memory.get s.mem a

/-- The canonical form of a state: memory lists no zero byte, in strictly rising order, the full words rise too, and so do
the empty ones whose scope is not zero, which alone are listed (R153). -/
def canonical (s : State) : Prop :=
  Memory.wf s.mem = true ∧ risingFrom none s.full = true ∧ risingFrom none s.scopes = true ∧
    ∀ e, e ∈ s.scopes → e.2 ≠ 0 ∧ lookupNat e.1 s.full = none

/-- `n` bytes from address `p` hold the low bytes of `x`, the lowest first, and every other byte of memory reads as before. -/
def StoredAt (s t : State) (p n x : Nat) : Prop :=
  (∀ a, a < p ∨ p + n ≤ a → Memory.get t.mem a = Memory.get s.mem a) ∧
  ∀ k, k < n → Memory.get t.mem (p + k) = byteAt x k

/-- Of the executing slot no register outside the lists, no status bit and no upcall or trap register differs, nor its job
and what the panel asks of it. The PC, the loop levels, the counters and the FP registers are left to `Advances` and to the
claims. -/
structure SlotFrame (s t : State) (gs : List (BitVec 5)) (vs : List (BitVec 4)) (ks : List (BitVec 3)) : Prop where
  executing : t.curCore = s.curCore ∧ t.curSlot = s.curSlot
  general : ∀ r, r ∉ gs → t.getG r = s.getG r
  vector : ∀ r, r ∉ vs → t.getV r = s.getV r
  mask : ∀ r, r ∉ ks → t.getK r = s.getK r
  status : t.me.st = s.me.st
  exceptions : t.me.vec = s.me.vec
  owner : t.me.job = s.me.job ∧ t.me.phint = s.me.phint ∧ t.me.parked = s.me.parked ∧ t.me.capture = s.me.capture

/-- Nothing of the panel differs but the executing slot, and of that slot nothing that `SlotFrame` names, no monitor and no
pending cause; it goes on running or waiting as before. -/
structure Frame (s t : State) (gs : List (BitVec 5)) (vs : List (BitVec 4)) (ks : List (BitVec 3)) : Prop where
  only : t = s.setSlot s.curCore s.curSlot t.me
  memory : SameMemory s t
  slot : SlotFrame s t gs vs ks
  monitors : t.me.mons = s.me.mons
  running : t.me.run = s.me.run
  pending : t.me.pending = s.me.pending ∧ t.me.deferred = s.me.deferred ∧ t.me.outstanding = s.me.outstanding

/-- The executing slot has completed an instruction of `len` bytes in sequence: the loop levels and the PC are what the end
action of R118 makes of them, and INSTRET has counted it. -/
structure Advances (s t : State) (len : Nat) : Prop where
  place : (t.me.loops, t.me.pc) = endAction s.me.loops s.me.pc (s.me.pc + BitVec.ofNat 64 len)
  counted : t.me.cnt = { s.me.cnt with instret := s.me.cnt.instret + 1 }

/-- The executing slot has completed an instruction by a control transfer to `target`: no end action (R118). -/
structure Jumps (s t : State) (target : Dword) : Prop where
  place : t.me.loops = s.me.loops ∧ t.me.pc = target
  counted : t.me.cnt = { s.me.cnt with instret := s.me.cnt.instret + 1 }

/-- An instruction of `len` bytes completes with `x` in general register `d`, or with nothing written where `d` is g0, and
changes nothing else. -/
def Result (s : State) (i : Instr) (len : Nat) (d : BitVec 5) (x : Dword) : Prop :=
  ∃ t, exec i s = .next t ∧ t.getG d = (if d = 0 then 0 else x) ∧ Frame s t [d] [] [] ∧ t.me.fp = s.me.fp ∧
    Advances s t len

/-- An instruction faults precisely: the executing slot takes `cause` with EADDR `addr` at its own address (R335, R341). -/
def Faults (s : State) (i : Instr) (cause : BitVec 8) (addr : Dword) : Prop :=
  exec i s = .next (s.deliver s.curCore s.curSlot cause addr s.me.pc)

/-- An instruction faults precisely after it has read a record, which may have counted single-bit errors (R158): `u` is the state
that its reading leaves. -/
def FaultsAfter (s u : State) (i : Instr) (cause : BitVec 8) (addr : Dword) : Prop :=
  exec i s = .next (u.deliver s.curCore s.curSlot cause addr s.me.pc)

/-- An instruction leaves the rotation to wait for `w`: its slot keeps its registers and its PC, and memory reads as before
(R27). -/
def Waits (s : State) (i : Instr) (w : Wait) : Prop :=
  ∃ t, exec i s = .next t ∧ t.me.run = .waiting w ∧ SlotFrame s t [] [] [] ∧ SameMemory s t ∧ t.me.fp = s.me.fp ∧
    t.me.pc = s.me.pc ∧ t.me.loops = s.me.loops ∧ t.me.cnt = s.me.cnt

/-- An access stops where its checks say: with their fault, or with their wait. -/
def Stops (s : State) (i : Instr) : Stop → Prop
  | .fault cause addr => Faults s i cause addr
  | .wait w => Waits s i w

/-- An access stops after the instruction has read a record. -/
def StopsAfter (s u : State) (i : Instr) : Stop → Prop
  | .fault cause addr => FaultsAfter s u i cause addr
  | .wait w => Waits s i w

/-- No job is recorded or replayed (R387, R388). -/
def Untraced (s : State) : Prop := ∀ e, e ∈ s.jobs → e.2.recording = false ∧ e.2.replay = false

/-- No check-code unit that `n` bytes from `p` touch is uncorrectable (R158). -/
def Sound (s : State) (p n : Nat) : Prop := ∀ g, g ∈ granulesOf p n → s.bad.contains g = false

/-- A release of the executing slot at a scope has nothing to wait for, nothing to report and nothing to write back (R159,
R170). -/
def Drained (s : State) (scope : BitVec 3) : Prop :=
  s.released s.curCore s.curSlot scope = true ∧ s.me.deferred = none ∧
    (scope.toNat < 3 ∨ ∀ l, l ∈ (s.chip (s.chipOf s.curCore)).cache → l.owner = some s.curCore → l.dirty = 0)

/-- Nothing of the panel differs but the executing slot. -/
def OnlyMe (s t : State) : Prop := t = s.setSlot s.curCore s.curSlot t.me

/-- An instruction completes, writes general register `d`, and may act on caches and on its slot's monitors: no other
register and no byte of memory differs. -/
def Answers (s : State) (i : Instr) (len : Nat) (d : BitVec 5) (x : Dword) : Prop :=
  ∃ t, exec i s = .next t ∧ t.getG d = (if d = 0 then 0 else x) ∧ SlotFrame s t [d] [] [] ∧ SameMemory s t ∧
    t.me.fp = s.me.fp ∧ Advances s t len

/-- A vector instruction completes: of `n` lanes of width `w` of register `d` the enabled ones hold the value that `new`
gives and the others what they held, bits above the lanes are zero, FFLAGS gathers the flags of the enabled lanes, and DRAW
counts where the instruction is stochastic (R242 to R245). -/
def Lanes (s : State) (i : Instr) (d : BitVec 4) (w n : Nat) (on : Nat → Bool) (new : Nat → Nat × BitVec 5)
    (stochastic : Bool) : Prop :=
  ∃ t, exec i s = .next t ∧ Frame s t [] [d] [] ∧ Advances s t 4 ∧
    (∀ j, j < n → lane w j (t.getV d) = if on j then (new j).1 % 2 ^ w else lane w j (s.getV d)) ∧
    (∀ b, w * n ≤ b → (t.getV d).getLsbD b = false) ∧
    t.me.fp = { s.me.fp with
      fflags := ((List.range n).filter on).foldl (fun f j => f ||| (new j).2) s.me.fp.fflags,
      draw := if stochastic then s.me.fp.draw + 1 else s.me.fp.draw }

/-- A send of the executing slot that no channel tracks and whose class its mode may use: with room in the outgoing buffer
the message leaves for its destination on the own panel and the instruction completes; without room the slot waits (R214,
R220, R221). -/
def Sends (s : State) (i : Instr) (k : BitVec 5) (dest : Name) (bytes : Nat) (payload : Payload → Prop) : Prop :=
  s.ownPanel s.curCore dest = true → s.channelFor s.curCore s.me.st.partition dest k = none →
    (s.outRoom s.curCore s.me.st.partition = true →
      ∃ t m, exec i s = .next t ∧ m.dest = dest ∧ m.cls = k ∧ m.part = s.me.st.partition ∧
        m.source = s.nameOf s.curCore ∧ m.kind = 0 ∧ m.sslot.toNat = s.curSlot.val ∧ m.len = bytes ∧ payload m.payload ∧
        t.due = s.due ++ [{ path := some (true, s.curCore, nameCore dest), ev := { kind := arrivalKind m, arg := .msg m } }] ∧
        t.here.sent = s.here.sent ++ [m] ∧ SlotFrame s t [] [] [] ∧ SameMemory s t ∧ t.me.fp = s.me.fp ∧
        Advances s t 4) ∧
    (s.outRoom s.curCore s.me.st.partition = false → Waits s i .outgoing)

/-- A send of the executing slot that the channel record `idx` tracks: a record larger than the capacity faults 0x34, one on a
broken channel 0x33, and where a recoverable job's resend log cannot take it 0x74; the slot waits behind others that wait on the
record, and while the capacity or the outgoing buffer has no room; otherwise the message leaves with the channel's sequence
number, the channel counts it, and a recoverable job's resend log keeps it (R220, R221, R235, R370, R373). -/
def FlowSends (s : State) (i : Instr) (k : BitVec 5) (dest : Name) (bytes : Nat) (payload : Payload → Prop) : Prop :=
  let n := s.curCore
  let p := s.me.st.partition
  ∀ idx, s.ownPanel n dest = true → s.channelFor n p dest k = some idx →
    let c := s.chan n idx
    let size := 8 + 8 * ((bytes + 7) / 8)
    let left := s.modChan n idx (fun c => { c with waiters := c.waiters.filter (fun x => x != s.curSlot) })
    let first := s.line n idx = [] ∨ (s.line n idx).head? = some s.curSlot
    let goes := size ≤ c.k.toNat ∧ c.broken = false ∧ first ∧ c.resync = false ∧ c.catching = none ∧
      (c.s - c.c).toNat + size ≤ c.k.toNat
    let leaves := fun (also : State → Msg → Prop) =>
      ∃ t m, exec i s = .next t ∧ m.dest = dest ∧ m.cls = k ∧ m.part = p ∧ m.source = s.nameOf n ∧ m.kind = 0 ∧
        m.sslot.toNat = s.curSlot.val ∧ m.len = bytes ∧ m.seq = c.seq ∧ payload m.payload ∧
        t.due = s.due ++ [{ path := some (true, n, nameCore dest), ev := { kind := arrivalKind m, arg := .msg m } }] ∧
        t.here.sent = s.here.sent ++ [m] ∧ (t.chan n idx).seq = c.seq + 1 ∧
        (t.chan n idx).s = c.s + BitVec.ofNat 32 size ∧ (t.chan n idx).c = c.c ∧ SlotFrame s t [] [] [] ∧
        t.me.fp = s.me.fp ∧ Advances s t 4 ∧ also t m
    (c.k.toNat < size → FaultsAfter s left i 0x34 (dest.setWidth 64)) ∧
    (size ≤ c.k.toNat → c.broken = true → FaultsAfter s left i 0x33 (dest.setWidth 64)) ∧
    (size ≤ c.k.toNat → c.broken = false →
      ¬first ∨ (c.catching = none ∧ c.k.toNat < (c.s - c.c).toNat + size) → Waits s i (.channel idx size)) ∧
    (goes → (∀ job, s.myJob = some job → job.recov = false) →
      (s.outRoom n p = true → leaves (fun t _ => SameMemory s t)) ∧
      (s.outRoom n p = false → Waits s i .outgoing)) ∧
    (∀ j job mir, goes → s.me.job = some j → s.myJob = some job → job.recov = true → s.mirrorOf n j = some mir →
      let used := mir.logUsed + (size + 8)
      (job.logBytes < used → FaultsAfter s left i 0x74 (dest.setWidth 64)) ∧
      (used ≤ job.logBytes → s.outRoom n p = false → Waits s i .outgoing) ∧
      (used ≤ job.logBytes → s.outRoom n p = true → Memory.wf s.mem = true → Untraced s → s.me.run = .running →
        leaves (fun t m => t.mirrorOf n j = some { mir with log := mir.log ++ [{ idx := idx, msg := m }] } ∧
          t.here.undeposited = (p, dest, k) :: s.here.undeposited)))

/-- A waiting slot's instruction has completed: the slot will rejoin the rotation, its PC and loop levels as after any
instruction that completes in sequence, and of its general registers only those listed may differ (R27, R118). -/
structure Rejoins (s t : State) (n : Nat) (i : SlotNo) (gs : List (BitVec 5)) : Prop where
  run : (t.slot n i).run = .waiting .rejoin
  general : ∀ r, r ∉ gs → (t.slot n i).getG r = (s.slot n i).getG r
  place : ((t.slot n i).loops, (t.slot n i).pc) =
    endAction (s.slot n i).loops (s.slot n i).pc ((s.slot n i).pc + BitVec.ofNat 64 (s.slot n i).ilen)
  counted : (t.slot n i).cnt = { (s.slot n i).cnt with instret := (s.slot n i).cnt.instret + 1 }
  status : (t.slot n i).st = (s.slot n i).st

/-- A waiting slot will issue its instruction again: nothing else of the slot differs (R27). -/
def Reissues (s t : State) (n : Nat) (i : SlotNo) : Prop := t.slot n i = { s.slot n i with run := .waiting .rejoin }

end Sys2Proof.Machine
end

