-- ==== Sys2Proof/Certificates/Slice0/Obligations.lean ====
section
/-!
DEFINITION. The statements for the provers: what each instruction and each step of the panel does, what it leaves
unchanged, where it faults, and what holds of every step.
-/
open Sys2Proof Sys2Proof.Machine

/-! ### Encoding -/

/-- Every word that the encoder gives for a well-formed instruction decodes to that instruction, with every operand at
every value the encoding admits, and so do the bytes, whatever follows them (R50, R53, R56 to R59). -/
def Obligations.DecodeOfEncodeIsTheInstruction : Prop :=
  ∀ (i : Instr) (bs rest : List Byte), i.wf = true → encode i = some bs → decode (bs ++ rest) = .ok (i, rest)

/-- Words written out from the spec's encodings and examples decode to the instructions they stand for: MULH.N (R95), LIT
(R100), SLICE (R104), BNE (R112), JAL (R114), LOOPI, LOOP, LBRK, SPLIT, BENCH, BENCH.F and BXCH (R115); the halfword 0
and the word of all ones are illegal (R51). -/
def Obligations.SpecExampleWordsDecode : Prop :=
  decodeWord 0x0218B503 = .ok (.mulhN 10 11 12) ∧ decodeWord 0x0EA60489 = .ok (.lit 9 0xEA60) ∧
  decodeWord 0x000E430F = .ok (.slice 6 4 7 0) ∧ decodeWord 0xFFC20491 = .ok (.bne 9 0 0xFFC) ∧
  decodeWord 0x00080093 = .ok (.jal 1 0x80) ∧ decodeWord 0x00030697 = .ok (.loopi 6 3) ∧
  decodeWord 0x00024817 = .ok (.loop 9 2) ∧ decodeWord 0x00000117 = .ok .lbrk ∧
  decodeWord 0x00000417 = .ok .split ∧ decodeWord 0x00001A17 = .ok (.bench 3) ∧
  decodeWord 0x00001B17 = .ok (.benchF 3) ∧ decodeWord 0x00011D17 = .ok (.bxch 3 2 0) ∧
  decode [0, 0] = .error .illegal ∧ decode [0xFF, 0xFF, 0xFF, 0xFF] = .error .illegal

/-! ### Scalar instructions -/

/-- Major 0x01: every register operation gives the value R96, R97 and R98 state for every operand, the corners of shifts
and division included, completes, and changes nothing else. -/
def Obligations.RegisterOperationsGiveTheirResults : Prop :=
  ∀ (s : State) (d a b : BitVec 5),
    let x := s.getG a
    let y := s.getG b
    (Result s (.add d a b) 4 d (x + y) ∧ Result s (.sub d a b) 4 d (x - y) ∧ Result s (.and d a b) 4 d (x &&& y) ∧
     Result s (.or d a b) 4 d (x ||| y) ∧ Result s (.xor d a b) 4 d (x ^^^ y) ∧ Result s (.andn d a b) 4 d (x &&& ~~~y) ∧
     Result s (.mul d a b) 4 d (x * y) ∧
     Result s (.mulhS d a b) 4 d (BitVec.ofInt 64 (x.toInt * y.toInt / 2 ^ 64)) ∧
     Result s (.mulhN d a b) 4 d (BitVec.ofNat 64 (x.toNat * y.toNat / 2 ^ 64))) ∧
    (Result s (.divN d a b) 4 d (if y = 0 then BitVec.allOnes 64 else BitVec.ofNat 64 (x.toNat / y.toNat)) ∧
     Result s (.remN d a b) 4 d (if y = 0 then x else BitVec.ofNat 64 (x.toNat % y.toNat)) ∧
     Result s (.divS d a b) 4 d
       (if y = 0 then BitVec.allOnes 64
        else if x.toInt = -(2 ^ 63) ∧ y.toInt = -1 then x
        else BitVec.ofInt 64 (x.toInt.tdiv y.toInt)) ∧
     Result s (.remS d a b) 4 d
       (if y = 0 then x
        else if x.toInt = -(2 ^ 63) ∧ y.toInt = -1 then 0
        else BitVec.ofInt 64 (x.toInt - x.toInt.tdiv y.toInt * y.toInt))) ∧
    (Result s (.minS d a b) 4 d (if x.toInt ≤ y.toInt then x else y) ∧
     Result s (.minN d a b) 4 d (if x.toNat ≤ y.toNat then x else y) ∧
     Result s (.maxS d a b) 4 d (if x.toInt ≤ y.toInt then y else x) ∧
     Result s (.maxN d a b) 4 d (if x.toNat ≤ y.toNat then y else x) ∧
     Result s (.seq d a b) 4 d (if x = y then 1 else 0) ∧ Result s (.sne d a b) 4 d (if x = y then 0 else 1) ∧
     Result s (.sltS d a b) 4 d (if x.toInt < y.toInt then 1 else 0) ∧
     Result s (.sltN d a b) 4 d (if x.toNat < y.toNat then 1 else 0)) ∧
    (Result s (.shl d a b) 4 d (if 64 ≤ y.toNat then 0 else x <<< y.toNat) ∧
     Result s (.shr d a b) 4 d (if 64 ≤ y.toNat then 0 else x >>> y.toNat) ∧
     Result s (.sar d a b) 4 d (x.sshiftRight (if 64 ≤ y.toNat then 63 else y.toNat)) ∧
     Result s (.rol d a b) 4 d ((x <<< (y.toNat % 64)) ||| (x >>> (64 - y.toNat % 64))) ∧
     Result s (.addw d a b) 4 d (((x + y).setWidth 32).signExtend 64) ∧
     Result s (.subw d a b) 4 d (((x - y).setWidth 32).signExtend 64) ∧
     Result s (.mulw d a b) 4 d (((x * y).setWidth 32).signExtend 64))

/-- Majors 0x02 to 0x04: the immediate operations and the two that build constants, each with its immediate extended as R99
and R100 say. -/
def Obligations.ImmediateOperationsGiveTheirResults : Prop :=
  ∀ (s : State) (d a : BitVec 5) (imm : BitVec 12) (sh : BitVec 6) (imm20 : BitVec 20),
    let x := s.getG a
    let y := imm.signExtend 64
    Result s (.addi d a imm) 4 d (x + y) ∧ Result s (.andi d a imm) 4 d (x &&& y) ∧
    Result s (.ori d a imm) 4 d (x ||| y) ∧ Result s (.xori d a imm) 4 d (x ^^^ y) ∧
    Result s (.sltiS d a imm) 4 d (if x.toInt < imm.toInt then 1 else 0) ∧
    Result s (.sltiN d a imm) 4 d (if x.toNat < y.toNat then 1 else 0) ∧
    Result s (.shli d a sh) 4 d (x <<< sh.toNat) ∧ Result s (.shri d a sh) 4 d (x >>> sh.toNat) ∧
    Result s (.sari d a sh) 4 d (x.sshiftRight sh.toNat) ∧
    Result s (.lih d imm20) 4 d ((imm20 ++ (0 : BitVec 12)).signExtend 64) ∧
    Result s (.lit d imm20) 4 d ((s.getG d <<< 20) ||| imm20.setWidth 64)

/-- Majors 0x05 and 0x06: bit counts, reversals, selection, bit fields and LEA, each result told bit by bit or by the
number R101 and R102 state; a bit field that passes bit 63 is no instruction (R103). SLICE writes the start to `d`, then the
length to `b`, for the rank in `a`, from the shape record in the slot's own local store (R44, R105); the read of an
uncorrectable word faults 0x1E and writes nothing (R106), and where the bytes cannot be reached at once the read stops as a
load does. -/
def Obligations.BitAndShapeOperationsGiveTheirResults : Prop :=
  (∀ (s : State) (d a b c : BitVec 5) (pos ln : BitVec 6) (sh : BitVec 3),
     let x := s.getG a
     let len := ln.toNat + 1
     (∃ n, n ≤ 64 ∧ Result s (.clz d a) 4 d (BitVec.ofNat 64 n) ∧ (∀ j, 64 - n ≤ j → x.getLsbD j = false) ∧
       (n < 64 → x.getLsbD (63 - n) = true)) ∧
     (∃ n, n ≤ 64 ∧ Result s (.ctz d a) 4 d (BitVec.ofNat 64 n) ∧ (∀ j, j < n → x.getLsbD j = false) ∧
       (n < 64 → x.getLsbD n = true)) ∧
     Result s (.popc d a) 4 d (BitVec.ofNat 64 ((List.range 64).countP x.getLsbD)) ∧
     (∃ r, Result s (.brev d a) 4 d r ∧ ∀ j, j < 64 → r.getLsbD j = x.getLsbD (63 - j)) ∧
     (∃ r, Result s (.bswap d a) 4 d r ∧
       ∀ i j, i < 8 → j < 8 → r.getLsbD (8 * i + j) = x.getLsbD (8 * (7 - i) + j)) ∧
     Result s (.sel d a b c) 4 d (if s.getG c ≠ 0 then x else s.getG b) ∧
     (pos.toNat + len ≤ 64 →
       Result s (.bfx d a pos ln) 4 d (BitVec.ofNat 64 (x.toNat / 2 ^ pos.toNat % 2 ^ len)) ∧
       ∃ r, Result s (.bfi d a pos ln) 4 d r ∧ ∀ j, j < 64 → r.getLsbD j =
         (if pos.toNat ≤ j ∧ j < pos.toNat + len then x.getLsbD (j - pos.toNat) else (s.getG d).getLsbD j)) ∧
     (64 < pos.toNat + len → (Instr.bfx d a pos ln).wf = false ∧ (Instr.bfi d a pos ln).wf = false) ∧
     Result s (.lea d a b sh) 4 d (x + (s.getG b <<< sh.toNat))) ∧
  (∀ (s : State) (d a b : BitVec 5) (n : BitVec 2),
     let banks := s.shareBanks s.curCore s.me.who
     let off := banks.length * 0x20000 - 0x80 + 64 + 16 * n.toNat
     let at_ := localAddr s.curCore banks off
     let e := s.peek at_ 8
     let p := s.peek (at_ + 8) 2
     let q := max (s.peek (at_ + 10) 2) 1
     let al := max (s.peek (at_ + 12) 4) 1
     let rank := (s.getG a).toNat
     let part := rank / q % p
     let blocks := (e + al - 1) / al
     let first := part * (blocks / p) + min part (blocks % p)
     let mine := blocks / p + (if part < blocks % p then 1 else 0)
     let start := if p = 0 then 0 else min (first * al) e
     let len := if p = 0 then e else min (mine * al) (e - start)
     let reach := s.resolve s.acc .load 16 (BitVec.ofNat 64 off)
     (∀ x, reach = .error x → Stops s (.slice d a b n) x) ∧
     (∀ y, reach = .ok y → s.badIn at_ 16 = none →
       ∃ t, exec (.slice d a b n) s = .next t ∧
         t.getG b = (if b = 0 then 0 else BitVec.ofNat 64 len) ∧
         t.getG d = (if d = 0 then 0 else if d = b then BitVec.ofNat 64 len else BitVec.ofNat 64 start) ∧
         start + len ≤ e ∧ SlotFrame s t [d, b] [] [] ∧ SameMemory s t ∧ t.me.fp = s.me.fp ∧ Advances s t 4 ∧
         (s.soft = [] → Frame s t [d, b] [] [])) ∧
     (∀ y x, reach = .ok y → s.badIn at_ 16 = some x →
       Faults s (.slice d a b n) 0x1E (BitVec.ofNat 64 (off + (x - at_)))))

/-! ### Control flow -/

/-- Branches of major 0x08: taken by the comparison R112 states, to PC plus twice the offset; a taken branch out of the
slice faults 0x07 with the full target (R109), one that is not taken goes on in sequence; conditions 6 and 7 are no
instruction. -/
def Obligations.BranchesGoWhereTheyCompare : Prop :=
  (∀ (s : State) (a b : BitVec 5) (off : BitVec 12),
    let x := s.getG a
    let y := s.getG b
    let target := s.me.pc + off.signExtend 64 * 2
    let goes := fun (i : Instr) (taken : Prop) =>
      (¬taken → ∃ t, exec i s = .next t ∧ Frame s t [] [] [] ∧ t.me.fp = s.me.fp ∧ Advances s t 4) ∧
      (taken → target.toNat < (s.slice s.curCore s.me.who).2 →
        ∃ t, exec i s = .next t ∧ Frame s t [] [] [] ∧ t.me.fp = s.me.fp ∧ Jumps s t target) ∧
      (taken → (s.slice s.curCore s.me.who).2 ≤ target.toNat → Faults s i 0x07 target)
    goes (.beq a b off) (x = y) ∧ goes (.bne a b off) (x ≠ y) ∧ goes (.blt a b off) (x.toInt < y.toInt) ∧
    goes (.bge a b off) (y.toInt ≤ x.toInt) ∧ goes (.bltn a b off) (x.toNat < y.toNat) ∧
    goes (.bgen a b off) (y.toNat ≤ x.toNat)) ∧
  (∀ w, w % 128 = 0x11 → 6 ≤ w / 2 ^ 17 % 8 → ∃ e, decodeWord w = .error e)

/-- JAL and JALR write the return address and transfer control; JALR reads its base before it writes, and faults 0x03 for
an odd target; a target outside the slice faults 0x07; neither fault writes a register (R114). -/
def Obligations.JumpsLinkAndTransfer : Prop :=
  ∀ (s : State) (d a : BitVec 5) (off : BitVec 20) (imm : BitVec 12),
    let size := (s.slice s.curCore s.me.who).2
    let near := s.me.pc + off.signExtend 64 * 2
    let far := s.getG a + imm.signExtend 64
    let links := fun (i : Instr) (target : Dword) =>
      ∃ t, exec i s = .next t ∧ t.getG d = (if d = 0 then 0 else s.me.pc + 4) ∧ Frame s t [d] [] [] ∧
        t.me.fp = s.me.fp ∧ Jumps s t target
    (near.toNat < size → links (.jal d off) near) ∧
    (size ≤ near.toNat → Faults s (.jal d off) 0x07 near) ∧
    (far.getLsbD 0 = true → Faults s (.jalr d a imm) 0x03 far) ∧
    (far.getLsbD 0 = false → far.toNat < size → links (.jalr d a imm) far) ∧
    (far.getLsbD 0 = false → size ≤ far.toNat → Faults s (.jalr d a imm) 0x07 far)

/-- LOOP, LOOPI and LBRK: a free level is taken, or the body skipped for a count of zero; both levels in use, or LBRK with
none, fault 0x05; an end outside the slice faults 0x07 (R117, R121). That a LOOP of count 0 applies the end action at its
own address is the model's reading (log 38). -/
def Obligations.HardwareLoopsStartAndBreak : Prop :=
  ∀ (s : State) (a : BitVec 5) (off16 : BitVec 16) (off8 : BitVec 8) (cc : BitVec 16),
    let l := s.me.loops
    let size := (s.slice s.curCore s.me.who).2
    let begins := fun (i : Instr) (count : Word) (off : Nat) =>
      let fin := s.me.pc + BitVec.ofNat 64 (2 * off)
      (l.lcnt1 ≠ 0 → ∃ addr, Faults s i 0x05 addr) ∧
      (l.lcnt1 = 0 → size ≤ fin.toNat → Faults s i 0x07 fin) ∧
      (l.lcnt1 = 0 → fin.toNat < size → count = 0 →
        ∃ t, exec i s = .next t ∧ Frame s t [] [] [] ∧ t.me.fp = s.me.fp ∧
          (t.me.loops, t.me.pc) = endAction l s.me.pc (fin + BitVec.ofNat 64 (s.lenAt fin))) ∧
      (l.lcnt1 = 0 → fin.toNat < size → count ≠ 0 →
        let l' := if l.lcnt0 = 0 then
            { l with lcnt0 := count, lbeg0 := (s.me.pc + 4).setWidth 17, lend0 := fin.setWidth 17 }
          else { l with lcnt1 := count, lbeg1 := (s.me.pc + 4).setWidth 17, lend1 := fin.setWidth 17 }
        ∃ t, exec i s = .next t ∧ Frame s t [] [] [] ∧ t.me.fp = s.me.fp ∧
          (t.me.loops, t.me.pc) = endAction l' s.me.pc (s.me.pc + 4))
    begins (.loop a off16) ((s.getG a).setWidth 32) off16.toNat ∧
    begins (.loopi off8 cc) (cc.setWidth 32) off8.toNat ∧
    (l.lcnt1 = 0 → l.lcnt0 = 0 → ∃ addr, Faults s .lbrk 0x05 addr) ∧
    (l.lcnt1 ≠ 0 ∨ l.lcnt0 ≠ 0 →
      let fin := if l.lcnt1 ≠ 0 then l.lend1.setWidth 64 else l.lend0.setWidth 64
      let target := fin + BitVec.ofNat 64 (s.lenAt fin)
      let l' := if l.lcnt1 ≠ 0 then { l with lcnt1 := 0 } else { l with lcnt0 := 0 }
      (target.toNat < size → ∃ t, exec .lbrk s = .next t ∧ Frame s t [] [] [] ∧ t.me.fp = s.me.fp ∧
        t.me.loops = l' ∧ t.me.pc = target) ∧
      (size ≤ target.toNat → Faults s .lbrk 0x07 target))

/-- The end action of hardware loops (R118): an instruction that completes in sequence at the innermost level's end goes
back while passes remain, or frees the level, and then an outer level that ends there is checked too; elsewhere it goes on
in sequence. -/
def Obligations.LoopEndActionFollowsItsRule : Prop :=
  (∀ (sl : Slot) (n : Dword), ((sl.finishTo n).loops, (sl.finishTo n).pc) = endAction sl.loops sl.pc n) ∧
  ∀ (l : Loops) (a n : Dword),
    let end0 := a = l.lend0.setWidth 64
    let end1 := a = l.lend1.setWidth 64
    (l.lcnt1 ≠ 0 → ¬end1 → endAction l a n = (l, n)) ∧
    (1 < l.lcnt1.toNat → end1 → endAction l a n = ({ l with lcnt1 := l.lcnt1 - 1 }, l.lbeg1.setWidth 64)) ∧
    (l.lcnt1 = 1 → end1 → (l.lcnt0 = 0 ∨ ¬end0) → endAction l a n = ({ l with lcnt1 := 0 }, n)) ∧
    (l.lcnt1 = 1 → end1 → 1 < l.lcnt0.toNat → end0 →
      endAction l a n = ({ l with lcnt1 := 0, lcnt0 := l.lcnt0 - 1 }, l.lbeg0.setWidth 64)) ∧
    (l.lcnt1 = 1 → end1 → l.lcnt0 = 1 → end0 → endAction l a n = ({ l with lcnt1 := 0, lcnt0 := 0 }, n)) ∧
    (l.lcnt1 = 0 → (l.lcnt0 = 0 ∨ ¬end0) → endAction l a n = (l, n)) ∧
    (l.lcnt1 = 0 → 1 < l.lcnt0.toNat → end0 →
      endAction l a n = ({ l with lcnt0 := l.lcnt0 - 1 }, l.lbeg0.setWidth 64)) ∧
    (l.lcnt1 = 0 → l.lcnt0 = 1 → end0 → endAction l a n = ({ l with lcnt0 := 0 }, n))

/-! ### Memory -/

/-- Scalar loads: the little-endian bytes at the address, sign- or zero-extended, from the own store; from another core's
store or the panel control space by a request after which the slot waits; from the near cache on a hit, after which the slot
has left the rotation; a misaligned address faults 0x03, every other
failed check stops the load, and an uncorrectable word faults 0x1E with the bad byte's address (R27, R146, R147, R149, R150, R159).
A load completes with nothing else of the panel changed where its bytes hold no single-bit error to be counted (R158). That an
access to the own store or to a cached page is done within its step is the model's reading (log 30). -/
def Obligations.LoadsReadTheirBytes : Prop :=
  ∀ (s : State) (d a b : BitVec 5) (imm : BitVec 12) (sz : BitVec 2) (gr : BitVec 1) (sh : BitVec 3),
    let loads := fun (i : Instr) (n : Nat) (signed : Bool) (va : Dword) =>
      let value := fun (x : Nat) =>
        if signed then BitVec.ofInt 64 (BitVec.ofNat (8 * n) x).toInt else BitVec.ofNat 64 (x % 2 ^ (8 * n))
      (va.toNat % n ≠ 0 → Faults s i 0x03 va) ∧
      (∀ e, s.check s.acc .load n va = .error e → Stops s i e) ∧
      (∀ p, s.check s.acc .load n va = .ok (.self p) →
        (s.badIn p n = none → Answers s i 4 d (value (s.peek p n)) ∧
          (s.soft = [] → Result s i 4 d (value (s.peek p n)))) ∧
        (∀ x, s.badIn p n = some x → Faults s i 0x1E (va + BitVec.ofNat 64 (x - p)))) ∧
      (∀ node p, s.check s.acc .load n va = .ok (.control p) ∧ node = Node.control ∨
          (∃ c, s.check s.acc .load n va = .ok (.store c p) ∧ node = .core c) →
        let pending : PendingLoad :=
          { dest := .gpr d n signed, got := [], remaining := 1, bad := none, acquire := none }
        let r : RemoteReq := { core := s.curCore, slot := s.curSlot, part := s.me.st.partition, node := node, va := va,
                               op := .read [(0, p)] n }
        Waits s i (.reply pending) ∧
        ∀ t, exec i s = .next t →
          t.due = s.due ++ [{ path := some (false, s.curCore, s.pathNode node), ev := { kind := .remoteRequest, arg := .remote r } }]) ∧
      (∀ v info l, s.check s.acc .load n va = .ok (.cached v info) → s.isGrid s.curCore = true →
        s.here.near.find? (fun x => x.va == lineBase v) = some l →
        (firstIn l.bad (v % 64) n = none → Answers s i 4 d (value (lineField l.data (v % 64) n)) ∧
          ∀ t, exec i s = .next t → t.me.run = .waiting .rejoin) ∧
        ∀ x, firstIn l.bad (v % 64) n = some x → Faults s i 0x1E (BitVec.ofNat 64 (l.va + v % 64 + x)))
    let disp := s.getG a + imm.signExtend 64
    loads (.ldS8 d a imm) 1 true disp ∧ loads (.ldN8 d a imm) 1 false disp ∧ loads (.ldS16 d a imm) 2 true disp ∧
    loads (.ldN16 d a imm) 2 false disp ∧ loads (.ldS32 d a imm) 4 true disp ∧ loads (.ldN32 d a imm) 4 false disp ∧
    loads (.ld64 d a imm) 8 false disp ∧
    loads (.ldx d a b sz gr sh) (2 ^ sz.toNat) (gr == 1) (s.getG a + (s.getG b <<< sh.toNat))

/-- Scalar stores: the low bytes of the register at the address, in the own store at once, at another core's store by a
posted write that counts against the limit of 32, at which the slot waits; nothing else in memory differs; a misaligned
address faults 0x03 and every other failed check stops the store (R146, R147, R149, R150). That an access to the own store
is done within its step is the model's reading (log 30). -/
def Obligations.StoresWriteTheirBytesOnly : Prop :=
  ∀ (s : State) (d a b : BitVec 5) (imm : BitVec 12) (sz : BitVec 2) (sh : BitVec 3),
    let stores := fun (i : Instr) (n : Nat) (va x : Dword) =>
      (va.toNat % n ≠ 0 → Faults s i 0x03 va) ∧
      (∀ e, s.check s.acc .write n va = .error e → Stops s i e) ∧
      (∀ p, s.check s.acc .write n va = .ok (.self p) → Memory.wf s.mem = true → Untraced s → s.me.run = .running →
        Sound s p n →
        ∃ t, exec i s = .next t ∧ StoredAt s t p n x.toNat ∧ SlotFrame s t [] [] [] ∧ t.me.fp = s.me.fp ∧
          Advances s t 4) ∧
      (∀ c p, s.check s.acc .write n va = .ok (.store c p) → s.me.outstanding < 32 →
        let r : RemoteReq := { core := s.curCore, slot := s.curSlot, part := s.me.st.partition, node := .core c, va := va,
                               op := writeOp p (bytesOf n x.toNat) none }
        ∃ t, exec i s = .next t ∧ SameMemory s t ∧ SlotFrame s t [] [] [] ∧ Advances s t 4 ∧
          t.me.outstanding = s.me.outstanding + 1 ∧
          t.due = s.due ++ [{ path := some (false, s.curCore, c), ev := { kind := .remoteRequest, arg := .remote r } }]) ∧
      (∀ c p, s.check s.acc .write n va = .ok (.store c p) → 32 ≤ s.me.outstanding → Waits s i .room)
    let disp := s.getG a + imm.signExtend 64
    stores (.st8 b a imm) 1 disp (s.getG b) ∧ stores (.st16 b a imm) 2 disp (s.getG b) ∧
    stores (.st32 b a imm) 4 disp (s.getG b) ∧ stores (.st64 b a imm) 8 disp (s.getG b) ∧
    stores (.stx d a b sz sh) (2 ^ sz.toNat) (s.getG a + (s.getG b <<< sh.toNat)) (s.getG d)

/-- Vector loads from the own store: each enabled element from its own address, the other lanes as before; a failed check
of an element, the lowest first, stops the load with nothing written (R146, R151, R152). Nothing else of the panel changes
where no single-bit error is to be counted (R158). That all elements are read in one step is the model's reading (log 30). -/
def Obligations.VectorLoadsFillTheEnabledLanes : Prop :=
  ∀ (s : State) (d vb : BitVec 4) (a b : BitVec 5) (km : BitVec 3) (sz sh : BitVec 2) (off : BitVec 9),
    let w := elemBits sz
    let loads := fun (i : Instr) (addr : Nat → Dword) =>
      (∀ e, s.checkAll s.acc .load (w / 8) (s.elements km w addr) = .error e → Stops s i e) ∧
      (∀ ts, s.checkAll s.acc .load (w / 8) (s.elements km w addr) = .ok ts →
        (∀ e, e ∈ ts → ∃ p, e.2.2 = .self p ∧ s.badIn p (w / 8) = none) →
        ∃ t, exec i s = .next t ∧ SlotFrame s t [] [d] [] ∧ SameMemory s t ∧ (s.soft = [] → Frame s t [] [d] []) ∧
          t.me.fp = s.me.fp ∧ Advances s t 4 ∧
          (∀ j va p, (j, va, Target.self p) ∈ ts → lane w j (t.getV d) = s.peek p (w / 8)) ∧
          (∀ j, j < 512 / w → (s.getK km).getLsbD j = false → lane w j (t.getV d) = lane w j (s.getV d)))
    loads (.vld d a km sz off)
      (fun j => s.getG a + off.signExtend 64 * 64 + BitVec.ofNat 64 (j * (w / 8))) ∧
    loads (.vlds d a km sz b) (fun j => s.getG a + BitVec.ofNat 64 j * s.getG b) ∧
    loads (.vgth d a vb km sz sh)
      (fun j => s.getG a + (BitVec.ofInt 64 (BitVec.ofNat w (lane w j (s.getV vb))).toInt <<< sh.toNat))

/-- Vector stores to the own store: each enabled element at its own address, of two that overlap the later one; nothing
else in memory differs; a failed check of an element stops the store before anything is written (R146, R151, R152). That
all elements are written in one step is the model's reading (log 30). -/
def Obligations.VectorStoresWriteTheEnabledLanesOnly : Prop :=
  ∀ (s : State) (d vb : BitVec 4) (a b : BitVec 5) (km : BitVec 3) (sz sh : BitVec 2) (off : BitVec 9),
    let w := elemBits sz
    let stores := fun (i : Instr) (addr : Nat → Dword) =>
      (∀ e, s.checkAll s.acc .write (w / 8) (s.elements km w addr) = .error e → Stops s i e) ∧
      (∀ ts, s.checkAll s.acc .write (w / 8) (s.elements km w addr) = .ok ts →
        (∀ e, e ∈ ts → ∃ p, e.2.2 = .self p ∧ Sound s p (w / 8)) →
        Memory.wf s.mem = true → Untraced s → s.me.run = .running →
        ∃ t, exec i s = .next t ∧ SlotFrame s t [] [] [] ∧ t.me.fp = s.me.fp ∧ Advances s t 4 ∧
          (∀ x, (∀ j va p, (j, va, Target.self p) ∈ ts → x < p ∨ p + w / 8 ≤ x) →
            Memory.get t.mem x = Memory.get s.mem x) ∧
          (∀ j va p, (j, va, Target.self p) ∈ ts →
            (∀ k va' q, (k, va', Target.self q) ∈ ts → j < k → q + w / 8 ≤ p ∨ p + w / 8 ≤ q) →
            ∀ x, x < w / 8 → Memory.get t.mem (p + x) = byteAt (lane w j (s.getV d)) x))
    stores (.vst d a km sz off)
      (fun j => s.getG a + off.signExtend 64 * 64 + BitVec.ofNat 64 (j * (w / 8))) ∧
    stores (.vsts d a km sz b) (fun j => s.getG a + BitVec.ofNat 64 j * s.getG b) ∧
    stores (.vsct d a vb km sz sh)
      (fun j => s.getG a + (BitVec.ofInt 64 (BitVec.ofNat w (lane w j (s.getV vb))).toInt <<< sh.toNat))

/-- Full and empty words of the own store: LDF and LDF.C read a full word, LDF.C empties it and keeps its scope, and both
wait at an empty one; STF writes the word and fills it at scope 0; FECLR empties the words of a range, their scope zero, at
once for a range of at most 64 bytes of the own store, and waits for a longer one and for one elsewhere; a misaligned address
faults 0x03 (R153, R155, R156). -/
def Obligations.FullEmptyWordsHandOver : Prop :=
  ∀ (s : State) (d a b : BitVec 5) (imm : BitVec 12), risingFrom none s.full = true → risingFrom none s.scopes = true →
    let va := s.getG a + imm.signExtend 64
    let takes := fun (i : Instr) (k : AccKind) (clear : Bool) =>
      (va.toNat % 8 ≠ 0 → Faults s i 0x03 va) ∧
      (∀ e, s.check s.acc k 8 va = .error e → Stops s i e) ∧
      (∀ p, s.check s.acc k 8 va = .ok (.self p) →
        (s.isFull p = true → s.badIn p 8 = none → Answers s i 4 d (BitVec.ofNat 64 (s.peek p 8)) ∧
          ∀ t, exec i s = .next t → t.isFull p = !clear ∧ t.scopeAt p = s.scopeAt p ∧
            ∀ w, w ≠ p → t.isFull w = s.isFull w) ∧
        (s.isFull p = true → ∀ x, s.badIn p 8 = some x → Faults s i 0x1E (va + BitVec.ofNat 64 (x - p))) ∧
        (s.isFull p = false → Waits s i (.fill p d clear)))
    takes (.ldf d a imm) .feRead false ∧ takes (.ldfC d a imm) .feTake true ∧
    (∀ e, s.check s.acc .feWrite 8 va = .error e → Stops s (.stf b a imm) e) ∧
    (∀ p, s.check s.acc .feWrite 8 va = .ok (.self p) →
      (s.me.outstanding ≠ 0 → Waits s (.stf b a imm) (.release 1)) ∧
      (Drained s 1 → Memory.wf s.mem = true → Untraced s → s.me.run = .running → Sound s p 8 →
        (∀ x, x ∈ (s.core (localCore p)).waits → x.word ≠ p) →
        ∃ t, exec (.stf b a imm) s = .next t ∧ StoredAt s t p 8 (s.getG b).toNat ∧ t.isFull p = true ∧
          t.scopeAt p = 0 ∧ SlotFrame s t [] [] [] ∧ t.me.fp = s.me.fp ∧ Advances s t 4)) ∧
    (let base := s.getG a
     let n := (s.getG b).toNat
     (base.toNat % 8 ≠ 0 ∨ n % 8 ≠ 0 → Faults s (.feclr b a) 0x03 base) ∧
     (base.toNat % 8 = 0 → n = 0 → ∃ t, exec (.feclr b a) s = .next t ∧ Frame s t [] [] [] ∧ t.me.fp = s.me.fp ∧
       Advances s t 4) ∧
     (base.toNat % 8 = 0 → n % 8 = 0 → n ≠ 0 →
       (∀ e, s.clearRange base n = .error e → Stops s (.feclr b a) e) ∧
       ∀ home ws, s.clearRange base n = .ok (home, ws) →
         (base.toNat < 0x200000 → n ≤ 64 →
           ∃ t, exec (.feclr b a) s = .next t ∧ SameMemory s t ∧ SlotFrame s t [] [] [] ∧ t.me.fp = s.me.fp ∧
             Advances s t 4 ∧ (∀ w, w ∈ ws → t.isFull w = false ∧ t.scopeAt w = 0) ∧
             ∀ p, p ∉ ws → t.isFull p = s.isFull p ∧ t.scopeAt p = s.scopeAt p) ∧
         (0x200000 ≤ base.toNat ∨ 64 < n → Waits s (.feclr b a) .feclr)))

/-- LDAQ reads and acquires, STRL releases and writes, and the fences release and acquire: STRL, FENCE and FENCE.rel complete
where the release has nothing to wait for and wait where writes are outstanding or, at .ch or wider, a store of the slot is in
the write-through buffer; the acquire of LDAQ, FENCE and FENCE.acq at .ch or wider invalidates the near cache's VOL lines; a
misaligned address faults 0x03, every other failed check stops LDAQ and STRL before anything is done, and an uncorrectable
word faults LDAQ 0x1E (R159, R168 to R175). PREF never faults; NCINV and CINV stop where their check does, leave everything but the recency
of a page's PLB entry where the address is no cached page's, and otherwise leave no copy of the line in the near cache, CINV none in the chiplet cache either (R157). -/
def Obligations.OrderedAccessesFencesAndCacheMaintenance : Prop :=
  (∀ (s : State) (d a : BitVec 5) (sc : BitVec 3) (sz : BitVec 1) (off : BitVec 10),
     let n := if sz = 0 then 4 else 8
     let va := s.getG a + off.signExtend 64 * BitVec.ofNat 64 n
     let k : AccKind := if sc.toNat < 2 then .load else .read
     let owes := s.me.outstanding ≠ 0 ∨ (2 ≤ sc.toNat ∧ ∃ e, e ∈ s.here.buffer ∧ e.slot = s.curSlot)
     (va.toNat % n ≠ 0 → Faults s (.ldaq d a sc sz off) 0x03 va ∧ Faults s (.strl d a sc sz off) 0x03 va) ∧
     (∀ e, s.check s.acc k n va = .error e → Stops s (.ldaq d a sc sz off) e) ∧
     (∀ e, s.check s.acc .write n va = .error e → Stops s (.strl d a sc sz off) e) ∧
     (∀ p, s.check s.acc k n va = .ok (.self p) →
       (s.badIn p n = none → Answers s (.ldaq d a sc sz off) 4 d (BitVec.ofNat 64 (s.peek p n)) ∧
         ∀ t, exec (.ldaq d a sc sz off) s = .next t → 2 ≤ sc.toNat → s.isGrid s.curCore = true →
           t.here.near = s.here.near.filter (fun l => !l.vol)) ∧
       ∀ x, s.badIn p n = some x → Faults s (.ldaq d a sc sz off) 0x1E (va + BitVec.ofNat 64 (x - p))) ∧
     (∀ v info t, s.check s.acc k n va = .ok (.cached v info) → exec (.ldaq d a sc sz off) s = .next t →
       t.me.run = .waiting .rejoin → 2 ≤ sc.toNat → s.isGrid s.curCore = true → ∀ l, l ∈ t.here.near → l.vol = false) ∧
     (∀ y, s.check s.acc .write n va = .ok y → owes → Waits s (.strl d a sc sz off) (.release sc)) ∧
     (∀ p, s.check s.acc .write n va = .ok (.self p) → Drained s sc → Memory.wf s.mem = true → Untraced s →
       s.me.run = .running → Sound s p n →
       ∃ t, exec (.strl d a sc sz off) s = .next t ∧ StoredAt s t p n (s.getG d).toNat ∧ SlotFrame s t [] [] [] ∧
         t.me.fp = s.me.fp ∧ Advances s t 4) ∧
     (let completes := fun (i : Instr) =>
        ∃ t, exec i s = .next t ∧ SameMemory s t ∧ SlotFrame s t [] [] [] ∧ t.me.fp = s.me.fp ∧ Advances s t 4
      let invalidates := fun (i : Instr) => ∀ t, exec i s = .next t → 2 ≤ sc.toNat → s.isGrid s.curCore = true →
        t.here.near = s.here.near.filter (fun l => !l.vol)
      (Drained s sc → completes (.fence sc) ∧ invalidates (.fence sc)) ∧
      completes (.fenceAcq sc) ∧ invalidates (.fenceAcq sc) ∧
      (Drained s sc → completes (.fenceRel sc)) ∧
      (owes → Waits s (.fence sc) (.release sc) ∧ Waits s (.fenceRel sc) (.release sc)))) ∧
  (∀ (s : State) (ln : BitVec 2) (a : BitVec 5) (imm : BitVec 12), s.me.run = .running → Untraced s →
     let va := s.getG a + imm.signExtend 64
     let leaves := fun (i : Instr) => ∃ t, exec i s = .next t ∧ SlotFrame s t [] [] [] ∧ SameMemory s t ∧ t.due = s.due ∧
       t.chips = s.chips ∧ t.here.near = s.here.near ∧ t.here.buffer = s.here.buffer ∧ Advances s t 4 ∧
       (va.toNat < 2 ^ 48 → Frame s t [] [] [])
     (∃ t, exec (.pref ln a imm) s = .next t ∧ SlotFrame s t [] [] [] ∧ t.me.fp = s.me.fp ∧ Advances s t 4 ∧
       (va.toNat < 2 ^ 48 ∨ 2 ^ 56 ≤ va.toNat → Frame s t [] [] [])) ∧
     (∀ e, s.lineToDrop va = .error e → Stops s (.ncinv a imm) e ∧ Stops s (.cinv a imm) e) ∧
     (s.lineToDrop va = .ok none →
       leaves (.ncinv a imm) ∧ leaves (.cinv a imm)) ∧
     (∀ l, s.lineToDrop va = .ok (some l) → s.isGrid s.curCore = false → leaves (.ncinv a imm) ∧ leaves (.cinv a imm)) ∧
     (∀ l, s.lineToDrop va = .ok (some l) → s.isGrid s.curCore = true →
       (∃ t, exec (.ncinv a imm) s = .next t ∧ SlotFrame s t [] [] [] ∧ Advances s t 4 ∧
         ∀ x, x ∈ t.here.near → x.va ≠ l) ∧
       ∃ t, exec (.cinv a imm) s = .next t ∧ SlotFrame s t [] [] [] ∧ Advances s t 4 ∧
         (∀ x, x ∈ t.here.near → x.va ≠ l) ∧ ∀ x, x ∈ (t.chip (s.chipOf s.curCore)).cache → x.va ≠ l))

/-! ### Atomics -/

/-- An AMO on a word of the own store answers the old word, zero-extended, and leaves what its operation makes of it there;
where it releases it first needs nothing to wait for; a failed check stops it, an uncorrectable word faults 0x1E, and it waits
for the slot's own earlier writes of the word that are not performed yet (R166, R185 to R189, R194). -/
def Obligations.AtomicsExchangeOldForNew : Prop :=
  ∀ (s : State) (d a b : BitVec 5) (sz : BitVec 1) (order : BitVec 2) (sc : BitVec 3),
    Memory.wf s.mem = true → Untraced s → s.me.run = .running → (order.getLsbD 1 = true → Drained s sc) →
    let va := s.getG a
    let acts := fun (i : Instr) (op : AmoOp) (n : Nat) (new : Nat → Nat → Nat → Nat) =>
      (∀ e, s.atomicTarget op n va = .error e → Stops s i e) ∧
      (∀ p, s.atomicTarget op n va = .ok (.self p) → s.ownPosted s.curCore s.curSlot true (some p) va.toNat n = true →
        Waits s i (.ordered true (some p) va.toNat n)) ∧
      (∀ p, s.atomicTarget op n va = .ok (.self p) → s.ownPosted s.curCore s.curSlot true (some p) va.toNat n = false →
        (∀ x, s.badIn p n = some x → order.getLsbD 1 = false → Faults s i 0x1E (va + BitVec.ofNat 64 (x - p))) ∧
        (s.badIn p n = none → Sound s p n →
          ∃ t, exec i s = .next t ∧ t.getG d = (if d = 0 then 0 else BitVec.ofNat 64 (s.peek p n)) ∧
            StoredAt s t p n (new (s.peek p n) ((s.getG b).toNat % 2 ^ (8 * n)) ((s.getG d).toNat % 2 ^ (8 * n))) ∧
            SlotFrame s t [d] [] [] ∧ t.me.fp = s.me.fp ∧ Advances s t 4))
    let n := if sz = 0 then 4 else 8
    let sgn := fun (x : Nat) => (BitVec.ofNat (8 * n) x).toInt
    acts (.amoAdd d a b sz order sc) .add n (fun x y _ => x + y) ∧
    acts (.amoAnd d a b sz order sc) .and n (fun x y _ => x &&& y) ∧
    acts (.amoOr d a b sz order sc) .or n (fun x y _ => x ||| y) ∧
    acts (.amoXor d a b sz order sc) .xor n (fun x y _ => x ^^^ y) ∧
    acts (.amoMinS d a b sz order sc) .minS n (fun x y _ => if sgn x ≤ sgn y then x else y) ∧
    acts (.amoMinN d a b sz order sc) .minN n (fun x y _ => min x y) ∧
    acts (.amoMaxS d a b sz order sc) .maxS n (fun x y _ => if sgn x ≤ sgn y then y else x) ∧
    acts (.amoMaxN d a b sz order sc) .maxN n (fun x y _ => max x y) ∧
    acts (.amoSwap d a b sz order sc) .swap n (fun _ y _ => y) ∧
    acts (.amoCas d a b sz order sc) .cas n (fun x y e => if x = e then y else x) ∧
    acts (.amoFaddF32 d a b order sc) .faddF32 4 (fun x y _ => (fmtF32.add 0 0 x y).1) ∧
    acts (.amoFaddBf16x2 d a b order sc) .faddBf16x2 4
      (fun x y _ => (fmtBF16.add 0 0 (x % 2 ^ 16) (y % 2 ^ 16)).1 +
        2 ^ 16 * (fmtBF16.add 0 0 (x / 2 ^ 16) (y / 2 ^ 16)).1) ∧
    acts (.amoFmaxF32 d a b order sc) .fmaxF32 4 (fun x y _ => (fmtF32.minMax true x y).1)

/-- A RED on a word of the own store completes at once: one outstanding write more, its message on the way to the word's home,
no register and no byte of memory changed; at 32 outstanding writes it waits, and so it does where the outgoing buffer has no
room for its message (R191, R221). Its message changes the word at its home
and is acknowledged; at an isolated core it is only acknowledged. An AMO that a host performs gives its slot the old word;
where the host refuses it, the slot takes fault 0x22 at its next turn (R187, R194). -/
def Obligations.ReductionsAreSentAndAtomicsPerformed : Prop :=
  (∀ (s : State) (a b : BitVec 5) (sz rel : BitVec 1) (sc : BitVec 3), (rel = 1 → Drained s sc) →
     let va := s.getG a
     let sends := fun (i : Instr) (op : AmoOp) (n : Nat) =>
       (∀ e, s.atomicTarget op n va = .error e → Stops s i e) ∧
       (∀ p, s.atomicTarget op n va = .ok (.self p) →
         (s.me.outstanding < 32 → s.outRoom s.curCore s.me.st.partition = true →
           let m : RedMsg := { core := s.curCore, slot := s.curSlot, part := s.me.st.partition, node := .core s.curCore,
                               addr := p, va := va, bytes := n, op := op, operand := s.getG b }
           ∃ t, exec i s = .next t ∧ SameMemory s t ∧ SlotFrame s t [] [] [] ∧ t.me.fp = s.me.fp ∧ Advances s t 4 ∧
             t.me.outstanding = s.me.outstanding + 1 ∧
             t.due = s.due ++ [{ path := some (true, s.curCore, s.curCore), ev := { kind := .redArrival, arg := .red m } }]) ∧
         (s.me.outstanding < 32 → s.outRoom s.curCore s.me.st.partition = false → Waits s i .outgoing) ∧
         (32 ≤ s.me.outstanding → rel = 0 → Waits s i .room))
     let n := if sz = 0 then 4 else 8
     sends (.redAdd a b sz rel sc) .add n ∧ sends (.redAnd a b sz rel sc) .and n ∧ sends (.redOr a b sz rel sc) .or n ∧
     sends (.redXor a b sz rel sc) .xor n ∧ sends (.redMinS a b sz rel sc) .minS n ∧
     sends (.redMinN a b sz rel sc) .minN n ∧ sends (.redMaxS a b sz rel sc) .maxS n ∧
     sends (.redMaxN a b sz rel sc) .maxN n ∧ sends (.redFaddF32 a b rel sc) .faddF32 4 ∧
     sends (.redFaddBf16x2 a b rel sc) .faddBf16x2 4 ∧ sends (.redFmaxF32 a b rel sc) .fmaxF32 4) ∧
  (∀ (s : State), Memory.wf s.mem = true → Untraced s →
     (∀ (m : RedMsg) (n : Nat), s.arg = .red m → m.node = .core n →
       let ack := fun (bad : Option (BitVec 8 × BitVec 64)) =>
         s.due ++ [{ path := none, ev := { kind := .writeAck, arg := .ack m.core m.slot bad } }]
       ((s.core n).isolated = true →
         ∃ t, exec .redArrival s = .next t ∧ SameMemory s t ∧ t.due = ack none ∧ t.cores = s.cores) ∧
       ((s.core n).isolated = false → s.badIn m.addr m.bytes = none → Sound s m.addr m.bytes →
         ∀ v, amoResult m.op m.bytes (s.peek m.addr m.bytes) (m.operand.toNat % 2 ^ (8 * m.bytes)) 0 = some v →
           ∃ t, exec .redArrival s = .next t ∧ StoredAt s t m.addr m.bytes v ∧ t.due = ack none) ∧
       ((s.core n).isolated = false → (s.badIn m.addr m.bytes).isSome →
         ∃ t, exec .redArrival s = .next t ∧ SameMemory s t ∧ t.due = ack (some (0x1E, m.va)))) ∧
     (∀ (n : Nat) (i : SlotNo) (failed : Bool) (d : BitVec 5) (b : Nat) (op : AmoOp) (addr : Nat) (va x e : Dword)
         (acq : Option (BitVec 3)),
       s.arg = .slotFlag n i failed → (s.slot n i).run = .waiting (.hostAtomic d b op addr va x e acq) →
       (failed = true → exec .hostAtomicCompletion s = .next (s.answerFault n i 0x22 va)) ∧
       (failed = false → s.badIn addr b = none → Sound s addr b →
         ∃ t, exec .hostAtomicCompletion s = .next t ∧ Rejoins s t n i [d] ∧
           (t.slot n i).getG d = (if d = 0 then 0 else BitVec.ofNat 64 (s.peek addr b)) ∧
           StoredAt s t addr b
             ((amoResult op b (s.peek addr b) (x.toNat % 2 ^ (8 * b)) (e.toNat % 2 ^ (8 * b))).getD (s.peek addr b)))))

/-! ### Monitors, barriers and counters -/

/-- MARM arms a monitor on the line of an address in the own share, and faults 0x15 outside the self-window and 0x14 outside
the share; MDISARM disarms one or all (R199, R202). MWAIT answers 0x40 where no monitor is armed, otherwise at once the
triggered bits with 0x20 where it is interrupted, and waits where nothing has come; its deadline is a 32-bit count of cycles,
2^32 for a count of zero; the steps that end its wait add 0x10 at the deadline and 0x20 at TCMP; the triggered bits are
cleared (R201). -/
def Obligations.MonitorsAreArmedAndAwaited : Prop :=
  (∀ (s : State) (md : BitVec 2) (a : BitVec 5) (imm : BitVec 12),
     let va := s.getG a + imm.signExtend 64
     let sets := fun (i : Instr) (new : Fin 4 → Monitor) =>
       ∃ t, exec i s = .next t ∧ OnlyMe s t ∧ SameMemory s t ∧ SlotFrame s t [] [] [] ∧ t.me.fp = s.me.fp ∧
         Advances s t 4 ∧ ∀ m, t.me.mons.get m = new m
     let idle := fun (m : Monitor) => ({ m with armed := false, triggered := false } : Monitor)
     (0x200000 ≤ va.toNat → Faults s (.marm md a imm) 0x15 va) ∧
     (va.toNat < 0x200000 → s.inShare s.curCore s.me.who va.toNat 1 = false → Faults s (.marm md a imm) 0x14 va) ∧
     (va.toNat < 0x200000 → s.inShare s.curCore s.me.who va.toNat 1 = true →
       sets (.marm md a imm) (fun m => if m.val = md.toNat then
           { armed := true, triggered := false, line := BitVec.ofNat 15 (va.toNat / 64) } else s.me.mons.get m)) ∧
     sets (.mdisarm md) (fun m => if m.val = md.toNat then idle (s.me.mons.get m) else s.me.mons.get m) ∧
     sets .mdisarmAll (fun m => idle (s.me.mons.get m))) ∧
  (∀ (s : State) (d a : BitVec 5), Untraced s →
     let armed := ∃ m, (s.me.mons.get m).armed = true
     let shows := fun (sl : Slot) (v : Dword) (extra : Nat → Bool) =>
       (∀ m : Fin 4, v.getLsbD m.val = (sl.mons.get m).triggered) ∧ ∀ j, 4 ≤ j → v.getLsbD j = extra j
     let answers := fun (v : Dword) =>
       Answers s (.mwait d a) 4 d v ∧ ∀ t, exec (.mwait d a) s = .next t →
         ∀ m, (t.me.mons.get m).triggered = false ∧ (t.me.mons.get m).armed = (s.me.mons.get m).armed
     (¬armed → answers 0x40) ∧
     (armed → (∃ m, (s.me.mons.get m).triggered = true) ∨ s.interrupted = true →
       ∃ v, answers v ∧ shows s.me v (fun j => j == 5 && s.interrupted)) ∧
     (armed → (∀ m, (s.me.mons.get m).triggered = false) → s.interrupted = false →
       let x := (s.getG a).toNat % 2 ^ 32
       Waits s (.mwait d a) (.mwait d (if a = 0 then none else some (s.here.t + (if x = 0 then 2 ^ 32 else x))))) ∧
     (∀ n i q (dl : Option Nat), s.arg = .slot n i → (s.slot n i).run = .waiting (.mwait q dl) →
       let ends := fun (k : Instr) (bit : Nat) => ∃ t v, exec k s = .next t ∧ Rejoins s t n i [q] ∧
         (t.slot n i).getG q = (if q = 0 then 0 else v) ∧ shows (s.slot n i) v (fun j => j == bit) ∧
         ∀ m, ((t.slot n i).mons.get m).triggered = false
       (∀ c, dl = some c → c ≤ (s.core n).t → ends .mwaitTimeout 4) ∧
       (∀ c, dl = some c → (s.core n).t < c → exec .mwaitTimeout s = .next s) ∧
       ((s.slot n i).pastTcmp s.ptime = true → ends .mwaitTcmpInterrupt 5) ∧
       ((s.slot n i).pastTcmp s.ptime = false → exec .mwaitTcmpInterrupt s = .next s)))

/-- Named barriers: BAR and BARA arrive, BAR waiting and BARA not; an arrival opens the barrier's use before it waits for the
slot's own writes; the last arrival frees the barrier and every waiter; BARW
waits only while the barrier is in use; a barrier of another job's slot faults 0x21, and a count that differs from the use's
or exceeds the partition's slots 0x20 (R203 to R205). -/
def Obligations.BarriersCollectTheirArrivals : Prop :=
  ∀ (s : State) (cc : BitVec 4) (b : BitVec 5),
    let n := cc.toNat + 1
    let u := (s.here.bars.get b.toFin).getD { expected := n, arrivals := 0 }
    let owned := s.ownsCounter b.toNat
    let both := fun (p : Instr → Prop) => p (.bar cc b) ∧ p (.bara cc b)
    (owned = false → both (fun i => ∃ addr, Faults s i 0x21 addr) ∧ ∃ addr, Faults s (.barw b) 0x21 addr) ∧
    (owned = true → s.partLive < n ∨ u.expected ≠ n → both (fun i => ∃ addr, Faults s i 0x20 addr)) ∧
    (owned = true → n ≤ s.partLive → u.expected = n → s.me.outstanding ≠ 0 → both (fun i => Waits s i (.release 1) ∧
      ∀ t, exec i s = .next t → t.here.bars.get b.toFin = some u)) ∧
    (owned = true → n ≤ s.partLive → u.expected = n → s.me.outstanding = 0 → s.me.deferred = none →
      s.me.run = .running →
      (u.arrivals + 1 = n → both (fun i => ∃ t, exec i s = .next t ∧ SameMemory s t ∧ SlotFrame s t [] [] [] ∧
        Advances s t 4 ∧ t.here.bars.get b.toFin = none ∧
        ∀ k, (s.slot s.curCore k).atBar b = true → Rejoins s t s.curCore k [])) ∧
      (u.arrivals + 1 ≠ n →
        (∃ t, exec (.bar cc b) s = .next t ∧ t.me.run = .waiting (.bar b) ∧ SlotFrame s t [] [] [] ∧ SameMemory s t ∧
          t.me.pc = s.me.pc ∧ t.here.bars.get b.toFin = some { expected := n, arrivals := u.arrivals + 1 }) ∧
        ∃ t, exec (.bara cc b) s = .next t ∧ SlotFrame s t [] [] [] ∧ SameMemory s t ∧ Advances s t 4 ∧
          t.here.bars.get b.toFin = some { expected := n, arrivals := u.arrivals + 1 })) ∧
    (owned = true → s.here.bars.get b.toFin = none →
      ∃ t, exec (.barw b) s = .next t ∧ Frame s t [] [] [] ∧ Advances s t 4) ∧
    (owned = true → s.here.bars.get b.toFin ≠ none → Waits s (.barw b) (.barw b))

/-- Arrival counters: CRD reads, CADD adds modulo 2^32 and CSET sets, both after a release, and the slots whose threshold
is reached go on; CWAIT goes on where the counter minus the threshold is not negative, and otherwise waits or, at its
deadline, answers the counter with bit 32 set; a counter of another job's slot faults 0x21 (R203, R206, R207). That the
`or` of R207 is bitwise is the model's reading (log 38). -/
def Obligations.CountersCountAndAreAwaited : Prop :=
  ∀ (s : State) (d a b c : BitVec 5), Untraced s →
    let v := s.here.c.get c.toFin
    let thr : Word := (s.getG a).setWidth 32
    let lim : Word := (s.getG b).setWidth 32
    let owned := s.ownsCounter c.toNat
    (owned = false → ∀ i, i ∈ [Instr.cwait d a b c, .cadd a c, .cset a c, .crd d c] → ∃ addr, Faults s i 0x21 addr) ∧
    (owned = true →
      Result s (.crd d c) 4 d (v.setWidth 64) ∧
      (0 ≤ (v - thr).toInt → Result s (.cwait d a b c) 4 d (v.setWidth 64)) ∧
      ((v - thr).toInt < 0 → b ≠ 0 → lim = 0 →
        Result s (.cwait d a b c) 4 d ((1 : BitVec 32) ++ v)) ∧
      ((v - thr).toInt < 0 → b = 0 → Waits s (.cwait d a b c) (.cwait d c thr none)) ∧
      ((v - thr).toInt < 0 → b ≠ 0 → lim ≠ 0 →
        Waits s (.cwait d a b c) (.cwait d c thr (some (s.here.t + lim.toNat)))) ∧
      (s.me.outstanding = 0 → s.me.deferred = none → s.me.run = .running →
        let puts := fun (i : Instr) (new : Word) =>
          ∃ t, exec i s = .next t ∧ SameMemory s t ∧ SlotFrame s t [] [] [] ∧ Advances s t 4 ∧
            t.here.c.get c.toFin = new ∧ (∀ k, k ≠ c.toFin → t.here.c.get k = s.here.c.get k) ∧
            ∀ k q th dl, (s.slot s.curCore k).run = .waiting (.cwait q c th dl) → 0 ≤ (new - th).toInt →
              Rejoins s t s.curCore k [q]
        puts (.cadd a c) (v + thr) ∧ puts (.cset a c) thr)) ∧
    (∀ n i q e th dl, s.arg = .slot n i → (s.slot n i).run = .waiting (.cwait q e th (some dl)) →
      (dl ≤ (s.core n).t → ∃ t, exec .cwaitTimeout s = .next t ∧ Rejoins s t n i [q] ∧
        (t.slot n i).getG q = (if q = 0 then 0 else (1 : BitVec 32) ++ (s.core n).c.get e.toFin)) ∧
      ((s.core n).t < dl → exec .cwaitTimeout s = .next s))

/-! ### Messages, names, queue registers and channels -/

/-- SEND, SENDM and SENDL: the registers or the bytes of local store leave as one message for the name's core, or the slot
waits for room; a class of management mode faults 0x02 in other modes, more than 256 bytes fault 0x34, and a span or a name
that fails its check stops the send. A send that a channel record tracks does what R235 says. SENDL with bit 63 of its length
register replays the raw message at its address: a span that fails its check stops it, a header that is not for this core and
partition, not of kind 0 or too long faults 0x38, and otherwise the message arrives at the own core: dropped by a disabled
class, logged where the class is another partition's, written at BASE of a deposit area (R219, R220, R222, R226, R230,
R235). -/
def Obligations.SendsLeaveWithTheirPayload : Prop :=
  ∀ (s : State) (d a b k : BitVec 5) (num : BitVec 2),
    (29 ≤ k.toNat → s.me.st.mode ≠ .management →
      ∀ i, i ∈ [Instr.send d a k num, .sendm d a b k, .sendl d b k] → ∃ addr, Faults s i 0x02 addr) ∧
    (k.toNat < 29 ∨ s.me.st.mode = .management →
      (∀ e, s.resolveName s.acc (s.getG a) = .error e → Stops s (.send d a k num) e) ∧
      (∀ nm, s.resolveName s.acc (s.getG a) = .ok nm →
        let payload := fun (x : Payload) => ∀ j, j ≤ num.toNat → bitsOf x.toNat (64 * j) 64 = s.getG (d + BitVec.ofNat 5 j)
        Sends s (.send d a k num) k nm (8 * (num.toNat + 1)) payload ∧
        FlowSends s (.send d a k num) k nm (8 * (num.toNat + 1)) payload) ∧
      (let va := s.getG d
       let n := (s.getG b).toNat
       let both := fun (p : Instr → Prop) => p (.sendm d a b k) ∧ ((s.getG b).getLsbD 63 = false → p (.sendl d b k))
       both (fun i =>
         (256 < n → Faults s i 0x34 (s.getG b)) ∧
         (n ≤ 256 → ∀ e, s.selfSpan va 8 n = .error e → Stops s i e)) ∧
       (n ≤ 256 → s.selfSpan va 8 n = .ok () → ∀ e, s.resolveName s.acc (s.getG a) = .error e → Stops s (.sendm d a b k) e) ∧
       (n ≤ 256 → s.selfSpan va 8 n = .ok () → s.selfBad va.toNat n = none →
         let bytes := fun (x : Payload) => ∀ j, j < n →
           byteAt x.toNat j = Memory.get s.mem (s.sharePhys s.curCore s.me.who (va.toNat + j))
         (∀ nm, s.resolveName s.acc (s.getG a) = .ok nm →
           Sends s (.sendm d a b k) k nm n bytes ∧ FlowSends s (.sendm d a b k) k nm n bytes) ∧
         ((s.getG b).getLsbD 63 = false → Sends s (.sendl d b k) k (s.nameOf s.curCore) n bytes ∧
           FlowSends s (.sendl d b k) k (s.nameOf s.curCore) n bytes))) ∧
      ((s.getG b).getLsbD 63 = true →
        let here := s.curCore
        let va := s.getG d
        let h := msgOfHeader (BitVec.ofNat 512 (ofBytes (s.selfBytes va.toNat 64))) 0
        let read := s.selfSpan va 8 64 = .ok () ∧ s.selfBad va.toNat 64 = none
        let good := h.part = s.me.st.partition ∧ h.dest = s.nameOf here ∧ h.kind = 0 ∧ h.len ≤ 256
        let whole := read ∧ good ∧ s.selfSpan va 8 (64 + h.len) = .ok () ∧ s.selfBad (va.toNat + 64) h.len = none
        let e := s.cls here h.cls
        let at_ := fun (o : Nat) => s.sharePhys here (s.homeWho here h.part) (e.base.toNat + o)
        let lands := fun (p : State → Prop) =>
          ∃ t, exec (.sendl d b k) s = .next t ∧ SlotFrame s t [] [] [] ∧ t.me.fp = s.me.fp ∧ Advances s t 4 ∧ p t
        (∀ x, s.selfSpan va 8 64 = .error x → Stops s (.sendl d b k) x) ∧
        (read → ¬good → Faults s (.sendl d b k) 0x38 va) ∧
        (read → good → ∀ x, s.selfSpan va 8 (64 + h.len) = .error x → Stops s (.sendl d b k) x) ∧
        (whole → s.here.isolated = false → s.here.refusing = [] → Untraced s →
          (s.ownsClass h.part here h.cls.toNat = false → lands (fun t => SameMemory s t ∧
            t.errlog = s.errlog ++ [{ cause := 0, core := here, slot := h.cls.toNat, value := h.source.setWidth 64 }])) ∧
          (s.ownsClass h.part here h.cls.toNat = true → s.here.handing h.part = false → s.here.held = [] →
            (e.mode = 0 → lands (fun t => SameMemory s t ∧
              (t.cls here h.cls).drops = if e.drops = BitVec.allOnes 20 then e.drops else e.drops + 1)) ∧
            (e.mode = 1 → e.flow = false → s.me.run = .running → Memory.wf s.mem = true →
              s.inShare here (s.homeWho here h.part) e.base.toNat 256 = true → e.base.toNat % 8 = 0 →
              (∀ j, j < 256 → s.badIn (at_ j) 1 = none) →
              lands (fun t => ∀ j, j < h.len →
                Memory.get t.mem (at_ j) = Memory.get s.mem (s.sharePhys here s.me.who (va.toNat + 64 + j))))))))

/-- MRECV hands the oldest held message that is of no flow-tracked class to the overflow slot: its header and payload in
local store, its length in the register, 0 where there is none; any other slot faults 0x36 and a misaligned buffer 0x03
(R229). -/
def Obligations.MrecvTakesTheOldestHeldMessage : Prop :=
  ∀ (s : State) (d a : BitVec 5),
    let n := s.curCore
    let p := s.me.st.partition
    let va := s.getG a
    let mine := s.overflowSlot n p = some s.curSlot
    (¬mine → ∃ addr, Faults s (.mrecv d a) 0x36 addr) ∧
    (mine → va.toNat % 64 ≠ 0 → Faults s (.mrecv d a) 0x03 va) ∧
    (mine → va.toNat % 64 = 0 → ∀ e, s.selfSpan va 64 320 = .error e → Stops s (.mrecv d a) e) ∧
    (mine → va.toNat % 64 = 0 → s.selfSpan va 64 320 = .ok () →
      (s.here.held.find? (fun h => h.msg.part == p && !(s.cls n h.msg.cls).flow) = none →
        Result s (.mrecv d a) 4 d 0) ∧
      (∀ h, s.here.held.find? (fun h => h.msg.part == p && !(s.cls n h.msg.cls).flow) = some h → h.msg.len ≤ 256 →
        Memory.wf s.mem = true → Untraced s → s.me.run = .running → s.selfBad va.toNat 320 = none →
        let bs := bytesOf 64 (msgHeader h.msg).toNat ++ payloadBytes h.msg
        ∃ t, exec (.mrecv d a) s = .next t ∧ t.getG d = (if d = 0 then 0 else BitVec.ofNat 64 bs.length) ∧
          t.here.held = s.here.held.erase h ∧ t.selfBytes va.toNat bs.length = bs ∧
          (∀ x, (∀ j, j < bs.length → x ≠ s.sharePhys n s.me.who (va.toNat + j)) →
            Memory.get t.mem x = Memory.get s.mem x) ∧
          SlotFrame s t [d] [] [] ∧ Advances s t 4))

/-- NLOOK answers bit 63 and the place of a known core, 0 for an unknown one, and faults 0x30 for a register that holds
more than a core number; NINV drops cached names; a walk for a waiting slot fills the cache, or brings fault 0x30 where the
name table has no such core (R135, R217, R218). Which name leaves a full cache is the model's choice (log 29). -/
def Obligations.NamesAreLookedUpAndDropped : Prop :=
  ∀ (s : State) (d a : BitVec 5),
    let x := s.getG a
    let m := x.toNat % 2 ^ 16
    (2 ^ 16 ≤ x.toNat → Faults s (.nlook d a) 0x30 x) ∧
    (x.toNat < 2 ^ 16 → s.nameKnown s.me.who m = false → Result s (.nlook d a) 4 d 0) ∧
    (x.toNat < 2 ^ 16 → s.nameKnown s.me.who m = true →
      Answers s (.nlook d a) 4 d (s.nameInfo m) ∧ (s.nameInfo m).getLsbD 63 = true ∧
        ∀ t, exec (.nlook d a) s = .next t → (s.acc.part, m) ∈ t.here.names) ∧
    (∃ t, exec (.ninv a) s = .next t ∧ SlotFrame s t [] [] [] ∧ SameMemory s t ∧ Advances s t 4 ∧
      ∀ e, e ∈ t.here.names ↔ e ∈ s.here.names ∧ x ≠ BitVec.allOnes 64 ∧ e.2 ≠ m) ∧
    (∀ n i target va, s.arg = .slotTarget n i target → (s.slot n i).run = .waiting (.nameWalk target va) →
      (s.nameKnown (s.slot n i).who target = true →
        ∃ t, exec .nameTableWalk s = .next t ∧ Reissues s t n i ∧ SameMemory s t ∧
          ((s.accOf n i).part, target) ∈ (t.core n).names) ∧
      (s.nameKnown (s.slot n i).who target = false →
        exec .nameTableWalk s = .next (s.answerFault n i 0x30 va)))

/-- Queue registers: a get takes the oldest entry, or eight for a vector, and a put adds in order; a slot that finds too few
entries or too little room waits, and a put serves the reader that waits; a queue of another job faults 0x31, an unbound or
unsuitable one 0x35; QSTAT reads the configuration (R231, R233). -/
def Obligations.QueueRegistersKeepTheirOrder : Prop :=
  ∀ (s : State) (d a : BitVec 5) (vd va : BitVec 4) (qn : BitVec 3),
    let r := s.here.q.get qn.toFin
    let x := s.getG a
    let owned := s.ownsQueue qn.toNat
    let leaves := fun (i : Instr) (gs : List (BitVec 5)) (vs : List (BitVec 4)) (es : List Dword) =>
      ∃ t, exec i s = .next t ∧ SlotFrame s t gs vs [] ∧ SameMemory s t ∧ t.me.fp = s.me.fp ∧ Advances s t 4 ∧
        t.here.q.get qn.toFin = { r with entries := es }
    (owned = false → ∀ i, i ∈ [Instr.qget d qn, .qput a qn, .vqget vd qn, .vqput va qn, .qstat d qn] →
      ∃ addr, Faults s i 0x31 addr) ∧
    (owned = true →
      Result s (.qstat d qn) 4 d r.config ∧
      (r.mode = 0 → ∀ i, i ∈ [Instr.qget d qn, .qput a qn, .vqget vd qn, .vqput va qn] → ∃ addr, Faults s i 0x35 addr) ∧
      (r.mode = 2 → ∀ i, i ∈ [Instr.qput a qn, .vqput va qn] → ∃ addr, Faults s i 0x35 addr) ∧
      (r.mode ≠ 0 → r.readers = [] → r.writers = [] →
        (∀ y rest, r.entries = y :: rest → leaves (.qget d qn) [d] [] rest ∧
          ∀ t, exec (.qget d qn) s = .next t → t.getG d = if d = 0 then 0 else y) ∧
        (8 ≤ r.entries.length → leaves (.vqget vd qn) [] [vd] (r.entries.drop 8) ∧
          ∀ t, exec (.vqget vd qn) s = .next t → ∀ j, j < 8 →
            BitVec.ofNat 64 (lane 64 j (t.getV vd)) = r.entries.getD j 0)) ∧
      (r.mode ≠ 0 → r.entries = [] → Waits s (.qget d qn) (.queueRead qn false d)) ∧
      (r.mode ≠ 0 → r.entries.length < 8 → Waits s (.vqget vd qn) (.queueRead qn true (vd.setWidth 5))) ∧
      (r.mode = 1 → r.readers = [] → r.writers = [] →
        (r.entries.length < 8 → leaves (.qput a qn) [] [] (r.entries ++ [x])) ∧
        (r.entries = [] → leaves (.vqput va qn) [] []
          ((List.range 8).map (fun j => BitVec.ofNat 64 (lane 64 j (s.getV va)))))) ∧
      (r.mode = 1 → 8 ≤ r.entries.length → Waits s (.qput a qn) (.queueWrite qn false [x])) ∧
      (r.mode = 1 → r.entries ≠ [] → Waits s (.vqput va qn) (.queueWrite qn true
        ((List.range 8).map (fun j => BitVec.ofNat 64 (lane 64 j (s.getV va)))))) ∧
      (∀ k q, r.mode = 1 → r.entries = [] → r.readers = [k] → r.writers = [] → k ≠ s.curSlot →
        (s.slot s.curCore k).run = .waiting (.queueRead qn false q) →
        ∃ t, exec (.qput a qn) s = .next t ∧ Rejoins s t s.curCore k [q] ∧
          (t.slot s.curCore k).getG q = (if q = 0 then 0 else x) ∧
          t.here.q.get qn.toFin = { r with entries := [], readers := [] } ∧ SlotFrame s t [] [] [] ∧ Advances s t 4) ∧
      (∀ nm, r.mode = 3 → (r.cls.toNat < 29 ∨ s.me.st.mode = .management) →
        s.resolveName s.acc (BitVec.ofNat 64 (s.here.panelId.toNat * 2 ^ 16 + r.dest.toNat)) = .ok nm →
        Sends s (.qput a qn) r.cls nm 8 (fun p => bitsOf p.toNat 0 64 = x) ∧
        Sends s (.vqput va qn) r.cls nm 64 (fun p =>
          ∀ j, j < 8 → bitsOf p.toNat (64 * j) 64 = BitVec.ofNat 64 (lane 64 j (s.getV va)))))

/-- CLSW writes a class entry or a channel record from the 32-byte record in local store, its counts zero; CHFREE advances
TAIL and returns the space of a flow-tracked class where a return is due; CHSYNC asks the receiver and waits 64 µs; a record
with a bad field, more bytes freed than the ring holds, and a record that is not the slot's fault 0x32 (R224, R234, R237,
R239). -/
def Obligations.ClassesAndChannelsAreSetUp : Prop :=
  ∀ (s : State) (d a k : BitVec 5),
    let n := s.curCore
    let va := s.getG a
    let p := s.me.st.partition
    (29 ≤ k.toNat → s.me.st.mode ≠ .management →
      (∃ addr, Faults s (.clsw a k) 0x02 addr) ∧ ∃ addr, Faults s (.chfree a k) 0x02 addr) ∧
    (k.toNat < 29 →
      (va.toNat % 32 ≠ 0 → Faults s (.clsw a k) 0x03 va) ∧
      (va.toNat % 32 = 0 → s.selfSpan va 32 32 = .ok () → s.selfBad va.toNat 32 = none →
        let r := ofBytes (s.selfBytes va.toNat 32)
        let e := classOfRecord r
        (r / 2 ^ 248 = 0 → s.ownsClass p n k.toNat = true →
          (classRecordOk r = false ∨ e.inShare (s.shareSize n s.me.who) = false → ∃ addr, Faults s (.clsw a k) 0x32 addr) ∧
          (classRecordOk r = true → e.inShare (s.shareSize n s.me.who) = true →
            (r.testBit 10 = true → s.ownsCounter (r / 2 ^ 11 % 32) = true) →
            (r % 8 = 3 → s.ownsQueue (r / 2 ^ 16 % 8) = true) →
            ∃ t, exec (.clsw a k) s = .next t ∧ SlotFrame s t [] [] [] ∧ SameMemory s t ∧ Advances s t 4 ∧
              (let c := t.cls n k
               c.mode.toNat = r % 8 ∧ c.sizelog.toNat = r / 2 ^ 3 % 16 ∧ c.wrap = r.testBit 7 ∧ c.fe = r.testBit 8 ∧
               c.flow = r.testBit 9 ∧ c.cnten = r.testBit 10 ∧ c.counter.toNat = r / 2 ^ 11 % 32 ∧
               c.queue.toNat = r / 2 ^ 16 % 8 ∧ c.expseq.toNat = r / 2 ^ 90 % 2 ^ 16 ∧
               c.source.toNat = r / 2 ^ 106 % 2 ^ 22 ∧ c.base.toNat = r / 2 ^ 192 % 2 ^ 32 ∧ c.head = 0 ∧ c.tail = 0 ∧
               c.dups = 0) ∧
              (∀ h, h ∈ t.here.held ↔ h ∈ s.here.held ∧ h.msg.cls ≠ k) ∧
              ∀ j, j ≠ k → t.cls n j = s.cls n j)) ∧
        (r / 2 ^ 248 = 1 → k = 0 →
          let idx : BitVec 6 := bitsOf r 232 6
          let size := r / 2 ^ 128 % 2 ^ 32
          let reserved := r / 2 ^ 238 % 2 ^ 10 = 0 ∧ r / 2 ^ 224 % 2 ^ 8 = 0 ∧ r / 2 ^ 4 % 2 ^ 65 = 0 ∧ r.testBit 1 = false
          (¬reserved ∨ size < 8 ∨ 2 ^ 20 < size → ∃ addr, Faults s (.clsw a k) 0x32 addr) ∧
          (reserved → 8 ≤ size → size ≤ 2 ^ 20 → s.channelFor n p (bitsOf r 106 22) (bitsOf r 101 5) = none →
            ∃ t, exec (.clsw a k) s = .next t ∧ SlotFrame s t [] [] [] ∧ SameMemory s t ∧ Advances s t 4 ∧
              (let c := t.chan n idx
               c.valid = r.testBit 0 ∧ c.k.toNat = size ∧ c.dest.toNat = r / 2 ^ 106 % 2 ^ 22 ∧
               c.cls.toNat = r / 2 ^ 101 % 32 ∧ c.probe.toNat = r / 2 ^ 69 % 2 ^ 16 ∧ c.s = 0 ∧ c.c = 0 ∧ c.seq = 0 ∧
               c.stall = false ∧ c.broken = false ∧ c.part = p)))) ∧
      (s.ownsClass p n k.toNat = false → ∃ addr, Faults s (.chfree a k) 0x31 addr) ∧
      (s.ownsClass p n k.toNat = true →
        let e := s.cls n k
        let x : Word := va.setWidth 32
        (e.mode ≠ 2 ∨ (e.head - e.tail).toNat < x.toNat → Faults s (.chfree a k) 0x32 va) ∧
        (e.mode = 2 → x.toNat ≤ (e.head - e.tail).toNat → s.me.outstanding = 0 → s.me.deferred = none →
          ∃ t, exec (.chfree a k) s = .next t ∧ SlotFrame s t [] [] [] ∧ SameMemory s t ∧ Advances s t 4 ∧
            (t.cls n k).tail = e.tail + x ∧ (t.cls n k).head = e.head ∧
            (e.flow = false → t.due = s.due) ∧
            (e.flow = true → s.ownPanel n e.source = true → e.head = e.tail + x →
              ∃ m, t.due = s.due ++ [{ path := some (true, n, nameCore e.source),
                                       ev := { kind := arrivalKind m, arg := .msg m } }] ∧
                m.dest = e.source ∧ m.cls = k ∧ m.kind = 1 ∧ m.aux = (e.tail + x).setWidth 64)))) ∧
    (let idx : BitVec 6 := va.setWidth 6
     let c := s.chan n idx
     (63 < va.toNat ∨ c.valid = false ∨ c.part ≠ p → Faults s (.chsync d a) 0x32 va) ∧
     (va.toNat ≤ 63 → c.valid = true → c.part = p → s.ownPanel n c.dest = true →
       Waits s (.chsync d a) (.chsync d idx (s.ptime + 64000)) ∧
       ∀ t, exec (.chsync d a) s = .next t → ∃ m, m.kind = 3 ∧ m.dest = c.dest ∧ m.cls = c.cls ∧
         t.due = s.due ++ [{ path := some (true, n, nameCore c.dest),
                             ev := { kind := arrivalKind m, arg := .msg m } }]))

/-- An arriving message: discarded at an isolated core, logged where its class is another partition's, refused where its
source was refused before; otherwise its class decides. A disabled class counts it as dropped. A deposit area takes its
payload at BASE, and with FE each word is set full at the distance scope in the same step. A ring takes its record at HEAD,
behind a pad where the class asks for records that do not wrap, and counts it as dropped where the ring can never hold it. A
queue register takes its dwords. A message that finds no room, or whose class has one held already, is held while the
partition's allotment lasts, the last place waking the overflow slot, and is refused after that. Where it is processed or
held, its source's outgoing entry is free (R221, R223, R225, R226, R228, R380). A held message of a class is deposited in the
same way when it has room (R227). -/
def Obligations.ArrivalsAreDeposited : Prop :=
  ∀ (s : State) (m : Msg), Memory.wf s.mem = true → Untraced s →
    let n := nameCore m.dest
    let src := nameCore m.source
    let e := s.cls n m.cls
    let at_ := fun (o : Nat) => s.sharePhys n (s.homeWho n m.part) (e.base.toNat + o)
    let sound := fun (k : Nat) => s.inShare n (s.homeWho n m.part) e.base.toNat k = true ∧ e.base.toNat % 8 = 0 ∧
      ∀ j, j < k → s.badIn (at_ j) 1 = none
    let counted := fun (t : State) =>
      e.cnten = true → (t.core n).c.get e.counter.toFin = (s.core n).c.get e.counter.toFin + 1
    let rec_ := bytesOf 8 (recordHeader m false).toNat ++ payloadBytes m
    let size := e.ringSize
    let o := e.head.toNat % size
    let pad := if e.wrap = true ∧ o ≠ 0 ∧ size - o < rec_.length then size - o else 0
    let q := s.queue n e.queue
    let plain := s.ownsClass m.part n m.cls.toNat = true ∧ (s.core n).handing m.part = false ∧ e.flow = false
    let area := plain ∧ e.mode = 1 ∧ m.len ≤ 256 ∧ sound 256
    let ring := plain ∧ e.mode = 2 ∧ m.len ≤ 256 ∧ e.fe = false ∧ sound size ∧ o % 8 = 0
    let deposited := fun (t : State) =>
      (∀ j, j < m.len → Memory.get t.mem (at_ j) = byteAt m.payload.toNat j) ∧ counted t ∧
      (t.cls n m.cls).expseq = e.expseq ∧
      (e.fe = true → (s.core n).waits = [] → ∀ j, 8 * j < m.len → t.isFull (at_ (8 * j)) = true ∧
        (s.ownPanel n m.source = true → t.scopeAt (at_ (8 * j)) = s.distance src n))
    let recorded := fun (t : State) =>
      (∀ j, j < rec_.length → some (Memory.get t.mem (at_ ((o + pad + j) % size))) = rec_[j]?) ∧
      (pad ≠ 0 → ∀ j, j < 8 → Memory.get t.mem (at_ (o + j)) = byteAt (recordHeader m true).toNat j) ∧
      (t.cls n m.cls).head = e.head + BitVec.ofNat 32 (pad + rec_.length) ∧ counted t
    let queued := fun (t : State) => SameMemory s t ∧ counted t ∧
      t.queue n e.queue = { q with entries := q.entries ++ payloadDwords m }
    (s.arg = .msg m →
      let accepts := fun (p : State → Prop) => ∃ t, exec .messageArrival s = .next t ∧ p t ∧
        (t.core src).sent = (s.core src).sent.erase { m with retry := false }
      let dropped := accepts (fun t => SameMemory s t ∧
        (t.cls n m.cls).drops = if e.drops = BitVec.allOnes 20 then e.drops else e.drops + 1)
      let kept := fun (t : State) => SameMemory s t ∧ (t.core n).held = (s.core n).held ++ [{ msg := m, since := s.ptime }]
      let refused := ∃ t, exec .messageArrival s = .next t ∧ SameMemory s t ∧ (t.core n).held = (s.core n).held ∧
        (m.part, m.source) ∈ (t.core n).refusing ∧
        t.due = s.due ++ [{ path := some (true, n, src), ev := { kind := .messageRefusal, arg := .msg m } }]
      let holds := s.ownsClass m.part n m.cls.toNat = true ∧ (s.core n).handing m.part = false ∧
        ((∃ h, h ∈ (s.core n).held ∧ h.msg.cls = m.cls) ∨
          ((s.core n).held = [] ∧ ring ∧ rec_.length ≤ size ∧ e.free < pad + rec_.length))
      ((s.core n).isolated = true → accepts (SameMemory s)) ∧
      ((s.core n).isolated = false → (m.part, m.source) ∈ (s.core n).refusing → m.retry = false →
        s.ownPanel n m.source = true → refused) ∧
      ((s.core n).isolated = false → (s.core n).refusing = [] →
        (s.ownsClass m.part n m.cls.toNat = false → accepts (fun t => SameMemory s t ∧
          t.errlog = s.errlog ++ [{ cause := 0, core := n, slot := m.cls.toNat, value := m.source.setWidth 64 }])) ∧
        ((s.core n).held = [] →
          (plain → e.mode = 0 → dropped) ∧
          (area → accepts deposited) ∧
          (ring → size < rec_.length → dropped) ∧
          (ring → rec_.length ≤ size → pad + rec_.length ≤ e.free → accepts recorded) ∧
          (plain → e.mode = 3 → q.mode = 3 → q.readers = [] → q.writers = [] →
            q.entries.length + (payloadDwords m).length ≤ 8 → accepts queued)) ∧
        (s.ownsClass m.part n m.cls.toNat = true → (s.core n).handing m.part = true → accepts kept) ∧
        (holds →
          (((s.core n).heldOf m.part).length + 1 < s.allotment n → accepts kept) ∧
          (((s.core n).heldOf m.part).length + 1 = s.allotment n → ∀ i, s.overflowSlot n m.part = some i →
            (s.slot n i).run = .running → (s.slot n i).st.ovf = false → (s.slot n i).pending = [] →
            accepts (fun t => kept t ∧ (t.slot n i).pending = [(0x39, 0)])) ∧
          (s.allotment n ≤ ((s.core n).heldOf m.part).length → s.ownPanel n m.source = true → refused)))) ∧
    (∀ since, s.arg = .coreClass n m.cls → (s.core n).held = [{ msg := m, since := since }] →
      (area → ∃ t, exec .heldMessageDeposit s = .next t ∧ deposited t ∧ (t.core n).held = []) ∧
      (ring → rec_.length ≤ size → pad + rec_.length ≤ e.free →
        ∃ t, exec .heldMessageDeposit s = .next t ∧ recorded t ∧ (t.core n).held = []) ∧
      (ring → rec_.length ≤ size → e.free < pad + rec_.length → exec .heldMessageDeposit s = .next s))

/-- Refusal and holding: a refused message is kept at its source and, 256 mesh cycles later, leaves again ahead of what
left the core after it, with RETRY on the first; a message held for longer than HOLD wakes the partition's overflow slot,
or is dropped and counted where there is none (R221, R228). What a refused message of another panel does is the model's
reading (log 26). -/
def Obligations.RefusedMessagesAreResent : Prop :=
  ∀ (s : State),
    (∀ m, s.arg = .msg m →
      let src := nameCore m.source
      let m0 := { m with retry := false }
      ∃ t, exec .messageRefusal s = .next t ∧ t = s.setCore src (t.core src) ∧ SameMemory s t ∧
        (t.core src).retained = (s.core src).retained ++ [(s.ptime + 128, m0)] ∧
        (t.core src).sent = (s.core src).sent.erase m0) ∧
    (∀ n p dest, s.arg = .corePartDest n p dest →
      let mine := fun (r : Nat × Msg) => r.2.part == p && r.2.dest == dest
      ∀ first rest, (s.core n).retained.filter mine = first :: rest →
        (s.ptime < first.1 → exec .refusalResend s = .next s) ∧
        (first.1 ≤ s.ptime → s.refusalUnderWay n p (nameCore dest) = false →
          ∃ t, exec .refusalResend s = .next t ∧ SameMemory s t ∧
            t.due = resent n { first.2 with retry := true } :: rest.map (fun r => resent n r.2) ++ s.due ∧
            (∀ r, r ∈ (t.core n).retained ↔ r ∈ (s.core n).retained ∧ mine r = false) ∧
            (t.core n).sent = (s.core n).sent ++ first.2 :: rest.map Prod.snd)) ∧
    (∀ n p h, s.arg = .corePart n p → s.overdue n p = [h] →
      (∀ i, s.overflowSlot n p = some i → (s.slot n i).run = .running → (s.slot n i).st.ovf = false →
        (s.slot n i).pending = [] →
        ∃ t, exec .holdTimeout s = .next t ∧ (t.slot n i).pending = [(0x39, 0)] ∧ (t.core n).held = (s.core n).held ∧
          SameMemory s t) ∧
      (s.overflowSlot n p = none →
        ∃ t, exec .holdTimeout s = .next t ∧ (t.core n).held = (s.core n).held.erase h ∧ SameMemory s t ∧
          (t.cls n h.msg.cls).drops =
            (let x := (s.cls n h.msg.cls).drops; if x = BitVec.allOnes 20 then x else x + 1)))

/-- Returns, probes and resynchronisation of channels: a return that is not stale moves C and clears STALL; a probe is sent
while a slot waits and no return has come for the interval, the sixteenth in a row setting STALL, and is answered with a
return; a CHSYNC request is answered with HEAD, TAIL and EXPSEQ, and its reply gives them to the record and lets the slot
go on, as the end of 64 µs does; a deposit acknowledged is one fewer undeposited (R237 to R239, R370). Each of the four kinds
is discarded at an isolated core and, where its partition does not own the class, discarded and logged (R378, R448). -/
def Obligations.ChannelsAreReturnedAndSynced : Prop :=
  ∀ (s : State),
    (∀ m idx, s.arg = .msg m → s.channelOf (nameCore m.dest) m = some idx →
      (s.core (nameCore m.dest)).isolated = false → s.ownsClass m.part (nameCore m.dest) m.cls.toNat = true →
      let n := nameCore m.dest
      let c := s.chan n idx
      let x : Word := m.aux.setWidth 32
      (∃ t, exec .channelReturnArrival s = .next t ∧ SameMemory s t ∧
        (t.chan n idx).c = (if (x - c.c).toNat ≤ (c.s - c.c).toNat then x else c.c) ∧
        (t.chan n idx).stall = false ∧ (t.chan n idx).s = c.s ∧ (t.chan n idx).seq = c.seq) ∧
      (c.resync = false → ∀ i d, s.syncWaiter n idx = some (i, d) →
        ∃ t, exec .chsyncReplyArrival s = .next t ∧ SameMemory s t ∧ Rejoins s t n i [d] ∧
          (t.chan n idx).s = x ∧ (t.chan n idx).c = BitVec.ofNat 32 (m.aux.toNat / 2 ^ 32) ∧
          (t.chan n idx).seq = m.seq ∧ (t.chan n idx).broken = false ∧ (t.chan n idx).stall = false ∧
          (t.slot n i).getG d = (if d = 0 then 0 else
            BitVec.ofNat 64 ((x - BitVec.ofNat 32 (m.aux.toNat / 2 ^ 32)).toNat + 2 ^ 32 * natOfBool c.broken)))) ∧
    (∀ m, s.arg = .msg m →
      let n := nameCore m.dest
      let e := s.cls n m.cls
      let kinds := [Instr.channelReturnArrival, .channelProbeArrival, .chsyncRequestArrival, .chsyncReplyArrival]
      ((s.core n).isolated = true → ∀ k, k ∈ kinds → exec k s = .next s) ∧
      ((s.core n).isolated = false → s.ownsClass m.part n m.cls.toNat = false → ∀ k, k ∈ kinds →
        exec k s = .next (s.log 0 n m.cls.toNat (m.source.setWidth 64))) ∧
      ((s.core n).isolated = false → s.ownsClass m.part n m.cls.toNat = true → s.ownPanel n m.source = true →
      let answered := fun (k : Instr) (kind : BitVec 4) (aux : Nat) =>
        ∃ t r, exec k s = .next t ∧ SameMemory s t ∧ r.kind = kind ∧ r.dest = m.source ∧ r.cls = m.cls ∧
          r.aux = BitVec.ofNat 64 aux ∧
          t.due = s.due ++ [{ path := some (true, n, nameCore m.source), ev := { kind := arrivalKind r, arg := .msg r } }]
      (e.flow = true → e.source = m.source → answered .channelProbeArrival 1 e.tail.toNat) ∧
      ((s.core n).held = [] →
        answered .chsyncRequestArrival 4 (e.head.toNat + 2 ^ 32 * e.tail.toNat)))) ∧
    (∀ n idx, s.arg = .channel n idx →
      let c := s.chan n idx
      let late := c.valid = true ∧ s.line n idx ≠ [] ∧
        c.lastReturn + (if c.probe = 0 then 64 else c.probe.toNat) * 1000 ≤ s.ptime
      (¬late → exec .channelProbe s = .next s) ∧
      (late → s.ownPanel n c.dest = true →
        ∃ t m, exec .channelProbe s = .next t ∧ SameMemory s t ∧ m.kind = 2 ∧ m.dest = c.dest ∧ m.cls = c.cls ∧
          t.due = s.due ++ [{ path := some (true, n, nameCore c.dest),
                              ev := { kind := arrivalKind m, arg := .msg m } }] ∧
          (t.chan n idx).probes = c.probes + 1 ∧ ((t.chan n idx).stall = true ↔ c.stall = true ∨ 15 ≤ c.probes))) ∧
    (∀ n i d idx dl, s.arg = .slot n i → (s.slot n i).run = .waiting (.chsync d idx dl) →
      (s.ptime < dl → exec .chsyncTimeout s = .next s) ∧
      (dl ≤ s.ptime → ∃ t, exec .chsyncTimeout s = .next t ∧ Rejoins s t n i [d] ∧ SameMemory s t ∧
        (t.slot n i).getG d = (if d = 0 then 0 else
          let c := s.chan n idx
          BitVec.ofNat 64 ((c.s - c.c).toNat + 2 ^ 32 * natOfBool c.broken + 2 ^ 33)))) ∧
    (∀ m, s.arg = .msg m →
      ∃ t, exec .flowDepositAck s = .next t ∧ SameMemory s t ∧ (t.core (nameCore m.source)).undeposited =
        (s.core (nameCore m.source)).undeposited.erase (m.part, m.dest, m.cls))

/-! ### Benches -/

/-- BENCH leads and BENCH.F follows; the bench forms when every follower has joined, and then every member is in it with its
role, at the leader's PC and on the leader's counts; a core that cannot be placed faults 0x06 and a member of a bench 0x08; a
bench that has not formed by its deadline faults 0x08 with cause 5 in BEND; SPLIT leaves with cause 1; BXCH gives every member that takes no cause of its own instead
its neighbour's register, all read before any is written (R122 to R127, R129). -/
def Obligations.BenchesFormExchangeAndSplit : Prop :=
  ∀ (s : State) (num : BitVec 3) (d a : BitVec 4) (row : BitVec 1),
    let n := s.curCore
    let i := s.curSlot
    let span := num.toNat + 1
    let forms := fun (k : Instr) (l : Nat) =>
      ∃ t, exec k s = .next t ∧ SameMemory s t ∧ ∀ j, j < span →
        (t.slot (l + j) i).bench = some { leader := l, span := span, pos := j, done := 0 } ∧
        (t.slot (l + j) i).st = { (s.slot (l + j) i).st with brole := if j = 0 then 1 else 2 } ∧
        (t.slot (l + j) i).run = .waiting .rejoin ∧
        (t.slot (l + j) i).pc = (endAction (s.slot l i).loops (s.slot l i).pc ((s.slot l i).pc + 4)).2 ∧
        (t.slot (l + j) i).g = (s.slot (l + j) i).g ∧ (t.slot (l + j) i).v = (s.slot (l + j) i).v ∧
        (t.core (l + j)).p = (s.core l).p ∧ (t.core (l + j)).o = (s.core l).o
    let alone := ∀ j dl l, j < span → (s.slot (n + 1 + j) i).run ≠ .waiting (.benchF span dl l)
    (s.onEdge = true → ∀ k, k ∈ [Instr.bench num, .benchF num, .bxch d a row] →
      ∀ w, encodeWord k = some w → Faults s k 0x01 (BitVec.ofNat 64 w)) ∧
    (s.onEdge = false → s.me.bench ≠ none →
      (∃ addr, Faults s (.bench num) 0x08 addr) ∧ ∃ addr, Faults s (.benchF num) 0x08 addr) ∧
    (s.onEdge = false → s.me.bench = none →
      (s.benchFits n i span = false → ∃ addr, Faults s (.bench num) 0x06 addr) ∧
      (s.benchFits n i span = true → num ≠ 0 →
        (alone → Waits s (.bench num) (.bench span (s.here.t + 65535))) ∧
        ((∀ j, 1 ≤ j → j < span → (s.slot (n + j) i).job = s.me.job ∧
          ∃ dl, (s.slot (n + j) i).run = .waiting (.benchF span dl none) ∧ (s.core (n + j)).t < dl) → forms (.bench num) n)) ∧
      (s.nearestLeader n i span = none → Waits s (.benchF num) (.benchF span (s.here.t + 65535) none)) ∧
      (∀ l, s.nearestLeader n i span = some l → num ≠ 0 →
        ((∃ j, j < span - 1 ∧ l + 1 + j ≠ n ∧ s.joined (l + 1 + j) i l span = false) →
          Waits s (.benchF num) (.benchF span (s.here.t + 65535) (some l))) ∧
        ((∀ j, j < span - 1 → l + 1 + j ≠ n → s.joined (l + 1 + j) i l span = true) → forms (.benchF num) l))) ∧
    (∃ t, exec .split s = .next t ∧ Advances s t 4 ∧ SameMemory s t ∧ (∀ r, t.getG r = s.getG r) ∧
      (∀ r, t.getV r = s.getV r) ∧ (s.me.bench = none → Frame s t [] [] []) ∧
      (s.me.bench ≠ none → t.me.bench = none ∧ t.me.st = { s.me.st with bend := 1, brole := 0 })) ∧
    (s.onEdge = false → s.me.bench = none →
      ∃ t, exec (.bxch d a row) s = .next t ∧ Frame s t [] [d] [] ∧ Advances s t 4 ∧ t.getV d = s.getV a) ∧
    (∀ b, s.onEdge = false → s.me.bench = some b →
      let clear := fun (j : Nat) => (s.slot (b.leader + j) i).taking = none ∧ (s.slot (b.leader + j) i).nextCause = none
      ((∃ j, j < b.pos ∧ b.pos < b.span ∧ clear j) →
        ∃ t, exec (.bxch d a row) s = .next t ∧ Frame s t [] [] [] ∧ Advances s t 4) ∧
      (b.leader + b.pos = n → b.pos < b.span → clear b.pos → (∀ j, j < b.pos → ¬clear j) →
        ∃ t, exec (.bxch d a row) s = .next t ∧ SameMemory s t ∧ Advances s t 4 ∧
          ∀ j, j < b.span →
            let src := if row = 0 then (j + 1) % b.span else (j + b.span - 1) % b.span
            (clear j → (t.slot (b.leader + j) i).getV d = (s.slot (b.leader + src) i).getV a) ∧
            (¬clear j → (t.slot (b.leader + j) i).getV d = (s.slot (b.leader + j) i).getV d) ∧
            ∀ r, r ≠ d → (t.slot (b.leader + j) i).getV r = (s.slot (b.leader + j) i).getV r)) ∧
    (∀ m k sp dl l, s.arg = .slot m k →
      (s.slot m k).run = .waiting (.bench sp dl) ∨ (s.slot m k).run = .waiting (.benchF sp dl l) →
      let fails := ∃ addr, exec .benchFormationTimeout s =
        .next ((s.modSlot m k (fun sl => { sl with st := { sl.st with bend := 5 } })).answerFault m k 0x08 addr)
      ((s.core m).t < dl → exec .benchFormationTimeout s = .next s) ∧
      ((s.slot m k).run = .waiting (.bench sp dl) → dl ≤ (s.core m).t →
        (∀ j, j < sp - 1 → s.joined (m + 1 + j) k m sp = false) → fails) ∧
      ((s.slot m k).run = .waiting (.benchF sp dl none) → dl ≤ (s.core m).t → fails))

/-! ### Vector instructions -/

/-- Major 0x1C and 0x1D: in every enabled lane the exact integer result of R249, wrapped or, with .sat, clamped, with no
flag; for float types the results of R250 and R251, rounded in the slot's mode with the lane's random word; VDOT adds each
group of products to a 32-bit lane with one rounding (R252). -/
def Obligations.VectorArithmeticFillsEnabledLanes : Prop :=
  ∀ (s : State) (d a b : BitVec 4) (km : BitVec 3) (ty : BitVec 5) (sc : BitVec 1), ty.toNat ≤ 10 →
    let w := widthOf ty
    let on := fun j => (s.getK km).getLsbD j
    let x := fun j => lane w j (s.getV a)
    let y := fun j => lane w j (s.getV b)
    let z := fun j => lane w j (s.getV d)
    let signed := ty.toNat % 2 = 0
    let num := fun (v : Nat) => if signed then (BitVec.ofNat w v).toInt else (v : Int)
    let lo : Int := if signed then -(2 ^ (w - 1)) else 0
    let hi : Int := if signed then 2 ^ (w - 1) - 1 else 2 ^ w - 1
    let keep := fun (sat : Bool) (v : Int) => (BitVec.ofInt w (if sat then max lo (min v hi) else v)).toNat
    let ints := fun (i : Instr) (sat : Bool) (f : Int → Int → Int) =>
      Lanes s i d w (512 / w) on (fun j => (keep sat (f (num (x j)) (num (y j))), 0)) false
    let m := s.me.fp.rmode.toNat
    let r := fun (j : Nat) => randWord s.me.fp.seed s.me.fp.draw j
    let f := vecFmt ty
    let flts := fun (i : Instr) (g : Nat → Nat × BitVec 5) (draws : Bool) =>
      Lanes s i d w (512 / w) on g (draws && m == 5)
    (ty.toNat ≤ 7 →
      ints (.vadd d a b km ty sc) (sc == 1) (fun p q => p + q) ∧ ints (.vsub d a b km ty sc) (sc == 1) (fun p q => p - q) ∧
      ints (.vmul d a b km ty sc) (sc == 1) (fun p q => p * q) ∧
      ints (.vmulh d a b km ty) false (fun p q => p * q / 2 ^ w) ∧
      ints (.vmin d a b km ty) false (fun p q => min p q) ∧ ints (.vmax d a b km ty) false (fun p q => max p q) ∧
      ints (.vabs d a km ty sc) (sc == 1) (fun p _ => if p < 0 then -p else p) ∧
      ints (.vneg d a km ty sc) (sc == 1) (fun p _ => -p)) ∧
    (8 ≤ ty.toNat →
      flts (.vadd d a b km ty sc) (fun j => f.add m (r j) (x j) (y j)) true ∧
      flts (.vsub d a b km ty sc) (fun j => f.sub m (r j) (x j) (y j)) true ∧
      flts (.vmul d a b km ty sc) (fun j => f.mul m (r j) (x j) (y j)) true ∧
      flts (.vmin d a b km ty) (fun j => f.minMax false (x j) (y j)) false ∧
      flts (.vmax d a b km ty) (fun j => f.minMax true (x j) (y j)) false ∧
      flts (.vabs d a km ty sc)
        (fun j => (if (f.decode (x j)).isNan then f.nanCode else x j % 2 ^ (w - 1), 0)) false ∧
      flts (.vneg d a km ty sc)
        (fun j => (if (f.decode (x j)).isNan then f.nanCode else (x j + 2 ^ (w - 1)) % 2 ^ w, 0)) false ∧
      flts (.vfma d a b km ty) (fun j => f.dot m (r j) [(f.decode (x j), f.decode (y j))] [f.decode (z j)]) true ∧
      flts (.vfms d a b km ty) (fun j => f.dot m (r j) [(f.decode (x j), f.decode (y j))] [(f.decode (z j)).neg]) true ∧
      flts (.vfnma d a b km ty) (fun j => f.dot m (r j) [((f.decode (x j)).neg, f.decode (y j))] [f.decode (z j)]) true) ∧
    (let g := 32 / w
     let old := fun (j : Nat) => lane 32 j (s.getV d)
     (ty.toNat ≤ 3 → Lanes s (.vdot d a b km ty) d 32 16 on (fun j =>
       ((BitVec.ofInt 32 ((old j : Int) + ((List.range g).map (fun k => num (x (g * j + k)) * num (y (g * j + k)))).sum)).toNat,
        0)) false) ∧
     (ty = 8 ∨ ty = 9 → Lanes s (.vdot d a b km ty) d 32 16 on (fun j =>
       fmtF32.dot m (r j) ((List.range g).map (fun k => (f.decode (x (g * j + k)), f.decode (y (g * j + k)))))
         [fmtF32.decode (old j)]) (m == 5)))

/-- Float sums and products are exact and rounded once: a NaN operand gives the canonical NaN, with NV where it signals;
∞ − ∞ and 0 × ∞ give it with NV; an exact zero takes the sign of R81; a value that the format holds rounds to itself in every
mode with no flag (R76, R81, R245, R250). -/
def Obligations.FloatArithmeticRoundsTheExactResult : Prop :=
  ∀ (f : Fmt), f ∈ [fmtF32, fmtF16, fmtBF16, fmtE5M2, fmtE4M3, fmtE3M4, fmtE3M2, fmtE2M3, fmtE2M1] →
    ∀ (mode rand x y : Nat), x < 2 ^ (1 + f.ebits + f.mbits) →
      (∀ n m e sat, f.decode x = .fin n m e → f.round mode rand sat n m e = (x, 0)) ∧
      ((f.decode x).isNan || (f.decode y).isNan →
        let nv := if (f.decode x).isSig || (f.decode y).isSig then flagNV else 0
        f.add mode rand x y = (f.nanCode, nv) ∧ f.sub mode rand x y = (f.nanCode, nv) ∧
        f.mul mode rand x y = (f.nanCode, nv)) ∧
      (∀ p q, f.decode x = .inf p → f.decode y = .inf q →
        f.add mode rand x y = (if p = q then (f.infCode p, 0) else (f.nanCode, flagNV)) ∧
        f.sub mode rand x y = (if p = q then (f.nanCode, flagNV) else (f.infCode p, 0)) ∧
        f.mul mode rand x y = (f.infCode (p != q), 0)) ∧
      (∀ p q e, f.decode x = .inf p → f.decode y = .fin q 0 e → f.mul mode rand x y = (f.nanCode, flagNV)) ∧
      (∀ p q m e, f.decode x = .inf p → f.decode y = .fin q (m + 1) e →
        f.mul mode rand x y = (f.infCode (p != q), 0) ∧ f.add mode rand x y = (f.infCode p, 0)) ∧
      (∀ p m e q k g, f.decode x = .fin p m e → f.decode y = .fin q k g → m ≠ 0 → k ≠ 0 →
        let lo := min e g
        let u : Int := (if p then -(m : Int) else m) * 2 ^ (e - lo).toNat
        let v : Int := (if q then -(k : Int) else k) * 2 ^ (g - lo).toNat
        (u + v ≠ 0 → f.add mode rand x y = f.round mode rand false (decide (u + v < 0)) (u + v).natAbs lo) ∧
        (u + v = 0 → f.add mode rand x y = (f.pack (mode == 2) 0, 0)) ∧
        (u - v ≠ 0 → f.sub mode rand x y = f.round mode rand false (decide (u - v < 0)) (u - v).natAbs lo) ∧
        (u - v = 0 → f.sub mode rand x y = (f.pack (mode == 2) 0, 0)) ∧
        f.mul mode rand x y = f.round mode rand false (p != q) (m * k) (e + g))

/-- Majors 0x1E, 0x20, 0x22 and 0x23: logical operations and shifts on the bits of each enabled lane, shift counts past the
width included; VSEL, VMOV, VPERM and VSHUF; VBCST, VINS, VEXT and VLI (R253, R255, R257, R258). -/
def Obligations.VectorBitsMovesAndPermutations : Prop :=
  ∀ (s : State) (d a b : BitVec 4) (km : BitVec 3) (ty gr : BitVec 5) (ln : BitVec 6) (imm : BitVec 16),
    ty.toNat ≤ 10 →
    let w := widthOf ty
    let on := fun j => (s.getK km).getLsbD j
    let x := fun j => lane w j (s.getV a)
    let y := fun j => lane w j (s.getV b)
    let z := fun j => lane w j (s.getV d)
    let fills := fun (i : Instr) (f : Nat → Nat) => Lanes s i d w (512 / w) on (fun j => (f j, 0)) false
    let whole := fun (i : Instr) (f : Nat → Nat) => Lanes s i d w (512 / w) (fun _ => true) (fun j => (f j, 0)) false
    (fills (.vand d a b km ty) (fun j => x j &&& y j) ∧ fills (.vor d a b km ty) (fun j => x j ||| y j) ∧
     fills (.vxor d a b km ty) (fun j => x j ^^^ y j) ∧ fills (.vnot d a km ty) (fun j => 2 ^ w - 1 - x j) ∧
     fills (.vshl d a b km ty) (fun j => if w ≤ y j then 0 else x j * 2 ^ y j) ∧
     fills (.vshr d a b km ty) (fun j => x j / 2 ^ y j) ∧
     fills (.vsar d a b km ty)
       (fun j => (BitVec.ofInt w ((BitVec.ofNat w (x j)).toInt / 2 ^ min (y j) (w - 1))).toNat)) ∧
    (whole (.vsel d a b km ty) (fun j => if on j then x j else y j) ∧ fills (.vmov d a km ty) x ∧
     fills (.vperm d a b km ty) (fun j => if y j < 512 / w then x (y j) else 0) ∧
     fills (.vshuf d a b km ty) (fun j => if j % 2 = 0 then x (j / 2) else y (j / 2))) ∧
    (whole (.vbcst d gr ty) (fun _ => (s.getG gr).toNat) ∧
     whole (.vins d gr ln ty) (fun j => if j = ln.toNat then (s.getG gr).toNat else z j) ∧
     Result s (.vext gr a ln ty) 4 gr
       (if ty.toNat ≤ 7 ∧ ty.toNat % 2 = 0 then BitVec.ofInt 64 (BitVec.ofNat w (x ln.toNat)).toInt
        else BitVec.ofNat 64 (x ln.toNat)) ∧
     Lanes s (.vli d imm 0) d 16 32 (fun _ => true) (fun _ => (imm.toNat, 0)) false ∧
     Lanes s (.vli d imm 1) d 32 16 (fun _ => true) (fun _ => (imm.toNat, 0)) false ∧
     Lanes s (.vli d imm 2) d 32 16 (fun _ => true) (fun _ => (imm.toNat * 2 ^ 16, 0)) false ∧
     Lanes s (.vli d imm 3) d 8 64 (fun _ => true) (fun _ => (imm.toNat, 0)) false)

/-- VCMP writes a mask by its predicate, a NaN being unordered and signalling as R254 says; VCVT converts lane by lane; VCLS
names a lane's class; VSCALE multiplies by a power of two and rounds once; VRED of integers is the fold of its operation over
the enabled lanes, whatever the tree, and of floats the pairwise tree (R254, R256, R259, R261, R262). -/
def Obligations.VectorComparesConvertsAndReduces : Prop :=
  ∀ (s : State) (kd km : BitVec 3) (d a b : BitVec 4) (ty fl pos op : BitVec 5) (row : BitVec 3) (sc : BitVec 1),
    let w := widthOf ty
    let on := fun j => (s.getK km).getLsbD j
    let x := fun j => lane w j (s.getV a)
    let y := fun j => lane w j (s.getV b)
    let num := fun (v : Nat) => if ty.toNat % 2 = 0 then (BitVec.ofNat w v).toInt else (v : Int)
    let f := vecFmt ty
    let m := s.me.fp.rmode.toNat
    let r := fun (j : Nat) => randWord s.me.fp.seed s.me.fp.draw j
    (ty.toNat ≤ 10 → pos.toNat ≤ 6 → pos ≠ 6 ∨ 8 ≤ ty.toNat →
      let p := f.decode ∘ x
      let q := f.decode ∘ y
      let nan := fun j => (p j).isNan || (q j).isNan
      let ints := ty.toNat ≤ 7
      let holds := fun (j : Nat) => match pos.toNat with
        | 0 => if ints then x j = y j else ¬nan j ∧ ¬(p j).lt (q j) ∧ ¬(q j).lt (p j)
        | 1 => if ints then x j ≠ y j else nan j ∨ (p j).lt (q j) ∨ (q j).lt (p j)
        | 2 => if ints then num (x j) < num (y j) else ¬nan j ∧ (p j).lt (q j)
        | 3 => if ints then num (x j) ≤ num (y j) else ¬nan j ∧ ¬(q j).lt (p j)
        | 4 => if ints then num (y j) < num (x j) else ¬nan j ∧ (q j).lt (p j)
        | 5 => if ints then num (y j) ≤ num (x j) else ¬nan j ∧ ¬(p j).lt (q j)
        | _ => nan j
      let signals := fun (j : Nat) =>
        ¬ints ∧ nan j ∧ ((p j).isSig ∨ (q j).isSig ∨ (2 ≤ pos.toNat ∧ pos.toNat ≤ 5))
      ∃ t nv, exec (.vcmp kd a b km ty pos) s = .next t ∧ Frame s t [] [] [kd] ∧ Advances s t 4 ∧
        (nv = true ↔ ∃ j, j < 512 / w ∧ on j = true ∧ signals j) ∧
        t.me.fp = { s.me.fp with fflags := s.me.fp.fflags ||| (if nv then flagNV else 0) } ∧
        ∀ j, j < 64 → kd ≠ 0 → ((t.getK kd).getLsbD j = true ↔
          j < 512 / w ∧ (if on j then holds j else (s.getK kd).getLsbD j = true))) ∧
    ((Instr.vcvt d a row sc km ty fl).wf = true →
      let n := min (lanesOf fl) (lanesOf ty)
      Lanes s (.vcvt d a row sc km ty fl) d w n (fun j => on (if n = 128 then j / 2 else j))
        (fun j => convert (vecTy fl) (vecTy ty) row.toNat (r j) (sc == 1) (lane (widthOf fl) j (s.getV a))) (row == 5)) ∧
    (8 ≤ ty.toNat → ty.toNat ≤ 10 →
      Lanes s (.vcls d a km ty) d w (512 / w) on (fun j => (2 ^ (match f.decode (x j) with
        | .nan sig => if sig then 8 else 9
        | .inf neg => if neg then 0 else 7
        | .fin neg c _ =>
          if c = 0 then (if neg then 3 else 4) else if c < 2 ^ f.mbits then (if neg then 2 else 5) else (if neg then 1 else 6)),
        0)) false ∧
      Lanes s (.vscale d a b km ty) d w (512 / w) on (fun j => match f.decode (x j) with
        | .nan sig => (f.nanCode, if sig then flagNV else 0)
        | .inf neg => (f.infCode neg, 0)
        | .fin neg c e => f.round m (r j) false neg c (e + (BitVec.ofNat w (y j)).toInt)) (m == 5)) ∧
    ((Instr.vred d a km ty op).wf = true →
      let hot := ((List.range (512 / w)).filter on).map x
      let leaves := (List.range (512 / w)).map (fun j => if on j then some (x j) else none)
      let tree := reduceTree (reduceOp ty op.toNat (if m = 5 then 0 else m)) (512 / w).log2 leaves 0
      let answer := fun (v : Nat) (flags : BitVec 5) =>
        ∃ t, exec (.vred d a km ty op) s = .next t ∧ Frame s t [] [d] [] ∧ Advances s t 4 ∧ t.getV d = BitVec.ofNat 512 (v % 2 ^ w) ∧
          t.me.fp = { s.me.fp with fflags := s.me.fp.fflags ||| flags }
      (ty.toNat ≤ 7 →
        let lo : Int := if ty.toNat % 2 = 0 then -(2 ^ (w - 1)) else 0
        let hi : Int := if ty.toNat % 2 = 0 then 2 ^ (w - 1) - 1 else 2 ^ w - 1
        let code := fun (v : Int) => (BitVec.ofInt w v).toNat
        (op = 0 → answer (code (hot.map num).sum) 0) ∧
        (op = 1 → answer (code ((hot.map num).foldl min hi)) 0) ∧
        (op = 2 → answer (code ((hot.map num).foldl max lo)) 0) ∧
        (op = 3 → answer (hot.foldl (fun u v => u &&& v) (2 ^ w - 1)) 0) ∧
        (op = 4 → answer (hot.foldl (fun u v => u ||| v) 0) 0) ∧
        (op = 5 → answer (hot.foldl (fun u v => u ^^^ v) 0) 0)) ∧
      (8 ≤ ty.toNat → hot ≠ [] → answer (tree.1.getD 0) tree.2) ∧
      (8 ≤ ty.toNat → hot = [] → answer (match op.toNat with
        | 1 => f.infCode false
        | 2 => f.infCode true
        | _ => 0) 0))

/-- Major 0x25: mask operations on all 64 bits, a write to k0 discarded, and moves and counts to general registers (R260). -/
def Obligations.MaskOperationsGiveTheirResults : Prop :=
  ∀ (s : State) (d a b : BitVec 3) (gr : BitVec 5),
    let x := s.getK a
    let y := s.getK b
    let sets := fun (i : Instr) (v : Dword) =>
      ∃ t, exec i s = .next t ∧ Frame s t [] [] [d] ∧ t.me.fp = s.me.fp ∧ Advances s t 4 ∧
        t.getK d = (if d = 0 then BitVec.allOnes 64 else v)
    sets (.kand d a b) (x &&& y) ∧ sets (.kor d a b) (x ||| y) ∧ sets (.kxor d a b) (x ^^^ y) ∧
    sets (.knot d a) (~~~x) ∧ sets (.kmovKK d a) x ∧ sets (.kmovKG d gr) (s.getG gr) ∧
    Result s (.kmovGK gr a) 4 gr x ∧ Result s (.kpop gr a) 4 gr (BitVec.ofNat 64 ((List.range 64).countP x.getLsbD))

/-- Special functions: an instruction of major 0x28 sends its enabled lanes and waits, and is illegal on a core without the
unit; the result of the port's next request fills those lanes and the flags and lets the slot go on, a lost result brings
fault 0x40; from its issue to its result the instruction completes with the value of each enabled lane in its destination
where no other slot has a request at the port; zeros, infinities and NaNs have the fixed results of R270 in every format (R264 to R271). -/
def Obligations.SpecialFunctionsAreSentAndReturn : Prop :=
  (∀ (s : State) (d a : BitVec 4) (km : BitVec 3) (ty : BitVec 5),
    let acts := fun (i : Instr) (op : SfuOp) =>
      (s.isGrid s.curCore = true → Waits s i (.sfu { op := op, d := d, src := s.getV a, mask := s.getK km, ty := ty })) ∧
      (s.isGrid s.curCore = false → ∀ w, encodeWord i = some w → Faults s i 0x01 (BitVec.ofNat 64 w))
    acts (.vrcp d a km ty) .rcp ∧ acts (.vrsq d a km ty) .rsq ∧ acts (.vexp2 d a km ty) .exp2 ∧
    acts (.vlog2 d a km ty) .log2 ∧ acts (.vtanh d a km ty) .tanh ∧ acts (.vsigm d a km ty) .sigm ∧
    acts (.vsin d a km ty) .sin ∧ acts (.vcos d a km ty) .cos) ∧
  (∀ (s : State) (n : Nat) (i : SlotNo) (bad : Bool) (q : SfuReq),
    s.arg = .slotFlag n i bad → (s.slot n i).run = .waiting (.sfu q) → (s.core n).isolated = false →
    s.sfuNext n i = true → 8 ≤ q.ty.toNat → q.ty.toNat ≤ 10 → (s.slot n i).ilen = 4 →
    let w := widthOf q.ty
    let old := (s.slot n i).getV q.d
    let new := fun (j : Nat) => sfuLane q.op (vecFmt q.ty) (lane w j q.src)
    (bad = false → ∃ t, exec .specialFunctionResult s = .next t ∧ Rejoins s t n i [] ∧ SameMemory s t ∧
      (∀ j, j < 512 / w → lane w j ((t.slot n i).getV q.d) =
        if q.mask.getLsbD j then (new j).1 % 2 ^ w else lane w j old) ∧
      (t.slot n i).fp.fflags = ((List.range (512 / w)).filter (fun j => q.mask.getLsbD j)).foldl
        (fun f j => f ||| (new j).2) (s.slot n i).fp.fflags) ∧
    (bad = true → ∃ addr, exec .specialFunctionResult s = .next (s.answerFault n i 0x40 addr))) ∧
  (∀ (s : State) (d a : BitVec 4) (km : BitVec 3) (ty : BitVec 5),
    8 ≤ ty.toNat → ty.toNat ≤ 10 → s.isGrid s.curCore = true → s.here.isolated = false →
    (∀ k q, k ≠ s.curSlot → (s.slot s.curCore k).run ≠ .waiting (.sfu q)) →
    let w := widthOf ty
    let on := fun j => (s.getK km).getLsbD j
    let completes := fun (i : Instr) (op : SfuOp) =>
      let new := fun (j : Nat) => sfuLane op (vecFmt ty) (lane w j (s.getV a))
      ∃ t u, exec i s = .next t ∧
        exec .specialFunctionResult { t with arg := .slotFlag s.curCore s.curSlot false } = .next u ∧
        u.me.run = .waiting .rejoin ∧ SlotFrame s u [] [d] [] ∧ SameMemory s u ∧ Advances s u 4 ∧
        (∀ j, j < 512 / w → lane w j (u.getV d) = if on j then (new j).1 % 2 ^ w else lane w j (s.getV d)) ∧
        u.me.fp = { s.me.fp with
          fflags := ((List.range (512 / w)).filter on).foldl (fun f j => f ||| (new j).2) s.me.fp.fflags }
    completes (.vrcp d a km ty) .rcp ∧ completes (.vrsq d a km ty) .rsq ∧ completes (.vexp2 d a km ty) .exp2 ∧
    completes (.vlog2 d a km ty) .log2 ∧ completes (.vtanh d a km ty) .tanh ∧ completes (.vsigm d a km ty) .sigm ∧
    completes (.vsin d a km ty) .sin ∧ completes (.vcos d a km ty) .cos) ∧
  ∀ f, f ∈ [fmtF16, fmtBF16, fmtF32] → ∀ neg,
    let nil := f.pack neg 0
    let inf := f.infCode neg
    let one := f.pack false (f.bias * 2 ^ f.mbits)
    sfuLane .rcp f nil = (inf, flagDZ) ∧ sfuLane .rsq f nil = (inf, flagDZ) ∧
    sfuLane .log2 f nil = (f.infCode true, flagDZ) ∧ sfuLane .exp2 f nil = (one, 0) ∧ sfuLane .cos f nil = (one, 0) ∧
    sfuLane .tanh f nil = (nil, 0) ∧ sfuLane .sin f nil = (nil, 0) ∧
    sfuLane .rcp f inf = (nil, 0) ∧ sfuLane .tanh f inf = (f.pack neg (f.bias * 2 ^ f.mbits), 0) ∧
    sfuLane .sin f inf = (f.nanCode, flagNV) ∧ sfuLane .cos f inf = (f.nanCode, flagNV) ∧
    sfuLane .exp2 f (f.infCode true) = (0, 0) ∧ sfuLane .exp2 f (f.infCode false) = (f.infCode false, 0) ∧
    sfuLane .rsq f (f.infCode false) = (0, 0) ∧ sfuLane .rsq f (f.infCode true) = (f.nanCode, flagNV) ∧
    sfuLane .log2 f (f.infCode false) = (f.infCode false, 0) ∧ sfuLane .log2 f (f.infCode true) = (f.nanCode, flagNV) ∧
    sfuLane .sigm f (f.infCode false) = (one, 0) ∧ sfuLane .sigm f (f.infCode true) = (0, 0)

/-! ### The matrix unit -/

/-- MCMD copies its record into the queue, or waits with its copy for the slot's writes and for room; MRESUME, MABORT, MSTAT and MMAP act on a queue; MMOV reads
and MMOVW writes a tile row once the commands that name the tile are gone. No unit, another partition's queue or tile, a
bad record, address or number, and a tile in error stop them as R273, R284 and R291 to R297 say. That an MABORT lets done
commands complete first is the model's reading (log 36). -/
def Obligations.MatrixInstructionsManageQueuesAndTiles : Prop :=
  ∀ (s : State) (a b d : BitVec 5) (vd row : BitVec 4) (ty : BitVec 5) (q : BitVec 1),
    let n := s.curCore
    let m := s.mat n q
    let onQueue := [Instr.mcmd a q, .mresume q, .mabort q, .mstat d q, .mmap a b q]
    let onTile := [Instr.mmov vd ty row, .mmovw vd ty row]
    (s.isGrid n = false → ∀ i, i ∈ onQueue ++ onTile → ∀ w, encodeWord i = some w → Faults s i 0x01 (BitVec.ofNat 64 w)) ∧
    (s.isGrid n = true → s.ownsMatQueue s.me.st.partition n q = false → ∀ i, i ∈ onQueue → ∃ addr, Faults s i 0x52 addr) ∧
    (s.isGrid n = true → s.ownsTile s.me.st.partition n ty.toNat = false → ∀ i, i ∈ onTile → ∃ addr, Faults s i 0x52 addr) ∧
    (s.isGrid n = true → s.ownsMatQueue s.me.st.partition n q = true →
      let acts := fun (i : Instr) (new : MatQueue) =>
        ∃ t, exec i s = .next t ∧ SameMemory s t ∧ SlotFrame s t [] [] [] ∧ t.me.fp = s.me.fp ∧ Advances s t 4 ∧
          t.mat n q = new ∧ t.mat n (q + 1) = s.mat n (q + 1)
      (let p := s.getG a
       let at_ := s.sharePhys n s.me.who p.toNat
       let u := s.noteRecord 64 p
       let r : BitVec 512 := BitVec.ofNat 512 (s.peek at_ 64)
       let named := (recField r 40 40 = 1 → s.ownsTerm (recField r 39 36) = true) ∧ recordValid r (s.matSplit n) q = true
       (p.toNat % 64 ≠ 0 → Faults s (.mcmd a q) 0x03 p) ∧
       (p.toNat % 64 = 0 → 0x200000 ≤ p.toNat → Faults s (.mcmd a q) 0x50 p) ∧
       (p.toNat % 64 = 0 → p.toNat < 0x200000 → s.inShare n s.me.who p.toNat 64 = false → Faults s (.mcmd a q) 0x14 p) ∧
       let away := s.bankReady n s.me.who p.toNat 64
       (p.toNat % 64 = 0 → p.toNat < 0x200000 → s.inShare n s.me.who p.toNat 64 = true →
         (∀ e, away = .error e → Stops s (.mcmd a q) e) ∧
         (away = .ok () → s.ownPosted n s.curSlot true (some at_) p.toNat 64 = true →
           Waits s (.mcmd a q) (.ordered true (some at_) p.toNat 64)) ∧
         ∀ x, away = .ok () → s.ownPosted n s.curSlot true (some at_) p.toNat 64 = false → s.badIn at_ 64 = some x → Faults s (.mcmd a q) 0x1E (p + BitVec.ofNat 64 (x - at_))) ∧
       (p.toNat % 64 = 0 → p.toNat < 0x200000 → s.inShare n s.me.who p.toNat 64 = true → away = .ok () →
         s.ownPosted n s.curSlot true (some at_) p.toNat 64 = false → s.badIn at_ 64 = none →
         (recField r 40 40 = 1 → s.ownsTerm (recField r 39 36) = false → ∃ addr, FaultsAfter s u (.mcmd a q) 0x63 addr) ∧
         ((recField r 40 40 = 1 → s.ownsTerm (recField r 39 36) = true) → recordValid r (s.matSplit n) q = false →
           FaultsAfter s u (.mcmd a q) 0x50 p) ∧
         (named → recField r 61 61 = 1 → s.ownsCounter (recField r 45 41) = false → ∃ addr, FaultsAfter s u (.mcmd a q) 0x21 addr) ∧
         (named → (recField r 61 61 = 1 → s.ownsCounter (recField r 45 41) = true) →
           (s.me.outstanding ≠ 0 ∨ 2 ≤ m.live.length → Waits s (.mcmd a q) (.matrixRoom q r)) ∧
           (s.me.outstanding = 0 → s.me.deferred = none → m.live.length < 2 → ∃ t e, exec (.mcmd a q) s = .next t ∧ SameMemory s t ∧ SlotFrame s t [] [] [] ∧
             Advances s t 4 ∧ (t.mat n q).entries = m.entries ++ [e] ∧ e.record = r ∧ e.slot = s.curSlot ∧
             e.mode = s.me.st.mode ∧ e.part = s.me.st.partition ∧ e.seed = s.me.fp.seed ∧ e.draw = s.me.fp.draw ∧
             e.fired = false ∧ e.started = false ∧ e.done = false ∧ e.kstep = 0 ∧ e.row = 0 ∧
             t.me.fp = { s.me.fp with draw := if stochasticRecord r then s.me.fp.draw + 1 else s.me.fp.draw })))) ∧
      (m.state = 2 → acts (.mresume q) { m with state := 1 }) ∧
      (m.state ≠ 2 → ∃ addr, Faults s (.mresume q) 0x54 addr) ∧
      (s.matQuiet n q = true → acts (.mabort q) { m with
        entries := [], fcause := 0, kstep := 0, row := 0, opnd := 0, nc := false, sat := false, nv := false, ovf := false,
        uf := false, nx := false, state := 0 }) ∧
      (s.matQuiet n q = false → Waits s (.mabort q) (.matrixAbort q)) ∧
      (∃ v, Result s (.mstat d q) 4 d v ∧ (m.live.length ≤ 15 →
        bitsOf v.toNat 3 4 = BitVec.ofNat 4 m.live.length ∧ v.getLsbD 7 = m.nx ∧ v.getLsbD 8 = m.uf ∧ v.getLsbD 9 = m.ovf ∧
        v.getLsbD 10 = m.nv ∧ v.getLsbD 11 = m.sat ∧ v.getLsbD 12 = m.nc ∧ v.getLsbD 13 = s.matSplit n ∧
        bitsOf v.toNat 24 8 = m.doneCount ∧ bitsOf v.toNat 40 3 = m.opnd ∧ bitsOf v.toNat 44 4 = m.row ∧
        bitsOf v.toNat 48 8 = m.kstep ∧ bitsOf v.toNat 56 8 = m.fcause ∧
        (2 ≤ m.state.toNat → bitsOf v.toNat 0 2 = m.state) ∧
        (m.state.toNat < 2 → bitsOf v.toNat 0 2 = if m.live = [] then (0 : BitVec 2) else 1))) ∧
      (let x := s.getG a
       let y := s.getG b
       (16 ≤ x.toNat ∨ 2 ^ 17 ≤ y.toNat → ∃ addr, Faults s (.mmap a b q) 0x55 addr) ∧
       (x.toNat < 16 → y.toNat < 2 ^ 17 → m.live ≠ [] → Waits s (.mmap a b q) (.matrixEmpty q)) ∧
       (x.toNat < 16 → y.toNat < 2 ^ 17 → m.live = [] →
         let new : Option (BitVec 16) := if y.getLsbD 16 then none else some (y.setWidth 16)
         acts (.mmap a b q) { m with map := m.map.set (Fin.ofNat 16 x.toNat) new }))) ∧
    (s.isGrid n = true → s.ownsTile s.me.st.partition n ty.toNat = true → s.me.run = .running →
      let old := s.tile n ty.toNat
      (∀ ids, ids ≠ [] → s.tileUsers n ty.toNat true = ids → Waits s (.mmov vd ty row) (.mmov vd ty row ids)) ∧
      (∀ ids, ids ≠ [] → s.tileUsers n ty.toNat false = ids → Waits s (.mmovw vd ty row) (.mmovw (s.getV vd) ty row ids)) ∧
      (s.tileUsers n ty.toNat true = [] → ty.toNat ∈ s.here.badTiles → Faults s (.mmov vd ty row) 0x53 0) ∧
      (s.tileUsers n ty.toNat true = [] → ty.toNat ∉ s.here.badTiles →
        ∃ t, exec (.mmov vd ty row) s = .next t ∧ Frame s t [] [vd] [] ∧ t.me.fp = s.me.fp ∧ Advances s t 4 ∧
          t.getV vd = bitsOf old.toNat (512 * row.toNat) 512) ∧
      (s.tileUsers n ty.toNat false = [] →
        ∃ t, exec (.mmovw vd ty row) s = .next t ∧ SameMemory s t ∧ SlotFrame s t [] [] [] ∧ t.me.fp = s.me.fp ∧
          Advances s t 4 ∧ bitsOf (t.tile n ty.toNat).toNat (512 * row.toNat) 512 = s.getV vd ∧
          (∀ r : Nat, r < 16 → r ≠ row.toNat →
            bitsOf (t.tile n ty.toNat).toNat (512 * r) 512 = (bitsOf old.toNat (512 * r) 512 : VReg)) ∧
          ∀ k, k < 32 → k ≠ ty.toNat → t.tile n k = s.tile n k))

/-- The array takes a runnable head command, makes its k-steps and rows, and completes it: ZERO clears the tile, LDACC and
STACC move a row by its conversion, STSPR sends a row, a multiply replaces the tile by its k-step's sums; a failed operand
read halts the queue with its cause and place, an uncorrectable error for good; a completed command counts in DONE and in
its counter; an STSPR row is written full, and its closing message processed as one of kind 0 (R285 to R296). A k-step's
integer sum is the old value plus the exact sum of a group's products, clamped to 32 bits; its F32 sum is the old value
plus the group's exact sum, rounded once, and the canonical NaN where either is a NaN (R280, R281). That a NaN in the
accumulator sets no flag is the model's reading (log 36), and so is when a step may be made (log 3). -/
def Obligations.MatrixCommandsRunAndSumExactly : Prop :=
  (∀ (s : State), Untraced s →
     (∀ n, s.arg = .core n →
       (s.arrayNext n = none → exec .matrixCommandStart s = .next s) ∧
       ∀ q e, s.arrayNext n = some q → (s.mat n q).headCmd = some e →
         ∃ t, exec .matrixCommandStart s = .next t ∧ SameMemory s t ∧ (t.core n).lastTaken = q ∧
           (t.mat n q).entries = (s.mat n q).entries.map (fun x => if x.id = e.id then
             { x with started := true, busyTo := (s.core n).t + s.stepCycles n e.record } else x)) ∧
     (∀ n q e, s.arg = .matrixQueue n q → (s.mat n q).headCmd = some e →
       let r := e.record
       let tile := matTile r
       let m := s.mat n q
       (e.started = false ∨ s.stepReady n q e = false → exec .matrixKstep s = .next s) ∧
       (∃ t, exec .matrixStateError s = .next t ∧ SameMemory s t ∧ (t.mat n q).state = 3 ∧ (t.mat n q).fcause = 0x53) ∧
       (e.started = true → (s.core n).aborting q = false → s.stepReady n q e = true →
         (matOp r = 3 → ∃ t, exec .matrixKstep s = .next t ∧ SameMemory s t ∧ t.tile n tile = 0 ∧
           (∀ x, x ∈ (t.mat n q).entries → x.id = e.id → x.done = true) ∧ tile ∉ (t.core n).badTiles) ∧
         (matOp r = 4 → e.row < 16 → ∀ s1 bs,
           s.engineRead (engineAcc n e.part e.mode) .read (memRowAddr r e.row) (rowBytes (recField r 22 18)) = (s1, .ok bs) →
           ∃ t, exec .matrixKstep s = .next t ∧ SameMemory s1 t ∧
             bitsOf (t.tile n tile).toNat (512 * e.row) 512 = BitVec.ofNat 512
               (convertRow e (memTy (recField r 22 18)) (tileTy r) (matFmt (recField r 22 18)).width 32 e.row (ofBytes bs)).1 ∧
             ∀ k : Nat, k < 16 → k ≠ e.row →
               bitsOf (t.tile n tile).toNat (512 * k) 512 = (bitsOf (s1.tile n tile).toNat (512 * k) 512 : VReg)) ∧
         (matOp r = 5 → tile ∉ (s.core n).badTiles → recField r 50 50 = 0 → e.row ≠ 0 →
           let y := rowToMemory e (s.tile n tile) e.row
           ∀ s1 va p, s.checkPieces (engineAcc n e.part e.mode) .write (linePieces (memRowAddr r e.row) y.1.length) =
               (s1, .ok [(va, y.1.length, .self p)]) →
             Memory.wf s1.mem = true → Untraced s1 → Sound s1 p y.1.length →
             ∃ t, exec .matrixKstep s = .next t ∧ StoredAt s1 t p y.1.length (ofBytes y.1)) ∧
         (matOp r = 6 → n < 2 ^ 16 → e.owed = none → tile ∉ (s.core n).badTiles → e.row ≠ 0 →
           ∀ d, m.destinations.find? (fun x => x.1 == e.row) = some d → d.2 < 2 ^ 16 →
           let y := (rowToMemory e (s.tile n tile) e.row).1
           ∃ t x, exec .matrixKstep s = .next t ∧ SameMemory s t ∧ x.kind = 9 ∧ nameCore x.dest = d.2 ∧
             x.cls.toNat = recField r 59 55 ∧ x.len = y.length ∧ x.payload = BitVec.ofNat 2048 (ofBytes y) ∧
             x.aux.toNat % 2 ^ 32 = memRowAddr r e.row % 2 ^ 32 ∧
             t.due = s.due ++ [{ path := some (true, n, d.2), ev := { kind := arrivalKind x, arg := .msg x } }] ∧
             ((∀ y, y ∈ m.destinations → y.2 = d.2 → y.1 ≤ e.row) →
               ∀ y, y ∈ (t.mat n q).entries → y.id = e.id → y.owed = some d.2)) ∧
         (matOp r = 6 → n < 2 ^ 16 → ∀ d, e.owed = some d → d < 2 ^ 16 →
           ∃ t x, exec .matrixKstep s = .next t ∧ SameMemory s t ∧ x.kind = 9 ∧ x.len = 0 ∧ nameCore x.dest = d ∧
             x.cls.toNat = recField r 59 55 ∧ (t.core n).sent = (s.core n).sent ++ [x] ∧
             t.due = s.due ++ [{ path := some (true, n, d), ev := { kind := arrivalKind x, arg := .msg x } }] ∧
             ∀ y, y ∈ (t.mat n q).entries → y.id = e.id → y.owed = none) ∧
         (matOp r = 1 ∨ matOp r = 2 → tile ∉ (s.core n).badTiles →
           let oa := operandA r
           let ob := operandB r
           let kk := stepK r
           let fresh := matOp r == 2 && e.kstep == 0
           (∀ s1 rows, s.readRows (engineAcc n e.part e.mode) oa ob kk e.kstep (List.range 16) = (s1, .ok rows) →
             ∃ t, exec .matrixKstep s = .next t ∧ SameMemory s1 t ∧
               t.tile n tile = (kstepTile (accInt r) (min oa.fmt.group ob.fmt.group)
                 (rows.map (fun b => (oa.elems kk e.kstep (b.getD 0 []) (b.getD 2 [])).map oa.value))
                 (rows.map (fun b => (ob.elems kk e.kstep (b.getD 1 []) (b.getD 3 [])).map ob.value))
                 (fun i j => if fresh then 0 else tileAt (s.tile n tile) i j)).1 ∧
               (t.mat n q).mksteps = (s1.mat n q).mksteps + 1) ∧
           (∀ s1 row item c addr,
             s.readRows (engineAcc n e.part e.mode) oa ob kk e.kstep (List.range 16) = (s1, .error (row, item, c, addr)) → c ≠ notNow →
             ∃ t, exec .matrixKstep s = .next t ∧ (t.mat n q).state = 2 ∧ (t.mat n q).fcause = c ∧
               (t.mat n q).kstep.toNat = e.kstep % 2 ^ 8 ∧ (t.mat n q).row.toNat = row % 2 ^ 4 ∧
               (t.mat n q).opnd.toNat = item % 2 ^ 3 ∧ t.tile n tile = s1.tile n tile)))) ∧
     (∀ n q e, s.arg = .matrixQueue n q → s.completable n q = some e →
       ∃ t, exec .matrixCommandComplete s = .next t ∧ SameMemory s t ∧
         (t.mat n q).doneCount = (s.mat n q).doneCount + 1 ∧
         (∀ x, x ∈ (t.mat n q).entries ↔ x ∈ (s.mat n q).entries ∧ x.id ≠ e.id) ∧
         (recField e.record 61 61 = 1 →
           let c := Fin.ofNat 32 (recField e.record 45 41)
           (t.core n).c.get c = (s.core n).c.get c + 1)) ∧
     (∀ m, s.arg = .msg m →
       let n := nameCore m.dest
       let at_ := fun (j : Nat) => s.sharePhys n (s.homeWho n m.part) (m.aux.toNat % 2 ^ 32 + j)
       (∃ t, exec .stsprClosingArrival s = .next t ∧ exec .messageArrival s = .next t) ∧
       ((s.core n).isolated = true → exec .stsprRowArrival s = .next s) ∧
       ((s.core n).isolated = false → (s.core n).waits = [] → Memory.wf s.mem = true → risingFrom none s.full = true →
         m.len ≤ 256 → m.len % 8 = 0 → m.aux.toNat % 2 ^ 32 % 8 = 0 →
         s.inShare n (s.homeWho n m.part) (m.aux.toNat % 2 ^ 32) m.len = true →
         (∀ j, j < m.len → s.badIn (at_ j) 1 = none) →
         ∃ t, exec .stsprRowArrival s = .next t ∧ ∀ j, j < m.len →
           Memory.get t.mem (at_ j) = byteAt m.payload.toNat j ∧ (j % 8 = 0 → t.isFull (at_ j) = true)))) ∧
  (∀ (g : Nat) (rowsA rowsB : List (List FVal)) (start : Nat → Nat → Nat) (r c : Nat), r < 16 → c < 16 →
     let a := rowsA.getD r []
     let b := rowsB.getD c []
     a ≠ [] → a.length ≤ g → b.length = a.length →
     let old := start r c
     let ps := a.zip b
     (tileAt (kstepTile true g rowsA rowsB start).1 r c =
       (BitVec.ofInt 32 (max (-(2 ^ 31)) (min ((BitVec.ofNat 32 old).toInt +
         (ps.map (fun p => intOfFVal p.1 * intOfFVal p.2)).sum) (2 ^ 31 - 1)))).toNat) ∧
     (let sum := sumOf (ps.map (fun p => (FVal.mul p.1 p.2).1)) false
      let nan := (fmtF32.decode old).isNan || sum.1.isNan
      (nan = true → tileAt (kstepTile false g rowsA rowsB start).1 r c = fmtF32.nanCode) ∧
      (nan = false → tileAt (kstepTile false g rowsA rowsB start).1 r c =
        (fmtF32.result 0 0 (sumOf [fmtF32.decode old, sum.1] false).1).1 % 2 ^ 32)))

/-! ### Copies, terms, collectives and work lists -/

/-- CPY, CPYS and CPY2D: the command they enqueue, with the slot's mode and partition; the order of their checks and the
causes; a full queue makes the slot wait; a copy inside the own share passes its checks (R303 to R308). -/
def Obligations.CopyCommandsAreCheckedAndEnqueued : Prop :=
  ∀ (s : State) (d a b num : BitVec 5) (qn : BitVec 3) (fl cc : BitVec 1),
    let n := s.curCore
    let len := (s.getG b).toNat
    let src := s.getG a
    let dst := s.getG d
    let counter : Option (BitVec 5) := if cc = 1 then some num else none
    let own := cc = 1 → s.ownsCounter num.toNat = true
    let cmd := fun (k : CopyKind) (dst : Dword) (fe : Bool) =>
      ({ kind := k, src := src, dst := dst, rowBytes := len, rows := 1, sstride := 0, dstride := 0, fe := fe,
         counter := counter, term := none, slot := s.curSlot, mode := s.me.st.mode, part := s.me.st.partition,
         fired := false, released := false, prog := 0 } : CopyCmd)
    let enqueues := fun (u : State) (i : Instr) (c : CopyCmd) (hasDst : Bool) =>
      (∀ e, s.checkRows c hasDst c.rows 0 = .error e → StopsAfter s u i e) ∧
      (s.checkRows c hasDst c.rows 0 = .ok () → ∀ e, s.checkTracking c = .error e → StopsAfter s u i e) ∧
      (s.checkRows c hasDst c.rows 0 = .ok () → s.checkTracking c = .ok () → s.me.outstanding = 0 → s.me.deferred = none →
        (s.here.copies.length < 2 → ∃ t, exec i s = .next t ∧ SameMemory s t ∧ SlotFrame s t [] [] [] ∧ t.me.fp = s.me.fp ∧
          Advances s t 4 ∧ t.here.copies = s.here.copies ++ [c]) ∧
        (2 ≤ s.here.copies.length → Waits s i .copyRoom))
    let cpy := Instr.cpy d a b num fl cc
    let cpys := Instr.cpys qn a b num cc
    let cpy2d := Instr.cpy2d a num fl cc
    (¬own → ∀ i, i ∈ [cpy, cpys, cpy2d] → ∃ addr, Faults s i 0x21 addr) ∧
    (own → 2 ^ 24 ≤ len → (∃ addr, Faults s cpy 0x60 addr) ∧ ∃ addr, Faults s cpys 0x60 addr) ∧
    (own → len < 2 ^ 24 →
      (fl = 1 → dst.toNat % 8 ≠ 0 ∨ len % 8 ≠ 0 → Faults s cpy 0x03 dst) ∧
      ((fl = 1 → dst.toNat % 8 = 0 ∧ len % 8 = 0) → enqueues s cpy (cmd .bytes dst (fl == 1)) true) ∧
      (src.toNat % 8 ≠ 0 ∨ len % 8 ≠ 0 → Faults s cpys 0x03 src) ∧
      (src.toNat % 8 = 0 → len % 8 = 0 →
        (s.ownsQueue qn.toNat = false → ∃ addr, Faults s cpys 0x31 addr) ∧
        (s.ownsQueue qn.toNat = true → (s.queue n qn).mode ≠ 2 → ∃ addr, Faults s cpys 0x35 addr) ∧
        (s.ownsQueue qn.toNat = true → (s.queue n qn).mode = 2 → enqueues s cpys (cmd (.stream qn) 0 false) false))) ∧
    (src.toNat + len ≤ s.shareSize n s.me.who → dst.toNat + len ≤ s.shareSize n s.me.who →
      s.checkRows (cmd .bytes dst (fl == 1)) true 1 0 = .ok () ∧ s.checkTracking (cmd .bytes dst (fl == 1)) = .ok ()) ∧
    (own →
      (∀ e, s.selfRecord 64 0x60 src = .error e → Stops s cpy2d e) ∧
      ∀ x, s.selfRecord 64 0x60 src = .ok x →
        let u := s.noteRecord 64 src
        let termed := x.testBit 256 = true
        let term : BitVec 4 := bitsOf x 260 4
        (termed → s.ownsTerm term.toNat = false → ∃ addr, FaultsAfter s u cpy2d 0x63 addr) ∧
        ((termed → s.ownsTerm term.toNat = true) →
          (desc2Valid x (fl == 1) = false → FaultsAfter s u cpy2d 0x60 src) ∧
          (desc2Valid x (fl == 1) = true → enqueues u cpy2d
            { kind := .bytes, src := bitsOf x 0 64, dst := bitsOf x 64 64, rowBytes := x / 2 ^ 128 % 2 ^ 32,
              rows := x / 2 ^ 176 % 2 ^ 16, sstride := (bitsOf x 192 32 : Word).signExtend 64,
              dstride := (bitsOf x 224 32 : Word).setWidth 64, fe := fl == 1, counter := counter,
              term := if x.testBit 256 then some term else none, slot := s.curSlot, mode := s.me.st.mode,
              part := s.me.st.partition, fired := false, released := false, prog := 0 } true)))

/-- The copy engine: a piece within the own store is read and then written, overlapping bytes as one by one in ascending
order, and the progress counts; a piece that fails its check abandons the command with its cause in CPSTAT; a stream puts
dwords into its queue register; a finished command leaves the queue, counts in DONE and in its counter; a write of QCFG
sets a queue register, which is emptied when its mode changes (R231, R306 to R311). What a change of a queue register does
to a queued CPYS is the model's reading (log 37). -/
def Obligations.CopiesMoveTheirBytes : Prop :=
  (∀ (d k : Nat) (bs : List Byte), 0 < d → k < bs.length →
    (rippled d bs).getD k 0 = (if k < d then bs.getD k 0 else (rippled d bs).getD (k - d) 0)) ∧
  (∀ (s : State) (n : Nat), Untraced s → s.arg = .core n →
    (s.pieceReady n = none → exec .copyPiece s = .next s) ∧
    (∀ c, s.pieceReady n = some c → c.kind = .bytes → c.fe = false →
      let who := engineAcc n c.part c.mode
      let src := c.piece.1
      let dst := c.piece.2.1
      let len := c.piece.2.2
      (∀ s1 p s2 bs q, s.engineCheck who .write len dst = (s1, .ok (.self p)) →
        s1.engineRead who .read src.toNat len = (s2, .ok bs) → (s2.engineCheck who .read 1 src).2 = .ok (.self q) →
        Memory.wf s2.mem = true → Untraced s2 → Sound s2 p bs.length →
        let x := (s2.placeOfTarget who src.toNat (.self q)).2
        let y := (s2.placeOfTarget who dst.toNat (.self p)).2
        ∃ t, exec .copyPiece s = .next t ∧
          StoredAt s2 t p bs.length (ofBytes (if x < y then rippled (y - x) bs else bs)) ∧
          (∀ h rest, (s2.core n).copies = h :: rest → (t.core n).copies = { h with prog := h.prog + len } :: rest)) ∧
      (∀ s1 cause addr, s.engineCheck who .write len dst = (s1, .error (cause, addr)) → cause ≠ notNow →
        ∃ t, exec .copyPiece s = .next t ∧ (t.core n).copies = (s1.core n).copies.drop 1 ∧
          (t.core n).cpstat.fcause = cause ∧ (t.core n).cpstat.fault = true ∧
          (t.core n).cpstat.prog.toNat = c.prog % 2 ^ 24 ∧ (t.core n).cpstat.slot.toNat = c.slot.val)) ∧
    (∀ c q, s.pieceReady n = some c → c.kind = .stream q → ∀ s1 bs,
      s.engineRead (engineAcc n c.part c.mode) .read (c.src.toNat + c.prog) 8 = (s1, .ok bs) →
      (s1.queue n q).readers = [] → (s1.queue n q).writers = [] →
      ∃ t, exec .copyPiece s = .next t ∧ SameMemory s1 t ∧
        (t.queue n q).entries = (s1.queue n q).entries ++ [BitVec.ofNat 64 (ofBytes bs)]) ∧
    (s.copyDone n = none → exec .copyComplete s = .next s) ∧
    (∀ c, s.copyDone n = some c → ∃ t, exec .copyComplete s = .next t ∧ SameMemory s t ∧
      (t.core n).copies = (s.core n).copies.drop 1 ∧ (t.core n).cpstat.doneCount = (s.core n).cpstat.doneCount + 1 ∧
      ∀ k, c.counter = some k → (t.core n).c.get k.toFin = (s.core n).c.get k.toFin + 1)) ∧
  (∀ (s : State) (n : Nat) (q : BitVec 3) (v : Dword), s.arg = .queueVal n q v → (s.queue n q).readers = [] →
    (s.queue n q).writers = [] → (s.core n).copies = [] →
    let mode : BitVec 2 := bitsOf v.toNat 0 2
    ∃ t, exec .qcfgWrite s = .next t ∧ SameMemory s t ∧ t.queue n q =
      { (s.queue n q) with
        dest := bitsOf v.toNat 48 16, cls := bitsOf v.toNat 43 5, mode := mode,
        entries := if mode = (s.queue n q).mode then (s.queue n q).entries else [] })

/-- ECFG writes a term from its record; ETRIG and a term whose enabled conditions hold release every held command that names
it, and OUTCNT counts the firing as the core's next cycle begins; a firing by condition spends a one-shot term and otherwise raises its thresholds; a term of another
job's slot and a bad record fault 0x63 (R313 to R316). -/
def Obligations.TermsFireAndReleaseCommands : Prop :=
  (∀ (s : State) (a : BitVec 5) (tm : BitVec 4),
    (s.ownsTerm tm.toNat = false → (∃ addr, Faults s (.ecfg a tm) 0x63 addr) ∧ ∃ addr, Faults s (.etrig tm) 0x63 addr) ∧
    (s.ownsTerm tm.toNat = true →
      (∀ e, s.selfRecord 32 0x60 (s.getG a) = .error e → Stops s (.ecfg a tm) e) ∧
      ∀ x, s.selfRecord 32 0x60 (s.getG a) = .ok x →
        (s.termRecordOk x = false → FaultsAfter s (s.noteRecord 32 (s.getG a)) (.ecfg a tm) 0x63 (s.getG a)) ∧
        (s.termRecordOk x = true → ∃ t, exec (.ecfg a tm) s = .next t ∧ SameMemory s t ∧ SlotFrame s t [] [] [] ∧
          t.me.fp = s.me.fp ∧ Advances s t 4 ∧
          (let y := t.term s.curCore tm
           y.valid = x.testBit 224 ∧ y.oneshot = x.testBit 225 ∧ y.outen = x.testBit 226 ∧ y.outcnt = bitsOf x 227 5 ∧
           y.incr = bitsOf x 232 16 ∧
           ∀ k : Fin 4, (y.conds.get k).en = x.testBit (48 * k.val + 37) ∧ (y.conds.get k).cnt = bitsOf x (48 * k.val + 32) 5 ∧
             (y.conds.get k).thr = bitsOf x (48 * k.val) 32) ∧
          ∀ e, e ≠ tm → t.term s.curCore e = s.term s.curCore e))) ∧
  (∀ (s : State) (n : Nat) (e : BitVec 4), Untraced s →
    let y := s.term n e
    let released := fun (t : State) =>
      (t.core n).copies = (s.core n).copies.map (fun c => if c.term = some e then { c with fired := true } else c) ∧
      (∀ c, c ∈ (t.core n).colls → recField c.desc 187 187 = 1 → recField c.desc 191 188 = e.toNat → c.fired = true) ∧
      (∀ q c, c ∈ (t.mat n q).entries → recField c.record 40 40 = 1 → recField c.record 39 36 = e.toNat → c.fired = true) ∧
      (t.core n).outs = (s.core n).outs ++ (if y.outen then [y.outcnt] else []) ∧ (t.core n).c = (s.core n).c
    (n = s.curCore → s.me.run = .running → s.ownsTerm e.toNat = true →
      ∃ t, exec (.etrig e) s = .next t ∧ SameMemory s t ∧ SlotFrame s t [] [] [] ∧ t.me.fp = s.me.fp ∧ Advances s t 4 ∧
        released t ∧ t.term n e = y) ∧
    (s.arg = .term n e →
      let fires := y.valid = true ∧ (∃ k, (y.conds.get k).en = true) ∧
        ∀ k, (y.conds.get k).en = true → 0 ≤ ((s.core n).c.get (y.conds.get k).cnt.toFin - (y.conds.get k).thr).toInt
      (¬fires → exec .termFire s = .next s) ∧
      (fires → ∃ t, exec .termFire s = .next t ∧ SameMemory s t ∧ released t ∧
        (let z := t.term n e
         (y.oneshot = true → z = { y with valid := false }) ∧
         (y.oneshot = false → z.valid = true ∧ ∀ k, z.conds.get k =
           (let c := y.conds.get k
            if c.en then { c with thr := c.thr + y.incr.setWidth 32 } else c)))))) ∧
  ∀ (s : State) (n : Nat) (c : BitVec 5), Untraced s → s.firing n = [] → (s.core n).outs = [c] →
    ∃ t, fireTerms n s = .next t ∧ SameMemory s t ∧ (t.core n).outs = [] ∧
      (t.core n).c.get c.toFin = (s.core n).c.get c.toFin + 1

/-- COLL is checked, then enqueued as the core's next use of its port; a node combines a unit with its children's parts in
ascending order, once what its children sent it before has arrived; a member's use completes with the gathered bytes at its destination; members that disagree and bad data
end the use on every member (R19, R317 to R322). The bytes that bad data leaves are free (log 13). -/
def Obligations.CollectivesCombineAndComplete : Prop :=
  (∀ (s : State) (a : BitVec 5) (op : BitVec 3) (port : BitVec 2),
    let n := s.curCore
    let p := s.getG a
    let i := Instr.coll a op port
    (s.isGrid n = false → ∀ w, encodeWord i = some w → Faults s i 0x01 (BitVec.ofNat 64 w)) ∧
    (s.isGrid n = true →
      (∀ e, s.selfRecord 64 0x64 p = .error e → Stops s i e) ∧
      ∀ v, s.selfRecord 64 0x64 p = .ok v →
        let x : BitVec 512 := BitVec.ofNat 512 v
        let u := s.noteRecord 64 p
        (s.portGroup n s.me.job port = none → ∃ addr, FaultsAfter s u i 0x23 addr) ∧
        ∀ j g gr, s.me.job = some j → s.portGroup n s.me.job port = some g → s.groupOfJob j g = some gr →
          let termed := x.getLsbD 187 = true → s.ownsTerm (recField x 191 188) = true
          let valid := s.collValid x op.toNat gr.members.length (gr.indexOf n) = true
          (¬termed → ∃ addr, FaultsAfter s u i 0x63 addr) ∧
          (termed → ¬valid → FaultsAfter s u i 0x64 p) ∧
          (termed → valid → s.recoverable = true → ∃ addr, FaultsAfter s u i 0x65 addr) ∧
          (termed → valid → s.recoverable = false → s.me.outstanding = 0 → s.me.deferred = none →
            (2 ≤ s.here.colls.length → Waits s i .collRoom) ∧
            (s.here.colls.length < 2 → ∀ q, s.portsOf n j = some q →
              let use := q.collUses.get port.toFin + 1
              (∀ u, u ∈ s.collUses → u.key = { job := j, group := g, use := use } → u.dead = false) →
              ∃ t, exec i s = .next t ∧ SameMemory s t ∧ SlotFrame s t [] [] [] ∧ t.me.fp = s.me.fp ∧ Advances s t 4 ∧
                t.here.colls = s.here.colls ++
                  [{ desc := x, op := op, port := port, slot := s.curSlot, job := j, group := g, use := use,
                     fired := false }])))) ∧
  (∀ (s : State), Untraced s →
    (∀ k unit n g c cs, s.arg = .collUnit k unit n → s.groupOfJob k.job k.group = some g →
      (s.core n).contributes k = some c → s.contributions g k = some cs →
      (agree cs = false → ∃ t, exec .collUnitTransfer s = .next t ∧ SameMemory s t ∧ (t.collUse k).dead = true ∧
        ∀ m, m ∈ g.members → ∀ y, y ∈ (t.core m).colls → y.key ≠ k) ∧
      (agree cs = true → (s.collUse k).part unit n = none → sends c g n = true → unit < unitsOf c g →
        s.banksHere n g.part = true → s.treeClear g n true = true →
        ∀ x (vs : List VReg), s.sourceUnit n g c unit = .ok x →
          (needs c g unit n).map (fun m => (s.collUse k).part unit m) = vs.map some →
          ∃ t, exec .collUnitTransfer s = .next t ∧ SameMemory s t ∧
            (t.collUse k).part unit n = some (vs.foldl (combine (collDesc c.desc)) x))) ∧
    (∀ k n, s.arg = .useCore k n →
      (s.collReady k n = none → exec .collUseComplete s = .next s) ∧
      ∀ g c bs, s.collReady k n = some (g, c, bs) → Memory.wf s.mem = true →
        let d := collDesc c.desc
        let at_ := fun (j : Nat) => s.sharePhys n (some g.part) (d.dst + j)
        s.inShare n (some g.part) d.dst bs.length = true → (∀ j, j < bs.length → s.badIn (at_ j) 1 = none) →
        ∃ t, exec .collUseComplete s = .next t ∧ (∀ j, j < bs.length → Memory.get t.mem (at_ j) = bs.getD j 0) ∧
          (∀ x, (∀ j, j < bs.length → x ≠ at_ j) → Memory.get t.mem x = Memory.get s.mem x) ∧
          (∀ y, y ∈ (t.core n).colls ↔ y ∈ (s.core n).colls ∧ y.key ≠ k) ∧
          ∀ q, d.counter = some q → (t.core n).c.get q.toFin = (s.core n).c.get q.toFin + 1) ∧
    (∀ k addr g, s.arg = .useAddr k addr → s.groupOfJob k.job k.group = some g →
      ∃ t, exec .collBadData s = .next t ∧ (t.collUse k).dead = true ∧
        ∀ m, m ∈ g.members → ∀ y, y ∈ (t.core m).colls → y.key ≠ k))

/-- Work lists: WPUSH puts an item on top, in the next cell of the list's ring (where the ring starts is log 27), and lets
WQUIETs go on; WPOP stores the newest item, unless software has stored over its cell, and answers how many are left;
WQUIET waits at an empty list, WLVL reads a count; a list of another job faults 0x66 and a full one 0x67 (R323, R324, R326).
A core reports its count to its neighbours and ships its oldest items, at most eight and half the difference, to the least
loaded one it has heard; what arrives goes on top, what finds no room goes back to the sender's bottom as it was
there while its job owns the list and has not ended; WPUSH and WPOP wait for an item's cell that a handover has not brought in; a quiescent group's
WQUIETs complete with 1; a write of WLCFG sets the list and empties it where it moves (R325). -/
def Obligations.WorkListsHoldAndLevelItems : Prop :=
  (∀ (s : State) (d a b : BitVec 5) (pos : BitVec 2), Untraced s →
     let n := s.curCore
     let w := s.here.wl
     let owned := w.en = true ∧ s.me.job ≠ none ∧ w.job = s.me.job
     let x := s.getG a
     let p := s.getG b
     (¬owned → ∀ i, i ∈ [Instr.wpush a b, .wpop d b, .wquiet d pos, .wlvl d a] → ∃ addr, Faults s i 0x66 addr) ∧
     (owned →
       (2 ^ (4 + w.sizelog.toNat) ≤ w.items.length → ∃ addr, Faults s (.wpush a b) 0x67 addr) ∧
       (w.items.length < 2 ^ (4 + w.sizelog.toNat) → s.me.outstanding = 0 → s.me.deferred = none → s.me.run = .running →
         Memory.wf s.mem = true → (∀ k, w.nextCell true = some k → Sound s (s.cellAt n k) 16) →
         s.cellAway (w.nextCell true) = none →
         ∃ t, exec (.wpush a b) s = .next t ∧ SlotFrame s t [] [] [] ∧ t.me.fp = s.me.fp ∧ Advances s t 4 ∧
           (match w.nextCell true with
             | some k => StoredAt s t (s.cellAt n k) 16 (x.toNat + 2 ^ 64 * p.toNat)
             | none => SameMemory s t) ∧
           t.here.wl.items = w.items ++ [{ lo := x, hi := p, levelled := false, cell := w.nextCell true }] ∧
           ∀ k q g, (s.slot n k).run = .waiting (.wquiet q g) → Rejoins s t n k [q] ∧ (t.slot n k).getG q = 0) ∧
       (∀ k, w.items.length < 2 ^ (4 + w.sizelog.toNat) → s.cellAway (w.nextCell true) = some k →
         Waits s (.wpush a b) (.bank k)) ∧
       (p.toNat % 16 ≠ 0 → Faults s (.wpop d b) 0x03 p) ∧
       (p.toNat % 16 = 0 → 0x200000 ≤ p.toNat → Faults s (.wpop d b) 0x13 p) ∧
       (p.toNat % 16 = 0 → p.toNat < 0x200000 → s.inShare n s.me.who p.toNat 16 = false → Faults s (.wpop d b) 0x14 p) ∧
       (p.toNat % 16 = 0 → p.toNat < 0x200000 → s.inShare n s.me.who p.toNat 16 = true →
         let at_ := s.sharePhys n s.me.who p.toNat
         let away := s.bankAway n s.me.who p.toNat 16
         (∀ k, away = some k → Waits s (.wpop d b) (.bank k)) ∧
         (away = none → w.items = [] → Result s (.wpop d b) 4 d 0) ∧
         (∀ rest y k, away = none → w.items = rest ++ [y] → s.cellAway y.cell = some k → Waits s (.wpop d b) (.bank k)) ∧
         (∀ rest y, away = none → w.items = rest ++ [y] → s.cellAway y.cell = none → rest.length < 2 ^ 63 → Memory.wf s.mem = true → s.me.run = .running →
           Sound s at_ 16 →
           ∃ t v, exec (.wpop d b) s = .next t ∧ StoredAt s t at_ 16 v ∧
             ((∀ k, y.cell = some k → s.peek (s.cellAt n k) 16 = y.lo.toNat + 2 ^ 64 * y.hi.toNat) →
               v = y.lo.toNat + 2 ^ 64 * y.hi.toNat) ∧
             t.getG d = (if d = 0 then 0 else BitVec.ofNat 64 (2 ^ 63 + rest.length)) ∧ t.here.wl.items = rest ∧
             SlotFrame s t [d] [] [] ∧ t.me.fp = s.me.fp ∧ Advances s t 4)) ∧
       (s.portGroup n s.me.job pos = none → ∃ addr, Faults s (.wquiet d pos) 0x23 addr) ∧
       (s.portGroup n s.me.job pos ≠ none →
         (w.items ≠ [] → Result s (.wquiet d pos) 4 d 0) ∧ (w.items = [] → Waits s (.wquiet d pos) (.wquiet d pos))) ∧
       (5 ≤ x.toNat → ∃ addr, Faults s (.wlvl d a) 0x66 addr) ∧
       (x = 0 → Result s (.wlvl d a) 4 d (BitVec.ofNat 64 w.items.length)) ∧
       (1 ≤ x.toNat → x.toNat ≤ 4 → ∀ job, s.myJob = some job →
         Result s (.wlvl d a) 4 d (match s.neighbour job n x.toNat with
           | some m => (match lookupNat m w.reported with
             | some k => BitVec.ofNat 64 k
             | none => BitVec.allOnes 64)
           | none => BitVec.allOnes 64)))) ∧
  (∀ (s : State), Untraced s →
     (∀ n, s.arg = .core n →
       let w := (s.core n).wl
       let ms := s.levelNeighbours n
       (s.levelDue n = false → exec .levellingInterval s = .next s) ∧
       (s.levelDue n = true →
         let reports := fun (t : State) =>
           (∀ m, m ∈ ms → lookupNat n (t.core m).wl.reported = some w.items.length) ∧
           (t.core n).wl.nextAt = s.ptime + 250 * 2 ^ w.interval.toNat
         (w.reported.filter (fun r => ms.contains r.1) = [] →
           ∃ t, exec .levellingInterval s = .next t ∧ SameMemory s t ∧ reports t ∧ (t.core n).wl.items = w.items) ∧
         ∀ m k, w.reported.filter (fun r => ms.contains r.1) = [(m, k)] →
           (w.items.length ≤ k + w.thresh.toNat →
             ∃ t, exec .levellingInterval s = .next t ∧ SameMemory s t ∧ reports t ∧ (t.core n).wl.items = w.items) ∧
           (k + w.thresh.toNat < w.items.length →
             let j := min 8 ((w.items.length - k) / 2)
             ∃ t q, exec .levellingInterval s = .next t ∧ reports t ∧ (t.core n).wl.items = w.items.drop j ∧
               q.source = n ∧ q.dest = m ∧ q.items = (w.items.take j).map (fun y => (s.itemValue n y, y.levelled)) ∧
               ∃ before, t.due = before ++
                 [{ path := some (true, n, m), ev := { kind := .workItemsArrival, arg := .items q } }]))) ∧
     (∀ m, s.arg = .items m →
       let c := s.core m.dest
       let room := if c.wl.en = true ∧ c.wl.job = some m.job ∧ c.handovers = [] then
           2 ^ (4 + c.wl.sizelog.toNat) - c.wl.items.length else 0
       let seen := fun (l : List WorkItem) => l.map (fun y => (y.lo, y.hi, y.levelled))
       let onlyCells := fun (t : State) (n : Nat) => ∀ a,
         (∀ k, k < (s.core n).wl.capacity → a < s.cellAt n k ∨ s.cellAt n k + 16 ≤ a) → Memory.get t.mem a = Memory.get s.mem a
       (∃ t, exec .workItemsArrival s = .next t ∧ onlyCells t m.dest ∧
         seen (t.core m.dest).wl.items = seen c.wl.items ++ (m.items.take room).map (fun y => (y.1.1, y.1.2, true)) ∧
         t.due = s.due ++ (if m.items.drop room = [] then [] else
           [{ path := some (true, m.dest, m.source),
              ev := { kind := .workItemsReturn, arg := .items { m with items := m.items.drop room } } }])) ∧
       (let o := (s.core m.source).wl
        let owns := o.job = some m.job ∧ ∃ j, s.job? m.job = some j ∧ j.phase ≠ .done
        (owns →
          ∃ t, exec .workItemsReturn s = .next t ∧ onlyCells t m.source ∧ seen (t.core m.source).wl.items =
            m.items.map (fun y => (y.1.1, y.1.2, y.2)) ++ seen o.items) ∧
        (¬owns → ∃ t, exec .workItemsReturn s = .next t ∧ SameMemory s t ∧
          (t.core m.source).wl.items = o.items))) ∧
     (∀ j g x, s.arg = .jobGroup j g → s.groupOfJob j g = some x →
       (s.quiescent j g = false → exec .wquietQuiescent s = .next s) ∧
       (s.quiescent j g = true → ∃ t, exec .wquietQuiescent s = .next t ∧
         ∀ m i d p, m ∈ x.members → (s.slot m i).run = .waiting (.wquiet d p) → (s.slot m i).job = some j →
           s.portGroup m (some j) p = some g →
           Rejoins s t m i [d] ∧ (t.slot m i).getG d = (if d = 0 then 0 else 1))) ∧
     (∀ n j v, s.arg = .coreJobVal n j v →
       ∃ t, exec .wlcfgWrite s = .next t ∧ SameMemory s t ∧
         (let w := (t.core n).wl
          let o := (s.core n).wl
          w.en = v.getLsbD 0 ∧ w.bal = v.getLsbD 1 ∧ w.interval = bitsOf v.toNat 16 4 ∧ w.thresh = bitsOf v.toNat 20 8 ∧
          w.sizelog = bitsOf v.toNat 28 4 ∧ w.base = bitsOf v.toNat 32 21 ∧
          (w.base = o.base → w.sizelog = o.sizelog → w.items = o.items) ∧
          (w.base ≠ o.base ∨ w.sizelog ≠ o.sizelog → w.items = []))))

/-! ### Exceptions, control registers and slots -/

/-- Taking a trap: EPC, ECAUSE, EADDR, PMODE, MODE, EXL and the PC as R335 says, no register of the thread touched; with
EXL set or without a vector the slot stops as SLOTHALT stops one, two entries enter the error log, and its job ends; on a
management core every slot stops at once and the core waits for its reset. TRAP enters with the next
address; ERET and UPRET go back where the address is even and in the slice, and fault 0x07 otherwise (R334, R335, R337,
R342, R428). That ERET leaves the mode of a processor of a root chiplet as it is, is the model's reading (log 54). That TRAP counts in INSTRET, and that an undelivered trap takes two entries of the error log, is the model's
reading (log 40). -/
def Obligations.TrapsAreTakenAndReturnedFrom : Prop :=
  ∀ (s : State),
    (∀ (n : Nat) (i : SlotNo) (cause : BitVec 8) (addr ret : Dword),
      let sl := s.slot n i
      let t := s.trapEntry n i cause addr ret
      let x := t.slot n i
      (sl.st.exl = false → sl.vec.tvec.getLsbD 0 = true →
        x.vec = { sl.vec with epc := ret, ecause := cause, eaddr := addr } ∧
        x.st = { sl.st with
          pmode := sl.st.mode, exl := true, mode := if sl.st.mode = .user then .supervisor else sl.st.mode } ∧
        x.pc = (sl.vec.tvec &&& 0x1FFFE).setWidth 64 ∧ x.run = .running ∧ x.g = sl.g ∧ x.v = sl.v ∧ x.k = sl.k ∧
        x.loops = sl.loops ∧ x.mons = sl.mons ∧ x.fp = sl.fp ∧ x.cnt = sl.cnt ∧ SameMemory s t ∧
        (∀ m k, (m, k) ≠ (n, i) → t.slot m k = s.slot m k) ∧ t.errlog = s.errlog ∧ t.jobs = s.jobs) ∧
      (sl.st.exl = true ∨ sl.vec.tvec.getLsbD 0 = false →
        let code : BitVec 8 := if sl.st.exl then 0x0C else cause
        SameMemory s t ∧
        t.errlog = s.errlog ++ [{ cause := code, core := n, slot := i.val, value := addr },
                                { cause := code, core := n, slot := i.val, value := ret }] ∧
        ((∀ k, s.kindOf n ≠ .management k) → x.run = .waiting .stopping ∧
          ∀ j job, sl.job = some j → s.job? j = some job → job.phase = .running →
            (t.job? j).map (fun y => y.phase) =
              some (if sl.st.exl then .ending 5 0 else .ending 10 cause)) ∧
        ∀ k, s.kindOf n = .management k → (t.core n).asleep = true ∧
          (∀ j, (t.slot n j).run = if (s.slot n j).run = .off then .off else .halted) ∧
          ∃ d, d ∈ t.due ∧ d.ev = { kind := .watchdogExpiry, arg := .core n })) ∧
    (∀ imm, s.me.st.exl = false → s.me.vec.tvec.getLsbD 0 = true →
      ∃ t, exec (.trap imm) s = .next t ∧ SameMemory s t ∧ (∀ r, t.getG r = s.getG r) ∧ (∀ r, t.getV r = s.getV r) ∧
        (∀ r, t.getK r = s.getK r) ∧
        t.me.vec = { s.me.vec with epc := s.me.pc + 4, ecause := 0x04, eaddr := imm.setWidth 64 } ∧
        t.me.st = { s.me.st with
          pmode := s.me.st.mode, exl := true, mode := if s.me.st.mode = .user then .supervisor else s.me.st.mode } ∧
        t.me.pc = (s.me.vec.tvec &&& 0x1FFFE).setWidth 64 ∧ t.me.loops = s.me.loops ∧
        t.me.cnt = { s.me.cnt with instret := s.me.cnt.instret + 1 }) ∧
    (let size := (s.slice s.curCore s.me.who).2
     let back := fun (i : Instr) (target : Dword) (st : Status) =>
       (target.toNat % 2 = 0 → target.toNat < size → ∃ t, exec i s = .next t ∧ OnlyMe s t ∧ SameMemory s t ∧ Jumps s t target ∧
         t.me.st = st ∧ t.me.vec = s.me.vec ∧ t.me.fp = s.me.fp ∧ (∀ r, t.getG r = s.getG r) ∧ (∀ r, t.getV r = s.getV r) ∧
         ∀ r, t.getK r = s.getK r) ∧
       (target.toNat % 2 = 1 ∨ size ≤ target.toNat → Faults s i 0x07 target)
     (s.me.st.mode = .user → ∃ addr, Faults s .eret 0x02 addr) ∧
     (s.me.st.mode ≠ .user → back .eret s.me.vec.epc { s.me.st with
       mode := if s.onRoot s.curCore then s.me.st.mode else s.me.st.pmode, exl := false }) ∧
     (s.me.run = .running → back .upret s.me.vec.uepc { s.me.st with upc := false, ovf := false }))

/-- The upcall causes in user mode enter the upcall handler with UEPC, UCAUSE, UADDR and UPC and touch nothing else of the
thread; while an upcall runs 0x11 and 0x12 trap and the others wait; every other cause traps. Of the causes that can be taken
the lowest is taken; the timer raises 0x09 once; a slot whose wait is over rejoins, and an MCMD, MMOV or MMOVW that waited
takes effect then, a slot that halts stops, of whatever job it is and whether it is in a bench, and a SLOTHALT that waits
for it is answered (R27, R127, R284, R297, R336, R339, R340, R341, R347). -/
def Obligations.UpcallsAndAsynchronousCausesAreTaken : Prop :=
  ∀ (s : State) (n : Nat) (i : SlotNo),
    let sl := s.slot n i
    let upcall := fun (c : BitVec 8) => c ∈ [(0x09 : BitVec 8), 0x11, 0x12, 0x39, 0x51, 0x61]
    (∀ (c : BitVec 8) (addr ret : Dword),
      let t := s.deliver n i c addr ret
      let x := t.slot n i
      let up := upcall c ∧ sl.st.mode = .user ∧ sl.vec.upvec.getLsbD 0 = true
      (¬up → t = s.trapEntry n i c addr ret) ∧
      (up → sl.st.upc = true → c = 0x11 ∨ c = 0x12 → t = s.trapEntry n i c addr ret) ∧
      (up → sl.st.upc = true → c ≠ 0x11 → c ≠ 0x12 → x = { sl with pending := sl.pending ++ [(c, addr)] }) ∧
      (up → sl.st.upc = false →
        let vec := if c = 0x39 then s.ovfVector n sl.st.partition else sl.vec.upvec
        x.vec = { sl.vec with uepc := ret, ucause := c, uaddr := if c = 0x09 ∨ c = 0x39 then 0 else addr } ∧
        x.st = { sl.st with upc := true, ovf := sl.st.ovf || c == 0x39 } ∧ x.pc = (vec &&& 0x1FFFE).setWidth 64 ∧
        x.run = .running ∧ x.g = sl.g ∧ x.v = sl.v ∧ x.k = sl.k ∧ x.loops = sl.loops ∧ x.fp = sl.fp ∧ x.cnt = sl.cnt ∧
        SameMemory s t)) ∧
    (s.arg = .slot n i →
      (let can := fun (p : BitVec 8 × Dword) => ¬(upcall p.1 ∧ sl.st.mode = .user ∧ sl.vec.upvec.getLsbD 0 = true ∧
         sl.st.upc = true)
       ((∀ p, p ∈ sl.pending → ¬can p) → exec .asyncCauseEntry s = .next s) ∧
       ∀ p, p ∈ sl.pending → can p → (∀ q, q ∈ sl.pending → can q → q = p ∨ p.1.toNat < q.1.toNat) →
         exec .asyncCauseEntry s =
           .next ((s.modSlot n i (fun x => { x with pending := x.pending.erase p })).deliver n i p.1 p.2 sl.pc)) ∧
      (sl.st.tie = false ∨ s.ptime < sl.cnt.tcmp.toNat → exec .timerInterrupt s = .next s) ∧
      (sl.st.tie = true → sl.cnt.tcmp.toNat ≤ s.ptime → sl.run = .running →
        ∃ t, exec .timerInterrupt s = .next t ∧ SameMemory s t ∧
          t.slot n i = { sl with st := { sl.st with tie := false }, pending := sl.pending ++ [(0x09, 0)] }) ∧
      (s.rejoinReady n i = false → exec .slotRejoin s = .next s) ∧
      (s.rejoinReady n i = true →
        let keeps := fun (t : State) (vs : List (BitVec 4)) =>
          (∀ r, (t.slot n i).getG r = sl.getG r) ∧ (∀ r, r ∉ vs → (t.slot n i).getV r = sl.getV r) ∧
            (∀ r, (t.slot n i).getK r = sl.getK r) ∧ (t.slot n i).st = sl.st ∧ (t.slot n i).vec = sl.vec
        let completes := fun (run : Run) (vs : List (BitVec 4)) (more : State → Prop) =>
          ∃ t, exec .slotRejoin s = .next t ∧ SameMemory s t ∧ (t.slot n i).run = run ∧ keeps t vs ∧
            ((t.slot n i).loops, (t.slot n i).pc) = endAction sl.loops sl.pc (sl.pc + BitVec.ofNat 64 sl.ilen) ∧
            (t.slot n i).cnt = { sl.cnt with instret := sl.cnt.instret + 1 } ∧ more t
        let stops := fun (t : State) => SameMemory s t ∧ (t.slot n i).run = .halted ∧ (t.slot n i).bench = none ∧
          (t.slot n i).capture = false ∧ (∀ r, (t.slot n i).getG r = sl.getG r) ∧ (∀ r, (t.slot n i).getV r = sl.getV r) ∧
          (∀ r, (t.slot n i).getK r = sl.getK r) ∧ (t.slot n i).vec = sl.vec ∧ (t.slot n i).job = sl.job ∧
          ∀ m k, (s.slot m k).run = .waiting (.slotAnswer n i true) → Rejoins s t m k []
        (∀ x k, sl.run = .waiting (.channel x k) → ∃ t, exec .slotRejoin s = .next t ∧ SameMemory s t ∧
          t.slot n i = { sl with run := .running, rejoinAt := none, turnOn := some x }) ∧
        ((∀ d ty r ids, sl.run ≠ .waiting (.mmov d ty r ids)) → (∀ x ty r ids, sl.run ≠ .waiting (.mmovw x ty r ids)) →
          (∀ q r, sl.run ≠ .waiting (.matrixRoom q r)) → (∀ x k, sl.run ≠ .waiting (.channel x k)) → sl.run ≠ .waiting .halt → sl.run ≠ .waiting .stopping →
          ∃ t, exec .slotRejoin s = .next t ∧ SameMemory s t ∧ t.slot n i = { sl with run := .running, rejoinAt := none }) ∧
        (sl.run = .waiting .stopping → sl.bench = none → sl.job = none →
          ∃ t, exec .slotRejoin s = .next t ∧ SameMemory s t ∧
            t.slot n i = { sl with run := .halted, capture := false, phint := none, rejoinAt := none }) ∧
        (sl.run = .waiting .stopping → ∃ t, exec .slotRejoin s = .next t ∧ stops t ∧ (t.slot n i).pc = sl.pc ∧
          (t.slot n i).cnt = sl.cnt) ∧
        (sl.run = .waiting .halt → sl.deferred = none → sl.pending = [] → sl.bench = none → sl.job = none →
          (∀ l, l ∈ (s.chip (s.chipOf n)).cache → l.owner = some n → l.dirty = 0) → completes .halted [] (fun _ => True)) ∧
        (sl.run = .waiting .halt → sl.deferred = none → sl.pending = [] →
          (∀ l, l ∈ (s.chip (s.chipOf n)).cache → l.owner = some n → l.dirty = 0) →
          ∃ t, exec .slotRejoin s = .next t ∧ stops t ∧
            ((t.slot n i).loops, (t.slot n i).pc) = endAction sl.loops sl.pc (sl.pc + BitVec.ofNat 64 sl.ilen) ∧
            (t.slot n i).cnt = { sl.cnt with instret := sl.cnt.instret + 1 }) ∧
        (sl.run = .waiting .halt → sl.deferred.isSome = true ∨ sl.nextCause.isSome = true →
          ∃ t, exec .slotRejoin s = .next t ∧ SameMemory s t ∧ t.slot n i = { sl with run := .running, rejoinAt := none }) ∧
        (∀ q r, sl.run = .waiting (.matrixRoom q r) → sl.deferred = none → sl.ilen = 4 →
          completes .running [] (fun t => ∃ e, (t.mat n q).entries = (s.mat n q).entries ++ [e] ∧ e.record = r ∧ e.slot = i ∧
            e.mode = sl.st.mode ∧ e.part = sl.st.partition ∧ e.seed = sl.fp.seed ∧ e.draw = sl.fp.draw ∧ e.fired = false ∧
            e.started = false ∧ e.done = false ∧ e.kstep = 0 ∧ e.row = 0)) ∧
        (∀ d ty r ids, sl.run = .waiting (.mmov d ty r ids) → ty.toNat ∉ (s.core n).badTiles → sl.ilen = 4 →
          completes .running [d] (fun t =>
            (t.slot n i).getV d = bitsOf (s.tile n ty.toNat).toNat (512 * r.toNat) 512)) ∧
        (∀ x ty r ids, sl.run = .waiting (.mmovw x ty r ids) → sl.ilen = 4 →
          completes .running [] (fun t => bitsOf (t.tile n ty.toNat).toNat (512 * r.toNat) 512 = (x : VReg)))))

/-- CRR reads and CRW exchanges a control register: each number's value and the bits a write keeps; an unassigned number is
illegal, one that the mode may not use faults 0x02, and one of another owner its owner's cause; a register that the mode may
only read keeps its value; a read of CPSTAT clears its FAULT (R116, R231, R311, R323, R330 to R332, R350). That the CRW which
writes INSTRET counts itself is the model's reading (log 40). -/
def Obligations.ControlRegistersAreReadAndWritten : Prop :=
  ∀ (s : State) (d a : BitVec 5) (num : BitVec 12), Untraced s →
    let k := num.toNat
    let v := s.getG a
    let sl := s.me
    let crr := Instr.crr d num
    let crw := Instr.crw d a num
    let mode := sl.st.mode
    let n := s.curCore
    let p := sl.st.partition
    let row := s.row n p
    (k ∉ crNumbers → (∀ w, encodeWord crr = some w → Faults s crr 0x01 (BitVec.ofNat 64 w)) ∧
      ∀ w, encodeWord crw = some w → Faults s crw 0x01 (BitVec.ofNat 64 w)) ∧
    (k ∈ crNumbers → 0x028 ≤ k → k ≤ 0x02C → mode = .user →
      (∃ addr, Faults s crr 0x02 addr) ∧ ∃ addr, Faults s crw 0x02 addr) ∧
    (∀ c, k ∈ crNumbers → s.ctlOwner k = some c → (∃ addr, Faults s crr c addr) ∧ ∃ addr, Faults s crw c addr) ∧
    (k ∈ crNumbers → s.ctlOwner k = none → mode ≠ .user ∨ k < 0x028 ∨ 0x02C < k →
      Answers s crr 4 d (s.ctl k) ∧ (k ≠ 0x110 → Result s crr 4 d (s.ctl k)) ∧
      (∀ x, x ∈ [(0x001, sl.fp.rmode.setWidth 64), (0x002, sl.fp.fflags.setWidth 64), (0x003, sl.fp.seed), (0x004, sl.fp.draw),
          (0x005, sl.cnt.round), (0x006, BitVec.ofNat 64 s.here.t - sl.cnt.cycleOff), (0x007, sl.cnt.instret),
          (0x008, sl.cnt.tcmp), (0x009, BitVec.ofNat 64 s.ptime), (0x010, sl.loops.lcnt0.setWidth 64),
          (0x011, sl.loops.lbeg0.setWidth 64), (0x012, sl.loops.lend0.setWidth 64),
          (0x013, sl.loops.lcnt1.setWidth 64), (0x014, sl.loops.lbeg1.setWidth 64), (0x015, sl.loops.lend1.setWidth 64),
          (0x020, sl.vec.uepc), (0x021, sl.vec.ucause.setWidth 64),
          (0x022, sl.vec.uaddr), (0x023, sl.vec.upvec.setWidth 64), (0x024, sl.vec.uscr),
          (0x028, sl.vec.epc), (0x029, sl.vec.ecause.setWidth 64), (0x02A, sl.vec.eaddr),
          (0x02B, sl.vec.tvec.setWidth 64), (0x02C, sl.vec.escr),
          (0x100, s.here.fduty.setWidth 64), (0x101, s.here.hold.setWidth 64), (0x102, row.ovfslot.setWidth 64),
          (0x103, row.ovfvec.setWidth 64), (0x104, s.here.panelId.setWidth 64), (0x105, BitVec.ofNat 64 s.curCore),
          (0x118, (s.mat n 0).mksteps), (0x119, (s.mat n 0).mstallc), (0x11A, (s.mat n 1).mksteps),
          (0x11B, (s.mat n 1).mstallc)] →
        s.ctl x.1 = (x.2 : Dword)) ∧
      (∀ m : Fin 4, let x := s.ctl (0x018 + m.val)
        x.getLsbD 63 = (sl.mons.get m).armed ∧ x.getLsbD 62 = (sl.mons.get m).triggered ∧
        bitsOf x.toNat 6 15 = (sl.mons.get m).line ∧ ∀ j, j < 6 ∨ (21 ≤ j ∧ j < 62) → x.getLsbD j = false) ∧
      (let x := s.ctl 0x106
       let slots := if sl.who.isNone then s.liveSlots n else (s.partSlots p n).length
       let mine := (s.matOwners n).find? (fun o => o.1 == p && sl.who.isSome)
       slots < 32 → (s.shareBanks n sl.who).length < 32 → s.liveSlots n < 32 →
         fieldOf x 4 0 = slots ∧ fieldOf x 9 5 = (s.shareBanks n sl.who).length ∧
         x.getLsbD 10 = (s.isGrid n && (s.capOf n).benchOk) ∧ x.getLsbD 11 = mine.isSome ∧
         (∀ o, mine = some o → bitsOf x.toNat 12 1 = o.2) ∧ x.getLsbD 13 = s.matSplit n ∧
         fieldOf x 21 16 = (s.slice n sl.who).2 / 0x1000 % 64 ∧ fieldOf x 26 22 = s.liveSlots n) ∧
      (∀ q : BitVec 3, let x := s.ctl (0x108 + q.toNat)
        let r := s.queue n q
        r.entries.length ≤ 15 →
          bitsOf x.toNat 0 2 = r.mode ∧ x.getLsbD 4 = !r.writers.isEmpty ∧ x.getLsbD 5 = !r.readers.isEmpty ∧
          fieldOf x 11 8 = r.entries.length ∧ bitsOf x.toNat 43 5 = r.cls ∧ bitsOf x.toNat 48 16 = r.dest) ∧
      (let x := s.ctl 0x110
       let y := s.here.cpstat
       s.here.copies.length ≤ 3 →
         fieldOf x 1 0 = s.here.copies.length ∧
         (x.getLsbD 2 = true ↔ ∃ c rest, s.here.copies = c :: rest ∧ c.term ≠ none ∧ c.fired = false) ∧
         x.getLsbD 3 = y.fault ∧ bitsOf x.toNat 20 4 = y.slot ∧ bitsOf x.toNat 24 8 = y.doneCount ∧
         bitsOf x.toNat 32 24 = y.prog ∧ bitsOf x.toNat 56 8 = y.fcause) ∧
      (let x := s.ctl 0x111
       let w := s.here.wl
       x.getLsbD 0 = w.en ∧ x.getLsbD 1 = w.bal ∧ bitsOf x.toNat 16 4 = w.interval ∧ bitsOf x.toNat 20 8 = w.thresh ∧
       bitsOf x.toNat 28 4 = w.sizelog ∧ bitsOf x.toNat 32 21 = w.base) ∧
      (let x := s.ctl 0x112
       bitsOf x.toNat 0 21 = row.fnBase ∧ x.getLsbD 21 = row.fnEn ∧ bitsOf x.toNat 22 4 = row.fnSizelog ∧
       bitsOf x.toNat 27 5 = row.fnCounter ∧ bitsOf x.toNat 32 32 = row.fnHead) ∧
      (k = 0x110 → ∀ i, i ∈ [crr, crw] → ∃ t, exec i s = .next t ∧ t.getG d = (if d = 0 then 0 else s.ctl k) ∧
        SlotFrame s t [d] [] [] ∧ SameMemory s t ∧ t.here.cpstat = { s.here.cpstat with fault := false } ∧
        t.here.copies = s.here.copies ∧ Advances s t 4) ∧
      (let st := s.ctl 0x000
       fieldOf st 9 8 = mode.code ∧ fieldOf st 11 10 = sl.st.pmode.code ∧ st.getLsbD 13 = sl.st.tie ∧
       st.getLsbD 14 = sl.st.exl ∧ st.getLsbD 15 = sl.st.upc ∧ st.getLsbD 16 = sl.st.ovf ∧
       bitsOf st.toNat 18 2 = sl.st.brole ∧ bitsOf st.toNat 20 3 = sl.st.bend ∧ bitsOf st.toNat 28 4 = sl.st.slotNo ∧
       bitsOf st.toNat 32 6 = sl.st.partition)) ∧
    (let writes := fun (t : State) =>
       exec crw s = .next t ∧ t.getG d = (if d = 0 then 0 else s.ctl k) ∧ (∀ r, r ≠ d → t.getG r = s.getG r) ∧
       (∀ r, t.getV r = s.getV r) ∧ (∀ r, t.getK r = s.getK r) ∧ SameMemory s t
     (ctlAccess k mode = .ro → k ∈ crNumbers → k ≠ 0x110 → s.ctlOwner k = none → Result s crw 4 d (s.ctl k)) ∧
     (∀ x, x ∈ [(0x002, 5), (0x003, 64), (0x004, 64), (0x005, 64), (0x008, 64), (0x020, 64), (0x021, 8), (0x022, 64),
         (0x023, 17), (0x024, 64), (0x028, 64), (0x029, 8), (0x02A, 64), (0x02B, 17), (0x02C, 64), (0x101, 32), (0x102, 5)] →
       k = x.1 → ctlAccess k mode = .rw → ∃ t, writes t ∧ t.ctl k = BitVec.ofNat 64 (v.toNat % 2 ^ x.2) ∧
       (t.me.loops, t.me.pc) = endAction sl.loops sl.pc (sl.pc + 4) ∧ t.me.cnt.instret = sl.cnt.instret + 1) ∧
     (k = 0x000 → ∃ t, writes t ∧ Advances s t 4 ∧
       t.me.st = { sl.st with
         bend := bitsOf v.toNat 20 3, tie := v.getLsbD 13, exl := if mode = .user then sl.st.exl else v.getLsbD 14,
         pmode := if mode = .user then sl.st.pmode else if fieldOf v 11 10 = 0 then .user
           else if fieldOf v 11 10 = 1 then .supervisor
           else if fieldOf v 11 10 = 3 ∧ s.onRoot s.curCore = true then .management else sl.st.pmode }) ∧
     (k = 0x001 → ∃ t, writes t ∧ Advances s t 4 ∧
       t.me.fp.rmode = (if v.toNat % 8 = 7 then sl.fp.rmode else v.setWidth 3)) ∧
     (k = 0x100 → mode = .management → ∃ t, writes t ∧ Advances s t 4 ∧
       t.here.fduty = (if v.toNat % 32 ≤ 16 then v.setWidth 5 else s.here.fduty)) ∧
     (k = 0x010 → ∃ t, writes t ∧
       let r := endAction sl.loops sl.pc (sl.pc + 4)
       t.me.pc = r.2 ∧ t.me.loops = { r.1 with lcnt0 := v.setWidth 32 }) ∧
     (∀ x, x ∈ [(0x011, fun (l : Loops) => { l with lbeg0 := v.setWidth 17 }), (0x012, fun l => { l with lend0 := v.setWidth 17 }),
         (0x013, fun l => { l with lcnt1 := v.setWidth 32 }), (0x014, fun l => { l with lbeg1 := v.setWidth 17 }),
         (0x015, fun l => { l with lend1 := v.setWidth 17 })] →
       k = x.1 → ∃ t, writes t ∧
         let r := endAction sl.loops sl.pc (sl.pc + 4)
         t.me.pc = r.2 ∧ t.me.loops = x.2 r.1) ∧
     (k = 0x006 → mode ≠ .user → ∃ t, writes t ∧ t.ctl k = v ∧ (t.me.loops, t.me.pc) = endAction sl.loops sl.pc (sl.pc + 4)) ∧
     (k = 0x007 → mode ≠ .user → ∃ t, writes t ∧ t.ctl k = v + 1 ∧
       (t.me.loops, t.me.pc) = endAction sl.loops sl.pc (sl.pc + 4)) ∧
     (k = 0x103 → mode ≠ .user → ∃ t, writes t ∧ Advances s t 4 ∧ t.ctl k = v &&& 0x1FFFE) ∧
     (∀ q : BitVec 3, k = 0x108 + q.toNat → s.ctlOwner k = none → (s.queue n q).readers = [] → (s.queue n q).writers = [] →
       s.here.copies = [] → ∃ t, writes t ∧ Advances s t 4 ∧
         let m : BitVec 2 := bitsOf v.toNat 0 2
         t.queue n q = { (s.queue n q) with
           dest := bitsOf v.toNat 48 16, cls := bitsOf v.toNat 43 5, mode := m,
           entries := if m = (s.queue n q).mode then (s.queue n q).entries else [] }) ∧
     (k = 0x111 → s.ctlOwner k = none →
       let base := fieldOf v 52 32
       let sz := fieldOf v 31 28
       let fits := sz ≤ 12 ∧ base % 16 = 0 ∧ base + 16 * 2 ^ (4 + sz) ≤ s.shareSize n (some p)
       (¬fits → Faults s crw 0x66 v) ∧
       (fits → ∃ t, writes t ∧ Advances s t 4 ∧
         let w := t.here.wl
         let o := s.here.wl
         w.en = v.getLsbD 0 ∧ w.bal = v.getLsbD 1 ∧ w.interval = bitsOf v.toNat 16 4 ∧ w.thresh = bitsOf v.toNat 20 8 ∧
         w.sizelog = bitsOf v.toNat 28 4 ∧ w.base = bitsOf v.toNat 32 21 ∧
         w.items = if w.base = o.base ∧ w.sizelog = o.sizelog then o.items else [])) ∧
     (k = 0x112 → mode ≠ .user →
       let base := fieldOf v 20 0
       let sz := fieldOf v 25 22
       let size := 8 * 2 ^ (4 + sz)
       let fits := sz ≤ 12 ∧ base % size = 0 ∧ base + size ≤ s.shareSize n sl.who
       let owns := s.ownsCounter (fieldOf v 31 27) = true
       (¬fits → Faults s crw 0x0B v) ∧ (fits → ¬owns → Faults s crw 0x21 v) ∧
       (fits → owns → ∃ t, writes t ∧ Advances s t 4 ∧
         t.row n p = { row with
           fnBase := bitsOf v.toNat 0 21, fnEn := v.getLsbD 21, fnSizelog := bitsOf v.toNat 22 4,
           fnCounter := bitsOf v.toNat 27 5, fnHead := 0 })))

/-- YIELD completes and lets each other slot of its partition that is ready in its cycle issue once, 16 cycles at most; HALT waits for the slot's writes and engine commands, then stops, whatever its job and its bench, and answers the SLOTHALTs that
wait for it; SLOTGO and
SLOTHALT ask a core about a slot and wait for the answer, ISTW posts 64 bytes of code, each where the outgoing buffer has room
for its message, and PLBINV drops translations
everywhere; in user mode the last four fault 0x02; their arrivals start, capture or refuse a slot and write code (R338,
R339, R345 to R349). That a core of another panel is refused with 0x0A is the model's reading (log 40). -/
def Obligations.SlotsAreStartedAndStopped : Prop :=
  ∀ (s : State) (a b : BitVec 5),
    let n := s.curCore
    let x := s.getG a
    let y := s.getG b
    let privileged := [Instr.slotgo a b, .slothalt a, .istw a b, .plbinv a]
    (∃ t, exec .yield s = .next t ∧ Frame s t [] [] [] ∧ t.me.fp = s.me.fp ∧ Advances s t 4 ∧
      t.me.yieldEnd = s.here.t + 15 ∧ t.me.yields.Nodup ∧
      ∀ k, k ∈ t.me.yields ↔ k ≠ s.curSlot ∧ (s.here.slot k).readyIn (s.here.t - 1) = true ∧
        (s.here.slot k).st.partition = s.me.st.partition) ∧
    (s.me.outstanding ≠ 0 ∨ (∃ e, e ∈ s.here.buffer ∧ e.slot = s.curSlot) ∨ s.enginesIdle n s.curSlot = false →
      (s.me.bench = none → Waits s .halt .halt) ∧
      ∃ t, exec .halt s = .next t ∧ t.me.run = .waiting .halt ∧ t.me.bench = none ∧ SameMemory s t ∧ t.me.pc = s.me.pc ∧
        (∀ r, t.getG r = s.getG r) ∧ (∀ r, t.getV r = s.getV r) ∧ ∀ r, t.getK r = s.getK r) ∧
    (s.me.outstanding = 0 → s.enginesIdle n s.curSlot = true → Drained s 3 →
      ∃ t, exec .halt s = .next t ∧ SameMemory s t ∧ t.me.run = .halted ∧ t.me.bench = none ∧ t.me.job = s.me.job ∧
        (∀ r, t.getG r = s.getG r) ∧ (∀ r, t.getV r = s.getV r) ∧ (∀ r, t.getK r = s.getK r) ∧ Advances s t 4 ∧
        ∀ m i, (s.slot m i).run = .waiting (.slotAnswer n s.curSlot true) → (m, i) ≠ (n, s.curSlot) → Rejoins s t m i []) ∧
    (s.me.st.mode = .user → ∀ i, i ∈ privileged → ∃ addr, Faults s i 0x02 addr) ∧
    (s.me.st.mode ≠ .user →
      let asks := fun (i : Instr) (kind : Instr) (off : Dword) =>
        (∀ nm, s.resolveName s.acc (x &&& 0x3FFFFF) = .ok nm → s.ownPanel n nm = true →
          let q := nameCore nm
          let k : SlotNo := Fin.ofNat 16 (fieldOf x 25 22)
          (kind = .slotgoArrival ∨ (q, k) ≠ (n, s.curSlot) → s.outRoom n s.me.st.partition = false → Waits s i .outgoing) ∧
          (kind = .slotgoArrival ∨ (q, k) ≠ (n, s.curSlot) → s.outRoom n s.me.st.partition = true →
            Waits s i (.slotAnswer q k (kind == .slothaltArrival)) ∧ ∀ t, exec i s = .next t →
              ∃ m, m.core = n ∧ m.slot = s.curSlot ∧ m.part = s.me.st.partition ∧ m.target = q ∧ m.tslot = k ∧
                m.offset = off ∧ m.launch = false ∧ (∀ j, s.me.job = some j → m.job = j) ∧
                t.due = s.due ++ [{ path := some (true, n, q), ev := { kind := kind, arg := .slotMsg m } }]) ∧
          (kind = .slothaltArrival → (q, k) = (n, s.curSlot) → Faults s i 0x0A x)) ∧
        (∀ nm, s.resolveName s.acc (x &&& 0x3FFFFF) = .ok nm → s.ownPanel n nm = false → Faults s i 0x0A x) ∧
        ∀ e, s.resolveName s.acc (x &&& 0x3FFFFF) = .error e → Stops s i e
      (2 ^ 17 ≤ y.toNat ∨ y.toNat % 2 = 1 → Faults s (.slotgo a b) 0x0B y) ∧
      (y.toNat < 2 ^ 17 → y.toNat % 2 = 0 → 2 ^ 26 ≤ x.toNat → Faults s (.slotgo a b) 0x0B x) ∧
      (2 ^ 26 ≤ x.toNat → Faults s (.slothalt a) 0x0B x) ∧
      (x.toNat < 2 ^ 26 → y.toNat < 2 ^ 17 → y.toNat % 2 = 0 → asks (.slotgo a b) .slotgoArrival y) ∧
      (x.toNat < 2 ^ 26 → asks (.slothalt a) .slothaltArrival 0) ∧
      (fieldOf x 48 32 % 64 ≠ 0 ∨ fieldOf x 31 22 ≠ 0 ∨ fieldOf x 63 49 ≠ 0 → Faults s (.istw a b) 0x0B x) ∧
      (fieldOf x 48 32 % 64 = 0 → fieldOf x 31 22 = 0 → fieldOf x 63 49 = 0 → y.toNat % 64 = 0 → y.toNat < 0x200000 →
        s.me.outstanding < 32 → ∀ nm p, s.resolveName s.acc (x &&& 0x3FFFFF) = .ok nm → s.ownPanel n nm = true →
        s.check s.acc .image 64 y = .ok (.self p) → s.badIn p 64 = none →
        (s.outRoom n s.me.st.partition = false → Waits s (.istw a b) .outgoing) ∧
        (s.outRoom n s.me.st.partition = true → ∃ t m, exec (.istw a b) s = .next t ∧ SameMemory s t ∧ SlotFrame s t [] [] [] ∧ Advances s t 4 ∧
          t.me.outstanding = s.me.outstanding + 1 ∧ m.core = n ∧ m.slot = s.curSlot ∧ m.target = nameCore nm ∧
          m.offset = fieldOf x 48 32 ∧ m.data = BitVec.ofNat 512 (s.peek p 64) ∧
          t.due = s.due ++ [{ path := some (true, n, nameCore nm), ev := { kind := .istwArrival, arg := .code m } }])) ∧
      (∀ p, s.me.who = some p → x = 0x8000000000000000 →
        Waits s (.plbinv a) .plbinv ∧ ∀ t, exec (.plbinv a) s = .next t → ∀ m e, s.inRegion p m = true →
          (e ∈ (t.core m).plb ↔ e ∈ (s.core m).plb ∧ e.part ≠ some p)) ∧
      (∀ p, s.me.who = some p → x = 0xC000000000000000 → ∃ addr, Faults s (.plbinv a) 0x02 addr)) ∧
    (∀ m i, s.arg = .slot m i → (s.slot m i).run = .waiting .plbinv →
      ∃ t, exec .plbinvAck s = .next t ∧ SameMemory s t ∧ Rejoins s t m i []) ∧
    (∀ m, s.arg = .slotMsg m → m.launch = false → (s.core m.target).handovers = [] →
      let sl := s.slot m.target m.tslot
      let size := (s.slice m.target (if s.onRoot m.target then none else some m.part)).2
      (sl.job = some m.job → sl.run = .halted ∨ sl.run = .off → sl.capture = false → sl.deferred = none →
        m.offset.toNat < size → (∃ j, s.job? m.job = some j ∧ j.phase = .running) → m.core ≠ nobody →
        (m.core, m.slot) ≠ (m.target, m.tslot) →
        ∃ t, exec .slotgoArrival s = .next t ∧ SameMemory s t ∧ Rejoins s t m.core m.slot [] ∧
          (let z := t.slot m.target m.tslot
           z.run = .running ∧ z.pc = m.offset ∧ z.st = { sl.st with mode := .user, exl := false, upc := false } ∧
           z.g = sl.g ∧ z.v = sl.v ∧ z.k = sl.k ∧ z.vec = sl.vec ∧ z.fp = sl.fp)) ∧
      (sl.job ≠ some m.job → m.core ≠ nobody →
        let refused := ∃ addr, exec .slotgoArrival s =
          .next (s.answerFault m.core m.slot 0x0A addr)
        refused ∧ exec .slothaltArrival s = exec .slotgoArrival s) ∧
      (sl.job = some m.job → sl.run ≠ .off → sl.run ≠ .halted →
        ∃ t, exec .slothaltArrival s = .next t ∧ SameMemory s t ∧
          t.slot m.target m.tslot = { sl with capture := true }) ∧
      (sl.job = some m.job → sl.run = .off ∨ sl.run = .halted → m.core ≠ nobody →
        ∃ t, exec .slothaltArrival s = .next t ∧ SameMemory s t ∧ Rejoins s t m.core m.slot [])) ∧
    (∀ m, s.arg = .code m → m.core ≠ nobody → (s.core m.target).isolated = false → s.busyEdge m.target = false →
      let sc := s.slice m.target (if s.onRoot m.target then none else some m.part)
      let p := istoreAddr m.target (sc.1 + m.offset)
      (m.offset + 64 ≤ sc.2 → Memory.wf s.mem = true → Sound s p 64 → isLocal p = false →
        ∃ t, exec .istwArrival s = .next t ∧ StoredAt s t p 64 m.data.toNat ∧
          (t.slot m.core m.slot).outstanding = (s.slot m.core m.slot).outstanding - 1) ∧
      (sc.2 < m.offset + 64 → (s.slot m.core m.slot).deferred = none →
        ∃ t, exec .istwArrival s = .next t ∧ SameMemory s t ∧
          ((t.slot m.core m.slot).deferred.map Prod.fst) = some 0x0A))

/-! ### Accesses away from their slot -/

/-- A request is performed at its home and answered, a write acknowledged; the last reply completes a read or faults 0x1E; an
acknowledgement counts an outstanding write off; walks fill the units or fault; a refused full/empty read is sent again
(R135, R142, R143, R147, R155, R156, R159). -/
def Obligations.RemoteAccessesArePerformedAndAnswered : Prop :=
  ∀ (s : State), Untraced s →
    (∀ r n, s.arg = .remote r → r.node = .core n → (s.core n).isolated = false →
      let answers := fun (t : State) (elem : Nat) (got : List (Nat × Dword)) (sc : BitVec 2) (va : Dword) (bad : Bool) =>
        let z : RemoteReply := { core := r.core, slot := r.slot, elem := elem, got := got, scope := sc, va := va, bad := bad }
        t.due = s.due ++ [{ path := some (false, n, r.core), ev := { kind := .remoteReply, arg := .reply z } }]
      (∀ elems k, r.op = .read elems k →
        ((∀ e, e ∈ elems → s.badIn e.2 k = none) → ∃ t, exec .remoteRequest s = .next t ∧ SameMemory s t ∧
          answers t 0 (elems.map (fun e => (e.1, BitVec.ofNat 64 (s.peek e.2 k)))) 0 r.va false) ∧
        (∀ before e after b, elems = before ++ e :: after → (∀ x, x ∈ before → s.badIn x.2 k = none) →
          s.badIn e.2 k = some b → ∃ t, exec .remoteRequest s = .next t ∧ SameMemory s t ∧
          answers t e.1 [] 0 (r.va + BitVec.ofNat 64 b - BitVec.ofNat 64 ((elems.headD (0, 0)).2)) true)) ∧
      (∀ addr mask data, r.op = .write addr mask data none → Memory.wf s.mem = true → addr % 64 = 0 → Sound s addr 64 →
        ∃ t, exec .remoteRequest s = .next t ∧
          (∀ j, j < 64 → Memory.get t.mem (addr + j) =
            if mask.getLsbD j then byteAt data.toNat j else Memory.get s.mem (addr + j)) ∧
          (∀ q, q < addr ∨ addr + 64 ≤ q → Memory.get t.mem q = Memory.get s.mem q) ∧
          t.due = s.due ++ [{ path := none, ev := { kind := .writeAck, arg := .ack r.core r.slot none } }]) ∧
      (∀ op addr k x e, r.op = .amo op addr k x e → Memory.wf s.mem = true → s.badIn addr k = none → Sound s addr k →
        ∃ t, exec .remoteRequest s = .next t ∧ answers t 0 [(0, BitVec.ofNat 64 (s.peek addr k))] 0 r.va false ∧
          StoredAt s t addr k
            ((amoResult op k (s.peek addr k) (x.toNat % 2 ^ (8 * k)) (e.toNat % 2 ^ (8 * k))).getD (s.peek addr k))) ∧
      (∀ addr clear, r.op = .feRead addr clear → risingFrom none s.full = true →
        (s.isFull addr = true → s.badIn addr 8 = none → ∃ t, exec .remoteRequest s = .next t ∧ SameMemory s t ∧
          answers t 0 [(0, BitVec.ofNat 64 (s.peek addr 8))] (s.scopeAt addr) r.va false ∧ t.isFull addr = !clear) ∧
        let far := (s.core (localCore addr)).waits.filter (fun w => w.core != localCore addr)
        (s.isFull addr = false → r.core = localCore addr ∨ far.length < 48 →
          ∃ t, exec .remoteRequest s = .next t ∧ SameMemory s t ∧ (t.core (localCore addr)).waits =
            (s.core (localCore addr)).waits ++
            [{ word := addr, core := r.core, slot := r.slot, va := r.va, clear := clear, own := false }]) ∧
        (s.isFull addr = false → r.core ≠ localCore addr → 48 ≤ far.length →
          ∃ t, exec .remoteRequest s = .next t ∧ t.cores = s.cores ∧
            t.due = s.due ++ [{ path := none, ev := { kind := .waitTableRefusal, arg := .remoteAt r (s.ptime + 128) } }])) ∧
      (∀ ws, r.op = .feClear ws → risingFrom none s.full = true → ∃ t, exec .remoteRequest s = .next t ∧ SameMemory s t ∧
        (∀ w, w ∈ ws → t.isFull w = false) ∧
        t.due = s.due ++ [{ path := none, ev := { kind := .feclrComplete, arg := .slot r.core r.slot } }])) ∧
    (∀ r p, s.arg = .reply r → (s.slot r.core r.slot).run = .waiting (.reply p) →
      (1 < p.remaining → ∃ t q, exec .remoteReply s = .next t ∧ SameMemory s t ∧
        (t.slot r.core r.slot).run = .waiting (.reply q) ∧ q.remaining = p.remaining - 1 ∧
        q.got = p.got ++ r.got ∧ q.dest = p.dest) ∧
      (p.remaining = 1 → r.bad = false → p.bad = none → ∀ d k signed e x, p.dest = .gpr d k signed → p.got = [] →
        r.got = [(e, x)] →
        ∃ t, exec .remoteReply s = .next t ∧ SameMemory s t ∧ Rejoins s t r.core r.slot [d] ∧
          (t.slot r.core r.slot).getG d = (if d = 0 then 0
            else if signed then BitVec.ofInt 64 (BitVec.ofNat (8 * k) x.toNat).toInt
            else BitVec.ofNat 64 (x.toNat % 2 ^ (8 * k)))) ∧
      (p.remaining = 1 → r.bad = true → p.bad = none →
        exec .remoteReply s = .next (s.answerFault r.core r.slot 0x1E r.va))) ∧
    (∀ n i bad, s.arg = .ack n i bad → n ≠ nobody → (s.slot n i).run = .running →
      ∃ t, exec .writeAck s = .next t ∧ SameMemory s t ∧
        (t.slot n i).outstanding = (s.slot n i).outstanding - 1 ∧ (t.slot n i).run = .running ∧
        (bad = none → (t.slot n i).deferred = (s.slot n i).deferred) ∧
        (∀ c addr, bad = some (c, addr) → (s.slot n i).deferred = none →
          (t.slot n i).deferred = some (c, (addr &&& 0x00FFFFFFFFFFFFFF) ||| 0x8000000000000000))) ∧
    (∀ n i va, s.arg = .slotAddr n i va → (s.slot n i).run = .waiting (.walk va) →
      (∀ c, s.walk (s.slot n i).who va.toNat = .error c →
        exec .plbWalk s = .next (s.answerFault n i c va)) ∧
      (∀ e, s.walk (s.slot n i).who va.toNat = .ok e →
        ∃ t, exec .plbWalk s = .next t ∧ SameMemory s t ∧ Reissues s t n i ∧
          let sp := s.leafSpan va.toNat e
          let who := (s.slot n i).who
          (t.core n).plb.head? = some { part := who, base := sp.1, size := sp.2, info := s.pageInfo who va.toNat e })) ∧
    (∀ e p va n i, s.arg = .translation e p va → s.translators p va = [(n, i)] →
      (s.plbFind (s.accOf n i) va.toNat = none → ∃ t, exec .translationWalk s = .next t ∧ SameMemory s t ∧ Reissues s t n i) ∧
      ∀ x, s.plbFind (s.accOf n i) va.toNat = some x →
        (∀ s1 q, s.translate (s.slot n i).who va.toNat x.info.place = (s1, .ok q) →
          ∃ t, exec .translationWalk s = .next t ∧ SameMemory s t ∧ Reissues s t n i) ∧
        (∀ s1 c, s.translate (s.slot n i).who va.toNat x.info.place = (s1, .error c) →
          exec .translationWalk s = .next (s1.answerFault n i c (BitVec.ofNat 64 va.toNat)))) ∧
    (∀ n, s.arg = .core n →
      ((s.core n).buffer = [] → exec .writeThroughDrain s = .next s) ∧
      (∀ e rest x, (s.core n).buffer = e :: rest → s.chipLine (s.chipOf n) e.va = some x →
        x.owner = some n ∨ x.dirty = 0 →
        ∃ t, exec .writeThroughDrain s = .next t ∧ SameMemory s t ∧ (t.core n).buffer = rest ∧
          ∃ y, y ∈ (t.chip (s.chipOf n)).cache ∧ y.va = e.va ∧ y.owner = some n ∧ y.dirty = x.dirty ||| e.mask ∧
            y.data = overlay x.data e.mask e.data)) ∧
    (∀ r at_, s.arg = .remoteAt r at_ →
      (∀ p, (s.slot r.core r.slot).run = .waiting (.reply p) → ∃ t, exec .waitTableRefusal s = .next t ∧
        t.cores = s.cores ∧ SameMemory s t ∧
        t.due = s.due ++ [{ path := some (false, r.core, s.pathNode r.node), ev := { kind := .remoteRequest, arg := .remote r } }]) ∧
      ((s.slot r.core r.slot).run = .running → exec .waitTableRefusal s = .next s)) ∧
    (∀ n i, s.arg = .slot n i → (s.slot n i).run = .waiting .feclr →
      ∃ t, exec .feclrComplete s = .next t ∧ SameMemory s t ∧ Rejoins s t n i [])

/-! ### Groups and commits -/

/-- GBAR and RBAR arrive: they fault 0x23 without a group, GBAR gp0 of a recoverable job 0x24, RBAR over the mirror
allowance 0x75; the slot waits, and its core arrives once every other started slot of the job there waits at the port.
Arrivals gather up the tree, the root's completes the use or begins a commit, completions go down; a commit streams,
counts the round and adopts the copies. MIRADD and MIRDEL change the mirrored ranges, RSTAT reads the state (R208 to R211,
R367, R369 to R372). The trees of a group are free (log 21). -/
def Obligations.GroupsMeetAndRoundsCommit : Prop :=
  ∀ (s : State) (d a b : BitVec 5) (port : BitVec 2),
    let n := s.curCore
    let x := s.getG a
    let y := s.getG b
    let grid := s.isGrid n
    (s.portGroup n s.me.job port = none → ∃ addr, Faults s (.gbar port) 0x23 addr) ∧
    (∀ g, s.portGroup n s.me.job port = some g →
      (port = 0 → s.recoverable = true → ∃ addr, Faults s (.gbar port) 0x24 addr) ∧
      (port ≠ 0 ∨ s.recoverable = false → Drained s 3 →
        Waits s (.gbar port) (.gbar port false) ∧
        ∀ j p, s.me.job = some j → s.portsOf n j = some p → p.arrived.get port.toFin = p.completed.get port.toFin →
          (∀ i, i ∈ s.jobSlots n j → i ≠ s.curSlot → (s.slot n i).atPort port = true) →
          (∀ z, z ∈ s.savedSlots n j → z.run = .off ∨ z.run = .halted ∨ z.atPort port = true) →
          ∃ t q u, exec (.gbar port) s = .next t ∧ t.portsOf n j = some q ∧ u ∈ t.uses ∧
            q.arrived.get port.toFin = p.completed.get port.toFin + 1 ∧
            u.job = j ∧ u.group = g ∧ u.use = p.completed.get port.toFin + 1)) ∧
    (grid = false → ∀ i, i ∈ [Instr.rbar, .rstat d, .miradd a b, .mirdel a b] →
      ∀ w, encodeWord i = some w → Faults s i 0x01 (BitVec.ofNat 64 w)) ∧
    (grid = true → s.me.job = none → ∃ addr, Faults s .rbar 0x23 addr) ∧
    (grid = true → Result s (.rstat d) 4 d s.rstat) ∧
    (grid = true → ∀ j job, s.me.job = some j → s.job? j = some job →
      (s.portGroup n (some j) 0 = none → ∃ addr, Faults s .rbar 0x23 addr) ∧
      (∀ g, s.portGroup n (some j) 0 = some g →
        (∀ m, s.mirrorOf n j = some m → job.recov = true → m.allow < s.mirrorUse n job m.ranges →
          ∃ addr, Faults s .rbar 0x75 addr) ∧
        ((∀ m, s.mirrorOf n j = some m → job.recov = true → s.mirrorUse n job m.ranges ≤ m.allow) → Drained s 3 →
          (job.recov = false ∨ s.here.allDeposited job.part = true → Waits s .rbar (.gbar 0 true)) ∧
          (job.recov = true → s.here.allDeposited job.part = false → Waits s .rbar .deposits))) ∧
      (∀ m, s.mirrorOf n j = some m → m.ranges.length ≤ 16 →
        fieldOf s.rstat 21 0 = (if job.recov then s.mirrorUse n job m.ranges % 2 ^ 22 else 0) ∧
        fieldOf s.rstat 31 27 = m.ranges.length ∧ s.rstat.getLsbD 32 = m.reexec ∧ s.rstat.getLsbD 33 = m.unprot ∧
        s.rstat.getLsbD 34 = job.recording ∧ s.rstat.getLsbD 35 = job.replay ∧
        fieldOf s.rstat 47 40 = m.lcause.toNat ∧ fieldOf s.rstat 63 48 = m.nrec.toNat)) ∧
    (grid = true →
      let both := [Instr.miradd a b, .mirdel a b]
      let keeps := fun (i : Instr) =>
        ∃ t, exec i s = .next t ∧ Frame s t [] [] [] ∧ t.me.fp = s.me.fp ∧ Advances s t 4
      let size := s.shareSize n s.me.who
      (x.toNat % 64 ≠ 0 → ∀ i, i ∈ both → Faults s i 0x03 x) ∧
      (x.toNat % 64 = 0 → y.toNat % 64 ≠ 0 → ∀ i, i ∈ both → Faults s i 0x03 y) ∧
      (x.toNat % 64 = 0 → y = 0 → ∀ i, i ∈ both → keeps i) ∧
      (x.toNat % 64 = 0 → y.toNat % 64 = 0 → y ≠ 0 →
        (size < x.toNat + y.toNat → ∀ i, i ∈ both → Faults s i 0x14 (BitVec.ofNat 64 (max x.toNat size))) ∧
        (x.toNat + y.toNat ≤ size →
          (s.recoverable = false → ∀ i, i ∈ both → keeps i) ∧
          (∀ j job m, s.recoverable = true → s.me.job = some j → s.job? j = some job → s.mirrorOf n j = some m →
            let changed := fun (i : Instr) (rs : List (Nat × Nat)) (old : Mirror → Prop) =>
              ∃ t k, exec i s = .next t ∧ SameMemory s t ∧ SlotFrame s t [] [] [] ∧ t.me.fp = s.me.fp ∧ Advances s t 4 ∧
                t.mirrorOf n j = some k ∧ k.ranges = rs ∧ old k
            let more := addRange m.ranges x.toNat y.toNat
            let less := dropRange m.ranges x.toNat y.toNat
            (16 < more.length ∨ m.allow < s.mirrorUse n job more → Faults s (.miradd a b) 0x75 x) ∧
            (more.length ≤ 16 → s.mirrorUse n job more ≤ m.allow → changed (.miradd a b) more (fun k =>
              ∀ l, l ∈ rangeLines more → l ∉ rangeLines m.ranges → l ∈ k.dirty ∧ l ∈ k.prev)) ∧
            (16 < less.length → Faults s (.mirdel a b) 0x75 x) ∧
            (less.length ≤ 16 → changed (.mirdel a b) less (fun k => k.dirty = m.dirty)))))) ∧
    (∀ m u g, s.arg = .group m → s.groupUse m.job m.group m.use = some u → s.groupOfJob m.job m.group = some g →
      (s.canGather u g m.node = false → exec .groupArrivalMessage s = .next s) ∧
      (s.canGather u g m.node = true →
        ∃ t, exec .groupArrivalMessage s = .next t ∧ t.cores = s.cores ∧ t.mem = s.mem ∧
          (m.node ≠ g.mainTree.root → t.due = s.due ∧
            (t.groupUse m.job m.group m.use).map GroupUse.gathered = some (m.node :: u.gathered)) ∧
          (m.node = g.mainTree.root → (∀ job, s.job? m.job = some job → job.recov = false) →
            t.groupUse m.job m.group m.use = none ∧
            ∃ k, k.job = m.job ∧ k.group = m.group ∧ k.use = m.use ∧ k.node = m.node ∧
              t.due = s.due ++ [{ path := some (true, m.node, m.node), ev := { kind := .groupCompletionMessage, arg := .group k } }]) ∧
          (∀ job, m.node = g.mainTree.root → s.job? m.job = some job → job.recov = true →
            (s.portsOf m.node m.job).bind (fun p => p.portFor m.group) = some 0 →
            (t.groupUse m.job m.group m.use).map GroupUse.phase = some 1 ∧
            t.due = s.due ++ g.members.map (fun k =>
              { path := some (true, m.node, k), ev := { kind := .roundStream, arg := .coreJob k m.job } })))) ∧
    (∀ m g, s.arg = .group m → s.groupOfJob m.job m.group = some g →
      let done := fun (p : Ports) => p.completed.get m.port.toFin + 1
      ∃ t, exec .groupCompletionMessage s = .next t ∧ SameMemory s t ∧
        (∀ p, s.portsOf m.node m.job = some p → done p ≠ m.use → t.cores = s.cores) ∧
        (∀ p, s.portsOf m.node m.job = some p → done p = m.use →
          (∀ q, t.portsOf m.node m.job = some q → q.completed.get m.port.toFin = m.use ∧ m.use ≤ q.arrived.get m.port.toFin) ∧
          ∀ i, i ∈ s.jobSlots m.node m.job →
            (m.rbar = false → (s.slot m.node i).atPort m.port = true → Rejoins s t m.node i []) ∧
            (m.rbar = true → (t.slot m.node i).cnt.round = (s.slot m.node i).cnt.round + 1 ∧
              ((s.slot m.node i).atPort m.port = true → (t.slot m.node i).run = .waiting .rejoin))) ∧
        t.due = s.due ++ (g.mainTree.children g.members m.node).map (fun k =>
          { path := some (true, m.node, k),
            ev := { kind := .groupCompletionMessage, arg := .group { m with node := k, child := m.node } } })) ∧
    (∀ c j u, s.arg = .coreJob c j → s.commitUse j = some u →
      (∀ job m, u.phase = 1 → s.job? j = some job → s.mirrorOf c j = some m →
        ∃ t k, exec .roundStream s = .next t ∧ SameMemory s t ∧ (∀ e i, t.slot e i = s.slot e i) ∧ k ∈ t.copies ∧
          k.job = j ∧ k.core = c ∧ k.staging = true ∧ k.round = job.round + 1 ∧ k.ranges = m.ranges ∧
          ∀ g, s.groupOfJob j u.group = some g → t.due = s.due ++
            [{ path := some (true, c, g.mainTree.root), ev := { kind := .mirrorStreamComplete, arg := .coreJob c j } }]) ∧
      (∀ g, u.phase = 1 → s.groupOfJob j u.group = some g →
        ∃ t, exec .mirrorStreamComplete s = .next t ∧ t.cores = s.cores ∧ t.mem = s.mem ∧
          t.due = s.due ++ (if g.members.all (c :: u.acks).contains then
            [{ path := none, ev := { kind := .commitPoint, arg := .job j } }] else [])) ∧
      (∀ g m, u.phase = 2 → u.acks.contains c = false → s.groupOfJob j u.group = some g → s.mirrorOf c j = some m →
        ∃ t k, exec .roundCommit s = .next t ∧ SameMemory s t ∧ t.mirrorOf c j = some k ∧ k.log = [] ∧ k.dirty = [] ∧
          k.prev = m.dirty ∧ k.reexec = false ∧
          ((s.portsOf c j).map (fun p => p.completed.get 0 + 1) = some u.use →
            (∀ i, (s.slot c i).job = some j → (s.slot c i).run ≠ .halted →
              (t.slot c i).cnt.round = (s.slot c i).cnt.round + 1) ∧
            (∀ i, (s.slot c i).run = .halted → (t.slot c i).cnt.round = (s.slot c i).cnt.round) ∧
            ∀ i, i ∈ s.jobSlots c j → (s.slot c i).atPort 0 = true → (t.slot c i).run = .waiting .rejoin) ∧
          ∀ z, s.copies.find? (fun z => z.job == j && z.core == c && z.staging) = some z →
            { z with staging := false } ∈ t.copies)) ∧
    (∀ j u g job, s.arg = .job j → s.commitUse j = some u → s.groupOfJob j u.group = some g → s.job? j = some job →
      (u.phase ≠ 1 ∨ g.members.all u.acks.contains = false → exec .commitPoint s = .next s) ∧
      (u.phase = 1 → g.members.all u.acks.contains = true →
        ∃ t, exec .commitPoint s = .next t ∧ t.cores = s.cores ∧ t.mem = s.mem ∧
          (t.job? j).map Job.round = some (job.round + 1) ∧ (t.commitUse j).map GroupUse.phase = some 2 ∧
          t.due = s.due ++ g.members.map (fun m =>
            { path := some (true, g.mainTree.root, m), ev := { kind := .roundCommit, arg := .coreJob m j } })))

/-! ### Contexts, notices and recovery -/

/-- CSAVE and CREST: privileged; a valid descriptor's command is sent with RESULT all ones. The engine refuses a command
with a RESULT, waits for a commit on the core, or names its slots for capture; a captured slot is emptied, parked or stops, and a
SLOTHALT that waits for it is answered; the shared state is exchanged, or nothing is restored where something is uncorrectable;
slots are released, banks exchanged, a handover ends with its RESULT. A notice for a resident context is written, counted or
discarded; another one is kept, appended to the area being saved, or returned
(R347, R350, R351, R353, R354, R358, R360, R361, R363, R406). The layout of a save area beyond R355 is the model's reading (log 14),
and so is the order of the banks (log 44). -/
def Obligations.ContextsAreSavedAndNoticesWritten : Prop :=
  ∀ (s : State), Untraced s → Memory.wf s.mem = true →
    (∀ (a : BitVec 5) (save : Bool),
      let i := if save then Instr.csave a else .crest a
      let p := s.getG a
      (s.me.st.mode = .user → ∃ addr, Faults s i 0x02 addr) ∧
      (s.me.st.mode ≠ .user →
        (∀ e, s.selfRecord 64 0x0B p = .error e → Stops s i e) ∧
        (∀ x, s.selfRecord 64 0x0B p = .ok x →
          let c := s.switchCmd x p save
          let u := s.noteRecord 64 p
          (s.switchValid x c = false → FaultsAfter s u i 0x0B p) ∧
          (s.switchValid x c = true → c.cnten = true → s.ownsCounter c.counter.toNat = false →
            ∃ addr, FaultsAfter s u i 0x21 addr) ∧
          (s.switchValid x c = true → c.cnten = false ∨ s.ownsCounter c.counter.toNat = true → s.me.run = .running →
            s.name s.acc c.target (BitVec.ofNat 64 c.target) = .ok () →
            ∃ t, exec i s = .next t ∧ SlotFrame s t [] [] [] ∧ t.me.fp = s.me.fp ∧ Advances s t 4 ∧
              StoredAt s t (s.sharePhys s.curCore s.me.who (p.toNat + 56)) 8 (2 ^ 64 - 1) ∧
              t.due = s.due ++ [{ path := some (false, s.curCore, c.target),
                                  ev := { kind := .handoverCommand, arg := .handover c } }])))) ∧
    (∀ (c : HandoverCmd) (r : Nat),
      let at_ := s.sharePhys c.core (some c.part) (c.desc.toNat + 56)
      Sound s at_ 8 → StoredAt s (s.switchResult c r) at_ 8 r ∧
        (c.cnten = true → (s.switchResult c r).counter c.core c.counter = s.counter c.core c.counter + 1)) ∧
    (∀ c, s.arg = .handover c →
      let n := c.target
      let held := s.heldSlots c
      let answers := fun (r : Nat) => exec .handoverCommand s = .next (s.switchResult c r)
      let bad := (s.core n).handovers.any (fun h => h.cmd.part == c.part) = true ∨ s.underRecovery n = true ∨
        (c.save = true ∧ s.resident n c.part c.ctxOut = false) ∨ (c.save = false ∧ held ≠ [])
      let areas := (c.save = true → s.areaOk n c.part c.outArea.toNat = true) ∧
        (c.inArea ≠ 0 → s.areaOk n c.part c.inArea.toNat = true)
      (bad → answers 2) ∧ (¬bad → ¬areas → answers 1) ∧
      (¬bad → areas → c.inArea ≠ 0 → s.restorable c = false → answers 3) ∧
      (¬bad → areas → (c.inArea ≠ 0 → s.restorable c = true) → s.committing n = true →
        exec .handoverCommand s = .next (s.send none .handoverCommand (.handover c))) ∧
      (¬bad → areas → (c.inArea ≠ 0 → s.restorable c = true) → s.committing n = false →
        ∃ t h, exec .handoverCommand s = .next t ∧ h ∈ (t.core n).handovers ∧ h.cmd = c ∧ h.toCapture = held ∧
          h.started = false ∧ h.result = 0 ∧ (∀ i, i ∈ held → (t.slot n i).capture = true) ∧
          (c.save = true → lookupNat (areaKey c.ctxOut n) (t.vf c.part).areas = some c.outArea))) ∧
    (∀ n i, s.arg = .slot n i →
      let sl := s.slot n i
      (s.captureReady n i = false → exec .slotCapture s = .next s) ∧
      (s.captureReady n i = true → sl.bench = none → sl.run = .running → (s.core n).buffer = [] →
        (∀ l, l ∈ (s.chip (s.chipOf n)).cache → l.owner = some n → l.dirty = 0) →
        (∀ h, (s.core n).handovers.find? (fun h => h.toCapture.contains i) = some h →
          ∃ t, exec .slotCapture s = .next t ∧ t.slot n i =
            { Slot.reset with st := { Slot.reset.st with partition := sl.st.partition, slotNo := sl.st.slotNo } }) ∧
        ((∀ h, h ∈ (s.core n).handovers → h.toCapture.contains i = false) →
          (∀ j job, sl.job = some j → s.job? j = some job → job.parked = true → job.phase = .running →
            ∃ t, exec .slotCapture s = .next t ∧ SameMemory s t ∧
              (s.haltNamed n i = false → t.slot n i = { sl with capture := false, parked := true, phint := none }) ∧
              (s.haltNamed n i = true →
                t.slot n i = { sl with capture := false, parked := true, phint := none, run := .waiting .stopping }) ∧
              ∀ m k, (s.slot m k).run = .waiting (.slotAnswer n i true) → Rejoins s t m k []) ∧
          ((∀ j job, sl.job = some j → s.job? j = some job → job.parked = false) →
            ∃ t, exec .slotCapture s = .next t ∧ SameMemory s t ∧
              t.slot n i = { sl with capture := false, parked := false, phint := none, run := .waiting .stopping } ∧
              ∀ m k, (s.slot m k).run = .waiting (.slotAnswer n i true) → Rejoins s t m k [])))) ∧
    (∀ n h, s.arg = .core n → (s.core n).handovers = [h] → h.done = false →
      let part := h.cmd.part
      let share := s.shareBanks n (some part)
      let leaves := fun (more : State → Handover → Prop) =>
        ∃ t k, exec .bankExchange s = .next t ∧ k ∈ (t.core n).handovers ∧ k.cmd = h.cmd ∧ k.started = true ∧ more t k
      let area := h.cmd.inArea.toNat
      (h.started = false → s.sharedReady n h = false → exec .bankExchange s = .next s) ∧
      (h.started = false → s.sharedReady n h = true → s.exchangeBad n h.cmd = false → leaves (fun _ k =>
        k.banks = List.range share.length ∧ k.result = h.result ∧
          k.toRelease = if h.cmd.inArea = 0 then h.toRelease else maskSlots (s.areaHeader n part area).slots)) ∧
      (h.started = false → s.sharedReady n h = true → s.exchangeBad n h.cmd = true → leaves (fun t k =>
        k.result = 5 ∧ SameMemory s t ∧ ∀ m i, t.slot m i = s.slot m i)) ∧
      (h.started = true → h.noticed = true → h.notices = [] →
        (∀ i rest x kept, h.toRelease = i :: rest → s.incoming h.cmd = some x → x.ended = [] →
          x.slots.find? (fun e => e.1 == i) = some (i, kept) →
          let bs := s.areaRead n part (area + 0x1000 + 0x800 * i.val) 0x800
          leaves (fun t k => k.toRelease = rest.filter (· != i) ∧ SameMemory s t ∧ (t.slot n i).run = kept.run ∧
            (t.slot n i).pc = recordDword bs 0x540 ∧ (t.slot n i).job = kept.job ∧
            (∀ r, r ≠ 0 → (t.slot n i).getG r = recordDword bs (8 * r.toNat)) ∧
            ∀ r, (t.slot n i).getV r = BitVec.ofNat 512 (ofBytes ((bs.drop (0x100 + 64 * r.toNat)).take 64)))) ∧
        (∀ k, h.toRelease = [] → (s.wantedBank n h).orElse (fun _ => h.banks.head?) = some k →
          leaves (fun t x => x.banks = h.banks.filter (· != k) ∧ (h.cmd.save = false → h.cmd.inArea ≠ 0 →
            Memory.bytes t.mem (localBase + n * 2 ^ 21 + share.getD k 0 * 2 ^ 17) 0x20000 =
              s.areaRead n part (area + 0x18000 + 0x20000 * k) 0x20000))))) ∧
    (∀ n h, s.arg = .core n → (s.core n).handovers.find? Handover.done = some h →
      ∃ t : State, exec .handoverComplete s = .next (t.switchResult h.cmd h.result) ∧
        ∀ k, k ∈ (t.core n).handovers → k.cmd.part ≠ h.cmd.part) ∧
    (∀ x, s.arg = .notice x →
      let r := s.row x.core x.part
      let writes := fun (i : Instr) =>
        (r.fnEn = true →
          let at_ := s.sharePhys x.core (some x.part)
            (r.fnBase.toNat + 8 * (r.fnHead.toNat % 2 ^ (4 + r.fnSizelog.toNat)))
          Sound s at_ 8 → ∃ t, exec i s = .next t ∧ StoredAt s t at_ 8 (x.tag.toNat + x.status.toNat * 2 ^ 16) ∧
            (t.row x.core x.part).fnHead = r.fnHead + 1 ∧
            t.counter x.core r.fnCounter = s.counter x.core r.fnCounter + 1) ∧
        (r.fnEn = false → ∃ t e, exec i s = .next t ∧ t.mem = s.mem ∧ t.cores = s.cores ∧ t.errlog = s.errlog ++ [e])
      let returns := ∃ t, exec .completionNoticeArrival s = .next t ∧ t.mem = s.mem ∧ t.cores = s.cores ∧
        t.due = s.due ++ [{ path := none, ev := { kind := .noticeReturn, arg := .notice x } }]
      let appends := fun (i : Instr) (area : Nat) =>
        let h := s.areaHeader x.core x.part area
        let entry := x.tag.toNat + x.status.toNat * 2 ^ 16 + x.context.toNat * 2 ^ 24 + x.part.toNat * 2 ^ 40
        (h.npend < 1024 → exec i s =
          .next ((s.areaWrite x.core x.part (area + 0x15000 + 8 * h.npend) (bytesOf 8 entry)).areaWrite x.core x.part
            area { h with npend := h.npend + 1 }.bytes)) ∧
        (1024 ≤ h.npend → (s.vf x.part).spill.length < 4096 →
          ∃ t, exec i s = .next t ∧ (t.vf x.part).spill = (s.vf x.part).spill ++ [(h.core, BitVec.ofNat 64 entry)])
      let handover := (s.core x.core).handovers.find? (fun h => h.cmd.part == x.part)
      (handover = none →
        (s.resident x.core x.part x.context = true → writes .completionNoticeArrival) ∧
        (s.resident x.core x.part x.context = false → returns)) ∧
      (∀ h, handover = some h →
        let coming := h.cmd.ctxIn = x.context ∧ h.cmd.inArea ≠ 0 ∧ h.result = 0
        let leaving := h.cmd.ctxOut = x.context ∧ h.cmd.save = true
        let here := s.resident x.core x.part x.context = true
        let open_ := h.noticed = true ∧ h.notices = [] ∧ s.ringReady x.core h = true
        (¬coming → ¬leaving → ¬here → returns) ∧
        (¬coming → leaving → h.started = true → appends .completionNoticeArrival h.cmd.outArea.toNat) ∧
        (¬coming → leaving ∨ here → h.started = false → writes .completionNoticeArrival) ∧
        (coming ∨ (¬leaving ∧ here ∧ h.started = true) →
          (open_ → writes .completionNoticeArrival) ∧
          (¬open_ → ∃ t k, exec .completionNoticeArrival s = .next t ∧ t.mem = s.mem ∧ k ∈ (t.core x.core).handovers ∧
            k.cmd = h.cmd ∧ k.notices = h.notices ++ [x]))) ∧
      let key := areaKey x.context x.core
      (lookupNat key (s.vf x.part).areas = none →
        ∃ t e, exec .noticeReturn s = .next t ∧ t.mem = s.mem ∧ t.cores = s.cores ∧ t.errlog = s.errlog ++ [e]) ∧
      (∀ area, lookupNat key (s.vf x.part).areas = some area → appends .noticeReturn area.toNat)) ∧
    (∀ n p v, s.arg = .corePartVal n p v →
      ∃ t, exec .fncfgWrite s = .next t ∧ t.mem = s.mem ∧ (∀ m i, t.slot m i = s.slot m i) ∧
        (let r := t.row n p
         r.fnHead = 0 ∧ r.fnCounter = bitsOf v.toNat 27 5 ∧ r.fnSizelog = bitsOf v.toNat 22 4 ∧ r.fnEn = v.getLsbD 21 ∧
         r.fnBase = bitsOf v.toNat 0 21 ∧ r.ovfslot = (s.row n p).ovfslot ∧ r.ovfvec = (s.row n p).ovfvec))

/-- A loss isolates its cores and begins a recovery; three attempts at re-power, then the loss is permanent and its jobs
end with 0x70; a job being loaded on a lost core fails; self-test, restore, resynchronisation and release follow, each when its condition holds; a core that fails
in service is lost. A restored core has the slots (those lost in a bench with cause 4), the counters and the bytes of its committed copy, its mirror sets REEXEC
and counts the recovery, its channel records to receivers outside the lost part and those of other cores with messages logged
for it are resynchronised; it answers again, and its slots go on at the release (R374 to R379, R383). When a
recovery may restore and release, and what it keeps, is the model's reading where the rules do not say (log 34). -/
def Obligations.LossesAreRecovered : Prop :=
  ∀ (s : State),
    (∀ (r : Recovery) (j : Nat) (job : Job), j ∈ r.jobs → s.job? j = some job → job.phase = .running →
      (s.permanent r).recoveries = s.recoveries.erase r ∧
      ((s.permanent r).job? j).map Job.phase = some (.ending 6 0x70)) ∧
    (∀ n, s.arg = .core n →
      (s.isGrid n = true → (s.core n).isolated = false →
        ∃ t, exec .containmentEvent s = .next t ∧ t.mem = s.mem ∧ t.cores = s.cores ∧
          t.losses = s.losses ++ [(.core n, s.ptime)] ∧
          t.due = s.due ++ [{ path := none, ev := { kind := .recoveryBegin, arg := .loss (.core n) } }]) ∧
      (s.isGrid n = false ∨ (s.core n).isolated = true → exec .containmentEvent s = .next s)) ∧
    (∀ l, s.arg = .loss l →
      (let cores := (s.lostCores l).filter (fun n => !(s.core n).isolated || s.awaits n)
       ∃ t r, exec .recoveryBegin s = .next t ∧ r ∈ t.recoveries ∧ r.loss = l ∧ r.cores = cores ∧ r.jobs = s.jobsOn cores ∧
         r.attempts = 0 ∧ r.up = false ∧ r.tested = false ∧ r.restored = false ∧
         (∀ n i, n ∈ cores → (s.slot n i).bench.isSome = true → (n, i) ∈ r.benched) ∧
         (∀ j job, s.job? j = some job → job.phase = .loading → (s.jobCores job).any cores.contains = true →
           (t.job? j).map Job.phase = some (.ending 4 0)) ∧
         ∀ n, n ∈ cores → (t.core n).isolated = true ∧ (t.core n).near = [] ∧ (t.core n).buffer = [] ∧
           ∀ i, (t.slot n i).run ≠ .running) ∧
      (∀ r, s.recoveryOf l = some r →
        (∃ t k, exec .powerGood s = .next t ∧ t.mem = s.mem ∧ t.cores = s.cores ∧ t.recoveryOf l = some k ∧ k.up = true ∧
          ∀ z, l = .zone z → (t.zone z).tripped = false) ∧
        (s.restoreReady r = false → exec .recoveryRestore s = .next s) ∧
        (s.restoreReady r = true →
          ∃ t k, exec .recoveryRestore s = .next t ∧ t.recoveryOf l = some k ∧ k.restored = true ∧
            (∀ n, n ∈ r.cores → (t.core n).isolated = false ∧ ∀ idx, idx ∈ t.outward r n → (t.chan n idx).resync = true) ∧
            (∀ n idx, n ∉ r.cores → idx ∈ s.logged n r.cores → (t.chan n idx).resync = true) ∧
            ∀ n j job c, r.cores = [n] → r.jobs = [j] → s.job? j = some job → s.recovers j = true →
              (∃ i, (s.slot n i).job = some j) → s.copyFor n j = some c → Memory.wf s.mem = true →
              (∀ i sl, c.slots.filter (fun e => e.1 == i) = [(i, sl)] → s.haltNamed n i = false →
                let x := sl.revived (s.core n).t job.parked
                t.slot n i = if (n, i) ∈ r.benched then { x with st := { x.st with bend := 4, brole := 0 } } else x) ∧
              (∀ k v, lookupNat k.val c.counters = some v → (t.core n).c.get k = v) ∧
              (∀ m, s.mirrorOf n j = some m → t.mirrorOf n j = some (m.restored c.ranges (lossCause l))) ∧
              (c.full = [] → (c.cells.map Prod.fst).Nodup → ∀ x, x ∈ c.cells → Memory.get t.mem x.1 = x.2)) ∧
        (s.releaseReady r = false → exec .recoveryRelease s = .next s) ∧
        (s.releaseReady r = true →
          ∃ t, exec .recoveryRelease s = .next t ∧ t.recoveries = s.recoveries.erase r ∧
            ∀ n i, n ∈ r.cores → (s.slot n i).run = .waiting .restoring →
              t.slot n i = { s.slot n i with run := .running }))) ∧
    (∀ l ok r, s.arg = .lossFlag l ok → s.recoveryOf l = some r →
      let due := r.up = false ∧ r.attempts < 3 ∧ r.t0 + attemptTime r.attempts ≤ s.ptime ∧ ∃ z, l = .zone z
      (¬due → exec .repowerAttempt s = .next s) ∧
      (due → ok = true →
        ∃ t k, exec .repowerAttempt s = .next t ∧ t.cores = s.cores ∧ t.recoveryOf l = some k ∧ k.attempts = 3 ∧
          t.due = s.due ++ [{ path := none, ev := { kind := .powerGood, arg := .loss l } }]) ∧
      (due → ok = false → r.attempts = 2 → exec .repowerAttempt s = .next (s.permanent r)) ∧
      (due → ok = false → r.attempts ≠ 2 →
        ∃ t k, exec .repowerAttempt s = .next t ∧ t.cores = s.cores ∧ t.recoveryOf l = some k ∧
          k.attempts = r.attempts + 1)) ∧
    (∀ h r, s.arg = .chip h → s.recoveryOf (.chiplet h) = some r →
      (r.up = false ∧ r.t0 + 10000000000 ≤ s.ptime → exec .thermalRepowerDeadline s = .next (s.permanent r)) ∧
      (r.up = true ∨ s.ptime < r.t0 + 10000000000 → exec .thermalRepowerDeadline s = .next s)) ∧
    (∀ l failed r, s.arg = .lossFailed l failed → s.recoveryOf l = some r →
      let isCore := ∃ n, l = .core n
      (r.tested = true ∨ (r.up = false ∧ ¬isCore) → exec .selfTestComplete s = .next s) ∧
      (r.tested = false → r.up = true → ¬isCore → failed = [] →
        ∃ t k, exec .selfTestComplete s = .next t ∧ t.mem = s.mem ∧ t.cores = s.cores ∧ t.retired = s.retired ∧
          t.recoveryOf l = some k ∧ k.tested = true) ∧
      (∀ n, l = .core n → r.tested = false →
        ∃ t x, exec .selfTestComplete s = .next t ∧ x ∈ t.retired ∧ x.cause = 2 ∧ x.kind = 4 ∧
          x.die = BitVec.ofNat 16 (s.chipOf n) ∧ x.live = true)) ∧
    (∀ n idx, s.arg = .channel n idx →
      let c := s.chan n idx
      let mine := fun (j : Nat) => (((s.mirrorOf n j).map Mirror.log).getD []).filter (fun r => r.idx == idx)
      (c.resync = false → exec .resendLogRewind s = .next s) ∧
      (c.resync = true → c.answer = none → s.resendFits n idx = false → exec .resendLogRewind s = .next s) ∧
      (∀ m rest, c.resync = true → c.answer = none → s.resendFits n idx = true → c.resend = m :: rest →
        ∃ t, exec .resendLogRewind s = .next t ∧ (t.chan n idx).resend = rest ∧ (t.chan n idx).resync = (rest != [])) ∧
      (∀ h tail tt, c.resync = true → c.answer = some (h, tail, tt) →
        (s.underRestore n = true →
          ∃ t, exec .resendLogRewind s = .next t ∧ t.mem = s.mem ∧ (t.chan n idx).resync = false ∧
            (t.chan n idx).answer = none ∧
            (c.seq = tt → (t.chan n idx).c = tail ∧ (t.chan n idx).catching = none) ∧
            (c.seq ≠ tt → (t.chan n idx).c = c.c ∧ (t.chan n idx).catching = some (tt, tail))) ∧
        (∀ j, s.underRestore n = false → s.loggingJob n idx = some j →
          ∃ t, exec .resendLogRewind s = .next t ∧ (t.chan n idx).c = tail ∧ (t.chan n idx).answer = none ∧
            (t.chan n idx).resend = (mine j).map LogRec.msg ∧
            (∀ r more, mine j = r :: more → (t.chan n idx).seq = r.msg.seq)) ∧
        (s.underRestore n = false → s.loggingJob n idx = none →
          ∃ t, exec .resendLogRewind s = .next t ∧ t.mem = s.mem ∧ (t.chan n idx).resync = false)) ∧
      (c.retryDue s.ptime = false → exec .resyncRetry s = .next s) ∧
      (c.retryDue s.ptime = true → ∃ t, exec .resyncRetry s = .next t ∧ t.mem = s.mem ∧ (t.chan n idx).resync = true ∧
        (t.chan n idx).answer = none ∧ (t.chan n idx).lastReturn = s.ptime))

/-! ### Power -/

/-- PHINT sets the slot's contribution; PCAPW and SHEDW are of management mode and set a cap and the shed level, whose
jobs are shed or go on. A job past its deadline is parked in place; an idle core stops its clock; a budget tick writes
every core's duty as the tree of grants gives it, and the cores of a bench take the least; a store to a power register takes its fields (R31, R399, R400, R402 to R407, R409). From when a shed
deadline runs is the model's reading (log 41). -/
def Obligations.PowerIsCappedAndShed : Prop :=
  ∀ (s : State) (h : BitVec 5) (a : BitVec 5),
    let x := s.getG a
    let keeps := fun (t : State) =>
      SameMemory s t ∧ (∀ r, t.getG r = s.getG r) ∧ (∀ r, t.getV r = s.getV r) ∧ (∀ r, t.getK r = s.getK r) ∧
        t.me.st = s.me.st ∧ t.me.fp = s.me.fp ∧ t.me.vec = s.me.vec ∧ Advances s t 4
    (5 ≤ h.toNat → h.toNat ≤ 30 → ∀ w, encodeWord (.phint h) = some w → Faults s (.phint h) 0x01 (BitVec.ofNat 64 w)) ∧
    (h.toNat < 5 ∨ h = 31 →
      ∃ t, exec (.phint h) s = .next t ∧ OnlyMe s t ∧ keeps t ∧
        t.me.phint = (if s.isGrid s.curCore then (if h = 31 then none else some h) else s.me.phint)) ∧
    (s.me.st.mode ≠ .management → ∀ i, i ∈ [Instr.pcapw a, .shedw a] → ∃ addr, Faults s i 0x02 addr) ∧
    (s.me.st.mode = .management →
      (2 ^ 17 ≤ x.toNat → Faults s (.pcapw a) 0x0B x) ∧
      (x.toNat < 2 ^ 17 →
        let v := min 36000 (x.toNat % 2 ^ 16)
        ∃ t, exec (.pcapw a) s = .next t ∧ keeps t ∧
          t.power = (if x.getLsbD 16 then { s.power with fallback := v } else { s.power with pcap := v })) ∧
      (8 < x.toNat → Faults s (.shedw a) 0x0B x) ∧
      (x.toNat ≤ 8 →
        ∃ t, exec (.shedw a) s = .next t ∧ keeps t ∧ t.power = { s.power with shedlvl := x.toNat } ∧
          ∀ j job, s.job? j = some job → job.phase = .running →
            (t.job? j).map Job.shed = some (decide (x.toNat ≤ job.prio.toNat)))) ∧
    (∀ j job, s.arg = .job j → s.job? j = some job →
      let due := job.phase = .running ∧ job.shed = true ∧ job.parked = false ∧
        (s.commitUse j).isNone = true ∧ job.shedAt + s.power.sheddl.toNat * 1000 ≤ s.ptime
      (¬due → exec .shedDeadlineExpiry s = .next s) ∧
      (due → ∃ t, exec .shedDeadlineExpiry s = .next t ∧ (t.job? j).map Job.parked = some true ∧
        ∀ n i, (s.slot n i).job = some j → (s.slot n i).run ≠ .off → (s.slot n i).run ≠ .halted →
          t.slot n i = { s.slot n i with capture := true })) ∧
    (∀ n, s.arg = .core n →
      (s.isGrid n = true ∧ (s.core n).retainable = true →
        ∃ t, exec .coreRetention s = .next t ∧ t.mem = s.mem ∧ t.core n = { s.core n with asleep := true }) ∧
      (s.isGrid n = false ∨ (s.core n).retainable = false → exec .coreRetention s = .next s)) ∧
    (let standing := s.cores.flatMap (fun e => e.2.slots.toList.filterMap (fun sl =>
       sl.bench.filter (fun b => b.leader == e.1)))
     ∃ t pf, exec .budgetTick s = .next t ∧ t.mem = s.mem ∧ (∀ n i, t.slot n i = s.slot n i) ∧
       t.power = { s.power with pfixed := pf, nextTick := s.power.nextTick + 10000 } ∧
       let b := ({ s with power := t.power }).budget
       (∀ n d, (n, d) ∈ b → s.isGrid n = true →
         (standing = [] → (t.core n).fduty = BitVec.ofNat 5 d) ∧
         (∀ x, standing = [x] → (n ∉ benchCores x → (t.core n).fduty = BitVec.ofNat 5 d) ∧
           (n ∈ benchCores x → (t.core n).fduty.toNat ≤ d ∧
             ∀ m, m ∈ benchCores x → (t.core m).fduty = (t.core n).fduty))) ∧
       (standing = [] → ∀ n, (n ∈ s.cores.map Prod.fst → s.isGrid n = false → (t.core n).fduty = 16) ∧
         (s.isGrid n = true → n ∉ b.map Prod.fst → (t.core n).fduty = (s.core n).fduty))) ∧
    (∀ gz wz gh wh w pc : Nat,
      (wz ≤ gz → dutyOf gz wz gh wh w pc false = 16) ∧
      (gz < wz → dutyOf gz wz gh wh w pc false = min 16 (max 1 (16 * (gh * w / wh) / pc))) ∧
      dutyOf gz wz gh wh w pc true = min (dutyOf gz wz gh wh w pc false) 4) ∧
    (∀ w o, s.arg = .regWrite w → w.source < 0x10000 → w.bytes = 8 → o % 8 = 0 →
      (w.addr.toNat = pwrBase + o → o < 0x200 →
        ∃ t, exec .registerWrite s = .next t ∧ t.mem = s.mem ∧ t.cores = s.cores ∧ t.senses = s.senses ∧
          (o = 0x30 → t.power = { s.power with curveen := w.val.getLsbD 0 }) ∧
          (o = 0x38 → t.power = { s.power with nomfreq := w.val.setWidth 32 }) ∧
          (o = 0x50 → t.power = { s.power with vfrac := BitVec.ofNat 17 (min 65536 (w.val.toNat % 2 ^ 17)) }) ∧
          (o = 0x60 → t.power = (if w.val.toNat % 2 ^ 16 = 0 then s.power
            else { s.power with sheddl := w.val.setWidth 16 })) ∧
          (o = 0x68 → t.power = { s.power with zcap := w.val.setWidth 16 }) ∧
          (o = 0x70 → t.power = { s.power with tcrit := w.val.setWidth 8 }) ∧
          (o ∈ [0x00, 0x08, 0x10, 0x18, 0x20, 0x28, 0x58, 0x90, 0x98, 0xA0, 0xB0] → t.power = s.power)) ∧
      (∀ k, k < 800 → w.addr.toNat = pwrBase + 0x200 + 32 * k + 8 →
        ∃ t, exec .registerWrite s = .next t ∧ t.mem = s.mem ∧ t.power = s.power ∧
          (t.sense k).rbase = bitsOf w.val.toNat 32 32))

/-- A telemetry frame is accepted by its synchronisation, CRC and sequence, or discarded; two milliseconds without one set
LOST; a root's port echoes the last accepted sequence number every 50 µs. A step of 50 A or more updates REFF; a drop beyond 40 mV that REFF does not explain, and RISE held for a second,
raise connection degradation. A zone trips, a phase fails, a chiplet is clamped, parked, shut down and started again as the
temperature read and the thresholds say (R390 to R395, R411). The voltages are free (log 18); which estimate judges a drop is the model's reading (log 41). -/
def Obligations.SupplyAndHeatAreWatched : Prop :=
  ∀ (s : State), Untraced s →
    (∀ root f, s.arg = .shelfFrame root f →
      let p := s.power
      let d := (frameSeq f - p.lastseq).toNat
      let good := frameSync f = 0x7E51 ∧ frameCrc f = crc16 (bytesOf 14 (f.toNat % 2 ^ 112)) ∧
        (p.accepted = true → 1 ≤ d ∧ d ≤ 32767)
      (¬good → exec .telemetryFrame s = .next s) ∧
      (good → ∃ t, exec .telemetryFrame s = .next t ∧ SameMemory s t ∧
        t.power.lastframe = f ∧ t.power.lastseq = frameSeq f ∧ t.power.lost = false ∧ t.power.accepted = true ∧
        t.power.lastAt = s.ptime ∧
        t.power.gaps = BitVec.ofNat 16 (min 65535 (p.gaps.toNat + (if p.accepted then d - 1 else 0))) ∧
        (ascending p.points = false → t.power.curvecap = 36000 ∧ t.power.curveerr = true) ∧
        t.power.pcap = p.pcap ∧ t.power.fallback = p.fallback ∧
        (p.fnote.getLsbD 8 = true →
          let k := 0xF300 + p.fnote.toNat % 8
          let c : BitVec 5 := bitsOf p.fnote.toNat 3 5
          t.counter k c = s.counter k c + 1) ∧
        (p.fnote.getLsbD 8 = false → t.cores = s.cores) ∧
        (frameStatus f < 4 → t.errlog = s.errlog))) ∧
    (s.power.lost = true ∨ s.ptime < s.power.lastAt + 2000000 → exec .frameLossTimeout s = .next s) ∧
    (s.power.lost = false → s.power.lastAt + 2000000 ≤ s.ptime →
      ∃ t, exec .frameLossTimeout s = .next t ∧ t.cores = s.cores ∧ t.mem = s.mem ∧ t.power = { s.power with lost := true }) ∧
    (∀ r, s.arg = .root r →
      let at_ := s.power.echoAt.get r.toFin
      (s.ptime < at_ → exec .telemetryEcho s = .next s) ∧
      (at_ ≤ s.ptime → ∃ t, exec .telemetryEcho s = .next t ∧ t.cores = s.cores ∧ t.mem = s.mem ∧
        t.power = { s.power with
          echo := s.power.echo.set r.toFin s.power.lastseq, echoAt := s.power.echoAt.set r.toFin (at_ + 50000) })) ∧
    (∀ z pt dv di, s.arg = .sample z pt dv di →
      let k := 16 * z + pt.toNat
      let old := s.sense k
      let e : Int := (dv : Int) * 100000 - (old.reff.toNat : Int) * di
      (di < 50 ∨ 50 ≤ z → exec .currentStepSample s = .next s) ∧
      (50 ≤ di → z < 50 →
        ∃ t, exec .currentStepSample s = .next t ∧
          (t.sense k).reff = BitVec.ofInt 32
            ((old.reff.toNat : Int) + (((dv * 100000 / di : Nat) : Int) - (old.reff.toNat : Int)) / 16) ∧
          (t.sense k).stepx = BitVec.ofNat 16 (max old.stepx.toNat (min 65535 (e / 100000).toNat)) ∧
          (t.sense k).degr = (old.degr || decide (4000000 < e)) ∧ (t.sense k).rbase = old.rbase ∧
          (e ≤ 4000000 → t.errlog = s.errlog ∧ t.cores = s.cores))) ∧
    (∀ z pt dv, s.arg = .drop z pt dv →
      let k := 16 * z + pt.toNat
      (50 ≤ z → exec .unexplainedStepDrop s = .next s) ∧
      (z < 50 → ∃ t, exec .unexplainedStepDrop s = .next t ∧ (t.sense k).reff = (s.sense k).reff ∧
        (t.sense k).degr = ((s.sense k).degr || decide (40 < dv)))) ∧
    (∀ z pt, s.arg = .point z pt →
      let k := 16 * z + pt.toNat
      let x := s.sense k
      (x.riseSince = none → exec .riseHeld s = .next s) ∧
      (∀ since, x.riseSince = some since →
        (s.ptime < since + 1000000000 → exec .riseHeld s = .next s) ∧
        (since + 1000000000 ≤ s.ptime → ∃ t, exec .riseHeld s = .next t ∧ (t.sense k).degr = true ∧ SameMemory s t)) ∧
      (∃ t, exec .senseClr s = .next t ∧ t.cores = s.cores ∧ t.sense k = { x with minv := 0xFFFF, mintime := 0 }) ∧
      (∃ t, exec .degrClear s = .next t ∧ t.cores = s.cores ∧ t.sense k = { x with degr := false })) ∧
    (∀ z, s.arg = .zone z →
      let trips := fun (t : State) =>
        (t.zone z).tripped = true ∧ t.cores = s.cores ∧ t.mem = s.mem ∧
          ((s.zone z).tripped = false → t.losses = s.losses ++ [(.zone z, s.ptime)] ∧
            t.due = s.due ++ [{ path := none, ev := { kind := .recoveryBegin, arg := .loss (.zone z) } }])
      (z < 50 → ∃ t, exec .zoneTrip s = .next t ∧ trips t) ∧
      (50 ≤ z → exec .zoneTrip s = .next s ∧ exec .phaseFailure s = .next s) ∧
      (z < 50 → (s.zone z).failed = 0 →
        ∃ t, exec .phaseFailure s = .next t ∧ (t.zone z).failed = 1 ∧ (t.zone z).tripped = (s.zone z).tripped ∧
          t.zoneCap z = s.power.zcap.toNat * 875 ∧ t.losses = s.losses) ∧
      (z < 50 → (s.zone z).failed ≠ 0 → ∃ t, exec .phaseFailure s = .next t ∧ trips t)) ∧
    (∀ h, s.arg = .chip h →
      let c := s.chip h
      let at_ := fun (k : Int) => ∃ x, c.temp = some x ∧ k ≤ x
      let clampAt : Int := s.power.tcrit.toNat
      let parks := c.clamped = true ∧ (at_ (clampAt + 5) ∨ ∃ t0, c.hotSince = some t0 ∧ t0 + 100000000 ≤ s.ptime)
      let lifts := c.clamped = true ∧ ∃ t0, c.coolSince = some t0 ∧ t0 + 10000000 ≤ s.ptime
      let shuts := c.off = false ∧ at_ s.power.tshut.toNat
      let restarts := c.off = true ∧ ∃ x, c.temp = some x ∧ x < s.power.trestart.toNat
      (at_ clampAt → ∃ t, exec .thermalClamp s = .next t ∧ t.mem = s.mem ∧ t.cores = s.cores ∧
        t.chip h = { c with clamped := true }) ∧
      (¬at_ clampAt → exec .thermalClamp s = .next s) ∧
      (¬parks → exec .thermalPark s = .next s) ∧
      (parks → ∃ t, exec .thermalPark s = .next t ∧
        ∀ j, j ∈ s.jobsOnChip h → ∃ job, t.job? j = some job ∧ job.parked = true ∧ h ∈ job.heat) ∧
      (¬lifts → exec .clampLift s = .next s) ∧
      (lifts → ∃ t, exec .clampLift s = .next t ∧ t.mem = s.mem ∧ (t.chip h).clamped = false ∧
        ∀ j job, s.job? j = some job → job.heat = [h] → job.shed = false →
          (t.job? j).map Job.heat = some [] ∧
          ∀ n i, (s.slot n i).job = some j → (t.slot n i).parked = false ∧ (t.core n).asleep = false) ∧
      (¬shuts → exec .thermalShutdown s = .next s) ∧
      (shuts → ∃ t, exec .thermalShutdown s = .next t ∧ t.cores = s.cores ∧ (t.chip h).off = true ∧
        t.losses = s.losses ++ [(.chiplet h, s.ptime)] ∧
        t.due = s.due ++ [{ path := none, ev := { kind := .recoveryBegin, arg := .loss (.chiplet h) } }]) ∧
      (¬restarts → exec .thermalRestart s = .next s) ∧
      (restarts → ∃ t, exec .thermalRestart s = .next t ∧ t.cores = s.cores ∧ (t.chip h).off = false ∧
        t.due = s.due ++ [{ path := none, ev := { kind := .powerGood, arg := .loss (.chiplet h) } }])) ∧
    (∀ h x, s.arg = .chipTemp h x →
      (x < (s.power.tcrit.toNat : Int) → exec .thermalClamp s = .next (s.noteTemp h x)) ∧
      ((s.power.tcrit.toNat : Int) ≤ x → ∃ t, exec .thermalClamp s = .next t ∧ t.cores = s.cores ∧
        (t.chip h).clamped = true ∧ (t.chip h).temp = some x ∧
        (t.chip h).hotSince = some ((s.chip h).hotSince.getD s.ptime) ∧ (t.chip h).coolSince = none))

/-! ### Work queues and jobs -/

/-- Work queues: a queue is owned by a function that serves its partition, enabled with its counts zero, and submitted to; at most
four records are read at a time; a record is refused by its check byte, or makes a job; the dispatcher completes a mismatch, or launches: every slot of the
region in its start state, and, once the load is complete, told to start with START the time of that, or the job completed where its
region no longer serves; a job whose slots have all halted completes with its record, its slots free (R39, R40, R41, R46, R48, R436 to
R443). What a host's failure leaves is the model's reading (log 33), and so are when an
image is checked and what an ending job drops (log 42).
-/
def Obligations.JobsAreReadLaunchedAndCompleted : Prop :=
  ∀ (s : State),
    (∀ q v, s.arg = .workQueueVal q v →
      let w := s.wq q.toNat
      (w.enabled = true → ∃ t e, exec .queueOwnershipWrite s = .next t ∧ t.queues = s.queues ∧ t.errlog = s.errlog ++ [e]) ∧
      (w.enabled = false → (s.vf w.part).tdisp ≠ .run → (s.vf (bitsOf v.toNat 0 6)).tdisp ≠ .run →
        ∃ t, exec .queueOwnershipWrite s = .next t ∧ t.cores = s.cores ∧ t.mem = s.mem ∧
          t.wq q.toNat = { w with
            part := bitsOf v.toNat 0 6, serial := v.getLsbD 13, super := v.getLsbD 14, en := v.getLsbD 15 })) ∧
    (∀ p q v, s.arg = .vfQueueVal p q v →
      let w := s.wq q.toNat
      let mine := s.linked p = true ∧ w.en = true ∧ w.part = p
      (¬mine → exec .submit s = .next s ∧ exec .wqcfg s = .next s) ∧
      (mine →
        (w.consumed.toNat ≤ v.toNat → v.toNat ≤ w.consumed.toNat + w.size →
          ∃ t, exec .submit s = .next t ∧ t.mem = s.mem ∧ t.wq q.toNat = { w with submit := v, err := 0 }) ∧
        (v.toNat < w.consumed.toNat ∨ w.consumed.toNat + w.size < v.toNat →
          ∃ t, exec .submit s = .next t ∧ t.mem = s.mem ∧ t.wq q.toNat = w) ∧
        (v.getLsbD 0 = false → ∃ t, exec .wqcfg s = .next t ∧ (t.wq q.toNat).enabled = false ∧
          (t.wq q.toNat).vector = bitsOf v.toNat 13 11) ∧
        (v.getLsbD 0 = true → w.enabled = false → (s.vf p).launches = true →
          ∃ t, exec .wqcfg s = .next t ∧
            (let x := t.wq q.toNat
             x.enabled = true ∧ x.submit = 0 ∧ x.consumed = 0 ∧ x.completed = 0 ∧ x.err = 0 ∧
             x.vector = bitsOf v.toNat 13 11)) ∧
        (v.getLsbD 0 = true → w.enabled = false → (s.vf p).launches = false →
          ∃ t, exec .wqcfg s = .next t ∧ (t.wq q.toNat).enabled = false))) ∧
    (∀ q, s.arg = .workQueue q →
      let n := q.toNat
      let w := s.wq n
      let seq := w.consumed.toNat + 1
      let k := (s.rootOf w.part).getD 0
      let r : BitVec 512 := BitVec.ofNat 512 (s.peek (hostBase + w.wqbase.toNat + 64 * ((seq - 1) % w.size)) 64)
      ((s.reading.get (Fin.ofNat 2 k)).length ≤ 4 → (s.readsOf k).length ≤ 4 ∧ ∀ z, z ∈ s.readsOf k → s.readable z = true) ∧
      ((s.readsOf k).contains n = false → exec .launchRecordRead s = .next s) ∧
      ((s.readsOf k).contains n = true →
        (fieldOf r 47 40 ≠ seq % 256 → ∃ t, exec .launchRecordRead s = .next t ∧ t.jobs = s.jobs ∧ t.mem = s.mem ∧
          t.wq n = { w with err := 1 }) ∧
        (fieldOf r 47 40 = seq % 256 → ∃ t job, exec .launchRecordRead s = .next t ∧ t.nextJob = s.nextJob + 1 ∧
          (t.wq n).consumed = BitVec.ofNat 64 seq ∧ t.reading.get (Fin.ofNat 2 k) = (s.readsOf k).erase n ∧ t.job? s.nextJob = some job ∧ job.record = r ∧ job.queue = n ∧
          job.seq = seq ∧ job.part = w.part))) ∧
    (∀ q v, s.arg = .workQueueVal q v →
      let n := q.toNat
      let w := s.wq n
      let next := (s.readsOf ((s.rootOf w.part).getD 0)).contains n
      let answer := exec .launchRecordRead s
      (v = 2 → next = true → ∃ t, answer = .next t ∧ t.jobs = s.jobs ∧ t.mem = s.mem ∧ t.wq n = { w with err := 2 }) ∧
      (v = 3 → w.enabled = true → w.cpos ≠ 0 →
        ∃ t, answer = .next t ∧ t.jobs = s.jobs ∧ t.mem = s.mem ∧ t.wq n = { w with err := 3 }) ∧
      (v = 2 ∧ next = false ∨ v = 3 ∧ (w.enabled = false ∨ w.cpos = 0) ∨ v ≠ 2 ∧ v ≠ 3 → answer = .next s)) ∧
    (∀ j job, s.arg = .job j → s.job? j = some job →
      let launch := exec .jobLaunch s
      let u := s.reserve
      (job.phase ≠ .loading → u.nextLaunch ≠ some j → launch = .next u) ∧
      (∀ x, job.phase ≠ .loading → u.nextLaunch = some j → u.job? j = some x →
        (u.jobImage x = none → launch = .next (u.finishJob j 3 0)) ∧
        (∀ im, u.jobImage x = some im →
          (u.placing j x im = .mismatch → launch = .next (u.finishJob j 1 0)) ∧
          (∀ r c, u.placing j x im = .start r c →
            let ext := (u.extension x.part x.record).getD (0, 0, [])
            let job1 := { x with
              slotMask := im.slotMask, row0 := r, col0 := c, rows := im.rows, cols := im.cols, phase := .loading,
              target := none, reserved := [], start := u.ptime, traceBase := ext.1, traceLen := ext.2.1 }
            ((u.freeGroups x.part).length < im.groups.length + 1 →
              (launch = .next ((u.modJob j (fun _ => job1)).finishJob j 2 0))) ∧
            (im.groups.length + 1 ≤ (u.freeGroups x.part).length → x.recov = false →
              ∃ t, launch = .next t ∧ t.job? j = some job1 ∧
                ∀ n i, n ∈ u.jobCores job1 → im.slotMask.getLsbD i.val = true →
                  t.slot n i = u.startState n i j job1 im)))) ∧
      (job.phase = .loading →
        let cores := s.jobCores job
        (s.jobImage job = none → launch = .next (s.finishJob j 4 0)) ∧
        (∀ im, s.jobImage job = some im →
          let serves := cores.any s.underRecovery = false ∧ cores.all (s.fitsCore job im) = true
          (¬serves → launch = .next (s.finishJob j 4 0)) ∧
          let start := fun (n : Nat) => s.sharePhys n (some job.part) (s.shareSize n (some job.part) - 0x80 + 40)
          (serves → s.power.shedlvl ≤ job.prio.toNat ∨ s.contextIn job = false → launch = .next s) ∧
          (serves → job.prio.toNat < s.power.shedlvl → s.contextIn job = true → ∃ t, launch = .next t ∧
            t.job? j = some { job with phase := .running, start := s.ptime } ∧
            (∀ n, cores = [n] → Memory.wf s.mem = true → Untraced s → Sound s (start n) 8 →
              StoredAt s t (start n) 8 (s.ptime % 2 ^ 64)) ∧
            ∀ n i, n ∈ cores → job.slotMask.getLsbD i.val = true →
              ∃ d m, d ∈ t.due ∧ d.ev.kind = .slotgoArrival ∧ d.ev.arg = .slotMsg m ∧ m.target = n ∧ m.tslot = i ∧
                m.job = j ∧ m.launch = true ∧ m.offset = BitVec.ofNat 64 (im.entries.getD i.val 0)))) ∧
      (∀ im, s.jobImage job = some im →
        (s.wantsTarget job = false → exec .placementWaitExpiry s = .next s) ∧
        (s.wantsTarget job = true → ∃ t, exec .placementWaitExpiry s = .next t ∧ t.cores = s.cores ∧ t.mem = s.mem ∧
          (t.job? j).map Job.target = some (s.bestOrigin job im (s.origins job im)))) ∧
      (let completes := fun (status : Nat) (cause : BitVec 8) =>
         let w := s.wq job.queue
         let at_ := hostBase + w.wcbase.toNat + 16 * (w.cpos.toNat % w.size)
         exec .jobComplete s = .next (s.finishJob j status cause) ∧
         (Memory.wf s.mem = true → status ≠ 9 ∨ w.enabled = true →
           StoredAt s (s.finishJob j status cause) at_ 16 (completionRecord w job status cause)) ∧
         ((s.finishJob j status cause).job? j).map Job.phase = some .done ∧
         ∀ n i, (s.slot n i).job = some j →
           ((s.finishJob j status cause).slot n i).job = none ∧ ((s.finishJob j status cause).slot n i).run = .off
       (job.phase = .running → s.allHalted j job = true → completes 0 0) ∧
       (job.phase = .running → s.allHalted j job = false → exec .jobComplete s = .next s) ∧
       (∀ st c, job.phase = .ending st c → s.allStopped j = true → completes st c) ∧
       (∀ st c, job.phase = .ending st c → s.allStopped j = false → exec .jobComplete s = .next s)))

/-- The host's side: interface states and resets, a function's root, notices, fault posts, snapshots, frames, measurements
and the requests that act on memory; each is performed, ignored or logged as its rule says, and a function that serves no
partition acts on nothing (R138, R195, R432 to R435, R445
to R447, R449, R452, R455). Bytes under a new key are free (log 15); what STOP_INTERFACE resets is the model's reading
(log 42). -/
def Obligations.HostRequestsArePerformed : Prop :=
  ∀ (s : State), Memory.wf s.mem = true → Untraced s →
    (∀ p, s.arg = .vf p →
      let v := s.vf p
      let turns := fun (i : Instr) (state : Tdisp) =>
        ∃ t, exec i s = .next t ∧ t.cores = s.cores ∧ t.mem = s.mem ∧ t.jobs = s.jobs ∧ t.vf p = { v with tdisp := state }
      (v.tdisp = .unlocked → turns .lockInterface .locked) ∧ (v.tdisp ≠ .unlocked → exec .lockInterface s = .next s) ∧
      (v.tdisp = .locked → turns .startInterface .run) ∧ (v.tdisp ≠ .locked → exec .startInterface s = .next s) ∧
      (v.tdisp ≠ .run → v.tdisp ≠ .locked → exec .tdispViolation s = .next s) ∧
      (v.tdisp = .run ∨ v.tdisp = .locked → ∃ t, exec .tdispViolation s = .next t ∧ (t.vf p).tdisp = .error ∧
        ∀ j job, s.job? j = some job → job.part = p → job.phase = .running →
          (t.job? j).map Job.phase = some (.ending 8 0)) ∧
      (s.linked p = false → ∀ i, i ∈ [Instr.stopInterface, .functionLevelReset] → exec i s = .next s) ∧
      (s.linked p = true → ∀ i, i ∈ [Instr.stopInterface, .functionLevelReset] →
        ∃ t, exec i s = .next t ∧ (t.vf p).tdisp = .unlocked ∧ (t.vf p).key = v.key + 1 ∧ (t.vf p).fqcfg = 0 ∧
          (t.vf p).spill = [] ∧ (t.vf p).waiting = [] ∧ (t.vf p).areas = [] ∧
          (∀ q, (s.wq q).part = p → (t.wq q).enabled = false) ∧
          (∀ j job, s.job? j = some job → job.part = p → job.phase = .running →
            (t.job? j).map Job.phase = some (.ending 9 0)) ∧
          ((∀ e, e ∈ s.frames → e.1 < 2 ^ 20) → ∀ a, s.inPartShare p a = true → Memory.get t.mem a = 0))) ∧
    (∀ root v, s.arg = .rootVal root v →
      let k : Fin 2 := Fin.ofNat 2 root.toNat
      let other := s.partlink.get (Fin.ofNat 2 (1 - root.toNat))
      (v &&& other ≠ 0 → ∃ t e, exec .partlink s = .next t ∧ t.partlink = s.partlink ∧ t.errlog = s.errlog ++ [e]) ∧
      (v &&& other = 0 → (∀ p : BitVec 6, ((s.partlink.get k) ^^^ v).getLsbD p.toNat = true →
          s.jobResident p = false ∧ (s.vf p).tdisp ≠ .run) →
        ∃ t, exec .partlink s = .next t ∧ t.partlink = s.partlink.set k v ∧ t.errlog = s.errlog)) ∧
    (∀ p v, s.arg = .vfVal p v →
      let x := s.vf p
      let handover := s.cores.any (fun e => e.2.handovers.any (fun h => h.cmd.part == p))
      (s.linked p = false → ∀ i, i ∈ [Instr.notify, .fqhead, .snapctl] → exec i s = .next s) ∧
      (s.linked p = true → ∃ t n, exec .notify s = .next t ∧ t.cores = s.cores ∧ t.mem = s.mem ∧ n.part = p ∧ n.core = fieldOf v 63 48 ∧
        n.context = bitsOf v.toNat 32 16 ∧ n.tag = bitsOf v.toNat 0 16 ∧ n.status = bitsOf v.toNat 16 8 ∧
        t.due = s.due ++ [{ path := some (true, 0xF200 + (s.rootOf p).getD 0, n.core),
                            ev := { kind := .completionNoticeArrival, arg := .notice n } }]) ∧
      (s.linked p = true → x.waiting = [] → ∃ t, exec .fqhead s = .next t ∧ t.mem = s.mem ∧ t.vf p = { x with fqhead := v }) ∧
      (v.getLsbD 0 = false → exec .snapctl s = .next s) ∧
      (s.linked p = true → v.getLsbD 0 = true → handover = true →
        exec .snapctl s = .next (s.send none .snapctl (.vfVal p v))) ∧
      (s.linked p = true → v.getLsbD 0 = true → handover = false → ∃ t, exec .snapctl s = .next t ∧
        (t.vf p).snap = BitVec.ofNat 64 ((fieldOf x.snap 63 32 + 1) % 2 ^ 32 * 2 ^ 32 + 2) ∧
        (∀ n e, e ∈ (t.core n).plb → e.part ≠ some p) ∧ ∀ n i, t.slot n i = s.slot n i)) ∧
    (∀ m, s.arg = .msg m →
      let n := nameCore m.dest
      let x := s.vf m.part
      let pair := (m.part, m.source)
      let free := x.fqcfg.getLsbD 0 = true ∧ (x.fqpos - x.fqhead).toNat < 2 ^ (4 + fieldOf x.fqcfg 4 1) ∧ x.waiting = []
      (m.cls ≠ 0 ∨ m.len ≠ 16 ∨ m.kind ≠ 0 → ∃ t e, exec .faultPostArrival s = .next t ∧ t.mem = s.mem ∧ t.errlog = s.errlog ++ [e]) ∧
      (m.cls = 0 → m.len = 16 → m.kind = 0 → m.retry = true ∨ (s.core n).refusing.contains pair = false →
        (free → ∃ t, exec .faultPostArrival s = .next t ∧ (t.vf m.part).fqpos = x.fqpos + 1 ∧
          (t.core n).refusing.contains pair = false ∧
          StoredAt s t (hostBase + x.fqbase.toNat + 32 * (x.fqpos.toNat % 2 ^ (4 + fieldOf x.fqcfg 4 1))) 32
            (postedEntry m s.ptime).toNat) ∧
        (¬free → ∃ t, exec .faultPostArrival s = .next t ∧ t.mem = s.mem ∧ (t.core n).refusing.contains pair = true))) ∧
    (∀ f, s.arg = .frame f →
      let old := s.groupEntry f.index
      let base := hbmAddr (f.index / 32768) (f.index % 32768 * 512) 0
      ∃ t, exec .frameTableWrite s = .next t ∧ t.groupEntry f.index = f.entry &&& 0xFFFFFFFFFFF000FF ∧
        (∀ r, f.root = some r → t.root = some r) ∧ (f.root = none → t.root = s.root) ∧
        (∀ p d, f.domains = [(p, d, true)] → d < 4096 → d ∈ (t.vf (BitVec.ofNat 6 p)).domainSet) ∧
        (∀ p d, f.domains = [(p, d, false)] → d < 4096 → d ∉ (t.vf (BitVec.ofNat 6 p)).domainSet) ∧
        (∀ p d r, f.rights = [(p, d, r)] → d < 4096 → lookupNat d (t.vf (BitVec.ofNat 6 p)).domains = some r) ∧
        (f.span = none →
          (old &&& 0x7F ≠ f.entry &&& 0x7F → ∀ k, k < 0x200000 → Memory.get t.mem (base + k) = 0) ∧
          (old &&& 0x7F = f.entry &&& 0x7F → t.mem = s.mem)) ∧
        (∀ span e r, f.span = some (span, e) → old = f.entry &&& 0xFFFFFFFFFFF000FF → f.root = none → s.root = some r →
          let x := s.rootEntry (span * 2 ^ 39)
          (x / 2 ^ 63 % 2 = 1 →
            StoredAt s t (s.framePhys (x / 2 ^ 24 % 32) (x % 2 ^ 24) (8 * (span % 512))) 8 e.toNat) ∧
          (x / 2 ^ 63 % 2 = 0 → ∃ u : State,
            StoredAt s u (s.framePhys r.1 r.2 (8 * (span / 512))) 8
              (2 ^ 63 + f.table.1 % 32 * 2 ^ 24 + f.table.2 % 2 ^ 24) ∧
            StoredAt u t (s.framePhys (f.table.1 % 32) (f.table.2 % 2 ^ 24) (8 * (span % 512))) 8 e.toNat))) ∧
    (∀ root idx nonce, s.arg = .measure root idx nonce →
      let count := fun (u : State) (d : Nat) => (lookupNat d u.dieCounters).getD 0
      let block := fun (b : Nat) => Answer.block root.toNat (b + 1) [s.report (2 * b) nonce, s.report (2 * b + 1) nonce]
      (∀ d, (s.report d nonce).die = d ∧ (s.report d nonce).nonce = nonce ∧ (s.report d nonce).seq = s.commit.seq ∧
        (d < 400 → (s.report d nonce).kind = .compute)) ∧
      (idx.toNat = 0 → exec .getMeasurements s = .next s) ∧
      (225 < idx.toNat → idx.toNat < 255 → exec .getMeasurements s =
        .next { s with reports := s.reports ++ [.invalidRequest root.toNat idx.toNat] }) ∧
      (1 ≤ idx.toNat → idx.toNat ≤ 225 → ∃ t, exec .getMeasurements s = .next t ∧
        t.reports = s.reports ++ [block (idx.toNat - 1)] ∧
        count t (2 * idx.toNat - 2) = count s (2 * idx.toNat - 2) + 1 ∧
        count t (2 * idx.toNat - 1) = count s (2 * idx.toNat - 1) + 1) ∧
      (idx.toNat = 255 → ∃ t, exec .getMeasurements s = .next t ∧
        t.reports = s.reports ++ (List.range 225).map block)) ∧
    (∀ h, s.arg = .hostReq h →
      let need := fun (i : PageInfo) => if h.write then i.wrS && !i.snap else i.rdS
      let len := h.data.length
      (h.va.toNat % 64 + len ≤ 64 → 0 < len →
        (s.linked h.vf = false ∨ s.supPhys h.vf need h.va.toNat = none →
          ∃ t e, exec .hostMemoryRequest s = .next t ∧ t.mem = s.mem ∧ t.cores = s.cores ∧ t.errlog = s.errlog ++ [e]) ∧
        (∀ q, s.linked h.vf = true → s.supPhys h.vf need h.va.toNat = some q →
          (h.write = false → exec .hostMemoryRequest s = .next s) ∧
          (h.write = true → Sound s q len →
            ∃ t, exec .hostMemoryRequest s = .next t ∧ StoredAt s t q len (ofBytes h.data))))) ∧
    (∀ h, s.arg = .hostAtomic h →
      let need := fun (i : PageInfo) => s.linked h.vf && i.sa && i.rdS && i.wrS && !i.snap
      let serves := (h.op = .add ∨ h.op = .swap ∨ h.op = .cas) ∧ (h.bytes = 4 ∨ h.bytes = 8) ∧ h.va.toNat % h.bytes = 0
      let refuses := ∃ t e, exec .hostAtomicop s = .next t ∧ t.mem = s.mem ∧ t.cores = s.cores ∧ t.errlog = s.errlog ++ [e]
      (s.supPhys h.vf need h.va.toNat = none → refuses) ∧
      (∀ q, s.supPhys h.vf need h.va.toNat = some q →
        (¬serves → refuses) ∧
        (serves → s.badIn q h.bytes = none → Sound s q h.bytes →
          ∃ t, exec .hostAtomicop s = .next t ∧ StoredAt s t q h.bytes
            ((amoResult h.op h.bytes (s.peek q h.bytes) (h.operand.toNat % 2 ^ (8 * h.bytes))
              (h.expected.toNat % 2 ^ (8 * h.bytes))).getD (s.peek q h.bytes)))))

/-! ### The panel's construction, firmware and optical ports -/

/-- The layout commits: a proposed layout is refused, queued behind a commit under way, or written into the shadow banks; a write of the commit register with
the next number switches the banks at the next tick of the mesh, where instruction-store bytes and banks that pass to another
partition are zero and class entries that do are reset, and is journalled when every router has answered; a journal record and a
retirement record count once their commit byte is written; a mailbox proposal is judged and answered; boot reconciles the journal
and reads the retirement log. A watchdog restarts its core; an image is loaded where it is accepted; a loss of panel power leaves
what flash and host memory hold, and the panel boots; errors in stored state mark it (R34, R35, R158, R423 to R425, R428 to R431, R454, R479). That
errors come with SCRUBBER_PASS is the model's choice (log 51). What a physical test finds is free (log 16);
boot after a loss of power is the model's reading (log 35). -/
def Obligations.LayoutsCommitAndFirmwareLoads : Prop :=
  ∀ (s : State), Memory.wf s.mem = true → Untraced s →
    (∀ v, s.arg = .val v →
      let good := s.commit.busy = false ∧ fieldOf v 63 32 = (s.commit.seq + 1).toNat ∧
        v.getLsbD 0 ≠ s.commit.active.getLsbD 0
      (good → ∃ t, exec .commit s = .next t ∧ t.cores = s.cores ∧ t.mem = s.mem ∧ t.layout = s.layout ∧
        t.commit = { s.commit with seq := s.commit.seq + 1, busy := true, flipped := false,
                                   active := s.commit.active + 1, tickAt := (s.ptime / 512 + 1) * 512 }) ∧
      (¬good → ∃ t e, exec .commit s = .next t ∧ t.commit = s.commit ∧ t.errlog = s.errlog ++ [e])) ∧
    (∀ p, s.arg = .proposal p →
      let l := s.proposed p (s.commit.seq + 1).toNat
      let refuses := ∃ t e, exec .commit s = .next t ∧ t.shadow = s.shadow ∧ t.layout = s.layout ∧ t.journal = s.journal ∧
        t.errlog = s.errlog ++ [e]
      (l.refused = true → refuses) ∧
      (l.refused = false → s.bootHalted = false → s.commit.busy = false →
        s.requests.any (fun x => x.stage == 1) = false →
        l.parts = p.parts ∧ l.names = p.names ∧ (∀ d, d ∈ p.detours → d ∈ l.detours) ∧ l.pinned = p.pinned ∧
        l.routes = p.routes ∧ l.allow = p.allow ∧ l.ports = p.ports ∧ l.seq = (s.commit.seq + 1).toNat ∧
        ∃ t k, exec .commit s = .next t ∧ t.shadow = l ∧ t.layout = s.layout ∧ t.cores = s.cores ∧ t.mem = s.mem ∧
          t.journal = s.journal ++ [k] ∧ k.prepared = true ∧ k.seq = l.seq ∧ k.layout = some l ∧ k.committed = false ∧
          t.due = s.due ++ [{ path := securityPath, ev := { kind := .commit, arg := .journal s.journal.length } }]) ∧
      (l.refused = false → s.bootHalted = false →
        s.commit.busy = true ∨ s.requests.any (fun x => x.stage == 1) = true →
        exec .commit s = .next { s with due := s.due ++ [{ path := none, ev := { kind := .commit, arg := .proposal p } }] })) ∧
    (∀ k r, s.arg = .journal k → s.journal[k]? = some r → ∃ t, exec .commit s = .next t ∧ t.layout = s.layout ∧
      t.journal[k]? = some { r with committed := true }) ∧
    (s.commit.busy = true → s.commit.flipped = false → s.commit.tickAt ≤ s.ptime →
      let istore := fun (a : Nat) => istoreBase ≤ a ∧ a < istoreBase + 2 ^ 34
      let u : State := { s with layout := s.shadow }
      let new := fun (a : Nat) => u.storeOwner a
      let moved := fun (a : Nat) => isLocal a = true ∧ s.isGrid (localCore a) = true ∧
        u.bankOwner (localCore a) ((a - localBase) % 2 ^ 21 / 2 ^ 17) ≠
          s.bankOwner (localCore a) ((a - localBase) % 2 ^ 21 / 2 ^ 17)
      let classOwner := fun (x : State) (n k : Nat) =>
        (x.layout.parts.map Prod.fst).find? (fun p => x.ownsClass (BitVec.ofNat 6 p) n k)
      ∃ t, exec .meshTick s = .next t ∧ t.layout = { s.shadow with seq := s.commit.seq.toNat } ∧
        (∀ a, ¬istore a ∨ new a = none ∨ new a = s.storeOwner a → ¬moved a → Memory.get t.mem a = Memory.get s.mem a) ∧
        (s.layout.parts ≠ s.shadow.parts ∨ s.layout.caps ≠ s.shadow.caps → ∀ a, moved a → Memory.get t.mem a = 0) ∧
        (s.layout.parts ≠ s.shadow.parts → ∀ n k, n ∈ s.cores.map Prod.fst → k.val < 29 →
          classOwner u n k.val ≠ classOwner s n k.val → (t.core n).classes.get k = ClassEntry.reset) ∧
        (s.layout.parts ≠ s.shadow.parts ∨ s.layout.caps ≠ s.shadow.caps →
          ∀ a p, istore a → new a = some p → s.storeOwner a ≠ some p → Memory.get t.mem a = 0) ∧
        t.shadow = s.layout ∧ t.commit = { s.commit with flipped := true } ∧ (∀ n, (t.core n).names = []) ∧
        ∀ n i, t.slot n i = s.slot n i) ∧
    (s.commit.busy = false ∨ s.commit.flipped = true ∨ s.ptime < s.commit.tickAt → exec .meshTick s = .next s) ∧
    (s.commit.busy = true → s.commit.flipped = true →
      ∃ t r, exec .busyClear s = .next t ∧ t.cores = s.cores ∧ t.mem = s.mem ∧ t.layout = s.layout ∧
        t.commit = { s.commit with busy := false, flipped := false } ∧ r ∈ t.journal ∧
        r.prepared = false ∧ r.seq = s.commit.seq.toNat ∧ r.layout = some s.layout ∧
        { path := securityPath, ev := { kind := .commit, arg := .journal s.journal.length } } ∈ t.due) ∧
    (s.commit.busy = false ∨ s.commit.flipped = false → exec .busyClear s = .next s) ∧
    (let good := s.journal.filter JournalRec.committed
     let n := s.commit.seq.toNat
     let halts := ∃ t, exec .journalReconcile s = .next t ∧ t.bootHalted = true ∧ t.layout = s.layout
     (s.layout.blank = false →
       (good = [] → halts) ∧
       (∀ r, good.getLast? = some r →
         (r.prepared = false → r.seq = n → exec .journalReconcile s = .next s) ∧
         (r.prepared = false → r.seq ≠ n → halts) ∧
         (r.prepared = true → r.seq = n → ∃ t k, exec .journalReconcile s = .next t ∧ t.layout = s.layout ∧
           t.journal = s.journal ++ [k] ∧ k.prepared = false ∧ k.seq = n) ∧
         (r.prepared = true → r.seq ≠ n → r.seq ≠ n + 1 → halts) ∧
         (r.prepared = true → r.seq = n + 1 → ∃ t, exec .journalReconcile s = .next t ∧ t.layout = s.layout ∧
           t.commit = s.commit))) ∧
     (s.layout.blank = true →
       ((∀ r, r ∈ good → r.prepared = true) → halts) ∧
       (∀ r l, (good.filter (fun r => !r.prepared)).getLast? = some r → r.layout = some l →
         ∃ t, exec .journalReconcile s = .next t ∧ t.layout.blank = false ∧ t.layout.seq = r.seq + 1 ∧
           t.layout = { s.rebuild l with seq := r.seq + 1 }))) ∧
    (∀ cause kind index die prow pcol, s.arg = .retire cause kind index die prow pcol →
      (s.retired.length < 16384 → ∃ t x, exec .retirementAppend s = .next t ∧ t.retired = s.retired ++ [x] ∧
        x.commit = 0xFF ∧ x.crcGood = true ∧ x.cause = cause ∧ x.kind = kind ∧ x.index = index ∧ x.die = die ∧
        x.prow = prow ∧ x.pcol = pcol ∧ x.time = BitVec.ofNat 64 s.ptime ∧ x.seq = s.flashSeq ∧
        t.flashSeq = s.flashSeq + 1 ∧
        t.due = s.due ++ [{ path := securityPath, ev := { kind := .retirementAppend, arg := .record s.flashSeq } }]) ∧
      (16384 ≤ s.retired.length → s.copying = false → s.retired.filter RetireRec.live ≠ [] →
        ∃ t, exec .retirementAppend s = .next t ∧ t.retired = s.retired ∧ t.copying = true ∧
          t.otherHalf.length = (s.retired.filter RetireRec.live).length)) ∧
    (∀ n r, s.arg = .record n → s.otherHalf = [] → s.retired.find? (fun x => x.seq == n) = some r → r.commit = 0xFF →
      ∃ t, exec .retirementAppend s = .next t ∧ { r with commit := 0xA5 } ∈ t.retired ∧
        (r.crcGood = true → r.die.toNat < 400 →
          ∃ q, q ∈ t.requests ∧ q.chip = r.die.toNat ∧ q.source = none ∧ q.reason = 0)) ∧
    (∃ t, exec .bootLogRead s = .next t ∧ t.cores = s.cores ∧ t.mem = s.mem ∧
      ∀ x, x ∈ t.retired → x.commit ≠ 0xFF ∧ (x.commit = 0xA5 → x.crcGood = true)) ∧
    (∀ n, s.arg = .source n →
      (∀ k a, s.kindOf n = .management k → s.requests.any (fun r => r.source == some n) = false → s.mailPhys n = some a →
        ∃ t r, exec .layoutbell s = .next t ∧ t.cores = s.cores ∧ t.mem = s.mem ∧ r ∈ t.requests ∧ r.source = some n ∧
          r.mail = a ∧ r.reason = s.judgeMail a ∧ r.table = some (s.drawChip r.chip).1 ∧ (r.reason ≠ 0 → r.stage = 0)) ∧
      ((∀ k, s.kindOf n ≠ .management k) ∨ s.mailPhys n = none ∨ s.requests.any (fun r => r.source == some n) = true →
        ∃ t e, exec .layoutbell s = .next t ∧ t.requests = s.requests ∧ t.errlog = s.errlog ++ [e])) ∧
    (∀ i : BitVec 3, s.arg = .index i →
      let n := 0xF300 + i.toNat
      let w := Fin.ofNat 8 i.toNat
      (s.requests.find? (fun r => r.source == some n && r.ready) = none → exec .layoutReply s = .next s) ∧
      (∀ r, s.requests.find? (fun r => r.source == some n && r.ready) = some r →
        Sound s (r.mail + 8) 1 → Sound s (r.mail + 9) 1 →
        ∃ t, exec .layoutReply s = .next t ∧ t.requests = s.requests.erase r ∧
          t.counter n r.counter = s.counter n r.counter + 1 ∧
          Memory.get t.mem (r.mail + 8) = (if r.reason = 0 then 1 else 2) ∧
          Memory.get t.mem (r.mail + 9) = BitVec.ofNat 8 r.reason) ∧
      (∃ t, exec .wdog s = .next t ∧ t.cores = s.cores ∧ t.mem = s.mem ∧ t.watchdogs = s.watchdogs.set w s.ptime) ∧
      (s.ptime < s.watchdogs.get w + 100000000 → exec .watchdogExpiry s = .next s) ∧
      (s.watchdogs.get w + 100000000 ≤ s.ptime → lookupNat n s.firmware = none →
        ∃ t, exec .watchdogExpiry s = .next t ∧ t.watchdogs = s.watchdogs.set w s.ptime ∧
          (∀ k, t.slot n k = Slot.reset) ∧
          ∀ a, isLocal a = true → localCore a = n → Memory.get t.mem a = 0)) ∧
    (∀ n k, s.arg = .core n → s.kindOf n = .management k → lookupNat (0xF300 + k) s.firmware = none →
      ∃ t, exec .watchdogExpiry s = .next t ∧ ∀ i, t.slot (0xF300 + k) i = Slot.reset) ∧
    (∀ f, s.arg = .firmware f →
      (s.acceptsImage f = false → exec .firmwareImageLoad s = .next s) ∧
      (s.acceptsImage f = true → ∃ t, exec .firmwareImageLoad s = .next t ∧ lookupNat f.kind t.rollback = some f.version ∧
        ∀ k e, f.entries = [(k, e)] → k.val < s.liveSlots f.core → (t.slot f.core k).pc = e ∧ (t.slot f.core k).run = .running ∧
          (t.slot f.core k).st.mode = .management ∧ ∀ r, (t.slot f.core k).getG r = 0)) ∧
    (∃ t, exec .panelPowerLoss s = .next t ∧ t.cores = [] ∧ t.jobs = [] ∧ t.layout.blank = true ∧ t.shadow.blank = true ∧
      t.due.map (fun d => d.ev.kind) = [.bootLogRead, .journalReconcile] ++ s.firmware.map (fun _ => .firmwareImageLoad) ∧
      t.journal = s.journal ∧ t.fuses = s.fuses ∧ t.rollback = s.rollback ∧
      (∀ x, x.commit ≠ 0xFF → (x ∈ t.retired ↔ x ∈ s.retired)) ∧
      ∀ a, Memory.get t.mem a = if hostBase ≤ a then Memory.get s.mem a else 0) ∧
    ((∀ us, s.arg ≠ .upsets us) → exec .scrubberPass s = .next { s with soft := [] }) ∧
    (∀ u, s.arg = .upsets [u] →
      (∀ a, u = .soft a → exec .scrubberPass s = .next { s with soft := [granuleOf a] }) ∧
      (∀ a, u = .memory a → ∃ t, exec .scrubberPass s = .next t ∧ t.bad.contains (granuleOf a) = true ∧ t.mem = s.mem) ∧
      (∀ n k, u = .classEntry n k → ∃ t, exec .scrubberPass s = .next t ∧ ((t.core n).classes.get k.toFin).bad = true) ∧
      (∀ n k, u = .channel n k → ∃ t, exec .scrubberPass s = .next t ∧ (t.chan n k).broken = true) ∧
      (∀ n k, u = .tile n k → ∃ t, exec .scrubberPass s = .next t ∧ k.toNat ∈ (t.core n).badTiles) ∧
      (∀ n k c, u = .copy n k → (s.core n).copies[k]? = some c → (s.slot n c.slot).run = .running →
        s.savedAway n c.slot c.part = false →
        ∃ t x, exec .scrubberPass s = .next t ∧ (t.core n).copies = (s.core n).copies.eraseIdx k ∧
          (t.slot n c.slot).pending = (s.slot n c.slot).pending ++ [(0x68, x)]) ∧
      (∀ n e, u = .term n e → ∃ t, exec .scrubberPass s = .next t ∧ ((t.core n).terms.get e.toFin).valid = false))

/-- Optical ports: a frame in sequence is accepted and what it acknowledges leaves the window; a bad CRC or a gap is
answered with a NAK; a window without progress is replayed, 64 times before the port goes down; a trained port comes up
once the others' frames are acknowledged (R456, R457). Where sequence numbers begin is the model's choice (log 26). -/
def Obligations.OpticalPortsKeepTheirSequence : Prop :=
  ∀ (s : State),
    (∀ k f, s.arg = .optical k f →
      let p := s.port k
      let open_ := k < 48 ∧ (p.up = true ∨ p.rising = true)
      (¬open_ → exec .opticalFrameReceive s = .next s) ∧
      (open_ → opticalGood f = false → ∃ t, exec .opticalFrameReceive s = .next t ∧ t.cores = s.cores ∧ t.due = s.due ∧
        t.port k = p.nak ∧ (p.nakSent = false → (t.port k).nakSent = true ∧
          (t.port k).naks = p.naks ++ [opticalFrame p.nextSeq p.expected 2 []])) ∧
      (open_ → opticalGood f = true → 3 < opticalType f ∨ 240 < opticalFill f → exec .opticalFrameReceive s = .next s) ∧
      (open_ → opticalGood f = true → opticalType f = 1 → opticalFill f ≤ 240 →
        let ahead := (opticalSeq f - p.expected).toNat
        ∃ t, exec .opticalFrameReceive s = .next t ∧ t.mem = s.mem ∧
          (ahead = 0 → (t.port k).expected = p.expected + 1 ∧ (t.port k).nakSent = false) ∧
          (0 < ahead → (t.port k).expected = p.expected ∧ t.due = s.due ∧
            (ahead < 2 ^ 15 → (t.port k).nakSent = true ∧
              (p.nakSent = false → (t.port k).naks = p.naks ++ [opticalFrame p.nextSeq p.expected 2 []])))) ∧
      (open_ → opticalGood f = true → opticalType f = 2 → opticalFill f ≤ 240 → opticalAck f = p.acked → p.window ≠ [] →
        p.replays < 64 → ∃ t, exec .opticalFrameReceive s = .next t ∧ t.mem = s.mem ∧ t.due = s.due ∧
          (t.port k).replays = p.replays + 1 ∧ (t.port k).window = p.window) ∧
      (open_ → opticalGood f = true → opticalType f = 0 → opticalFill f ≤ 240 →
        let n := (opticalAck f - p.acked).toNat
        ∃ t, exec .opticalFrameReceive s = .next t ∧ t.mem = s.mem ∧ t.due = s.due ∧
          (0 < n → n ≤ 4096 → n ≤ p.window.length → (t.port k).window = p.window.drop n ∧ (t.port k).acked = opticalAck f ∧
            (t.port k).replays = 0) ∧
          (n = 0 ∨ 4096 < n ∨ p.window.length < n → (t.port k).window = p.window ∧ (t.port k).acked = p.acked))) ∧
    (∀ k, s.arg = .port k →
      let p := s.port k
      (p.replayDue s.ptime = false → exec .opticalReplayTimeout s = .next s) ∧
      (p.replayDue s.ptime = true → ∃ t, exec .opticalReplayTimeout s = .next t ∧ t.mem = s.mem ∧
        (p.replays < 64 ∨ p.riders = [] → t.cores = s.cores) ∧
        (p.replays < 64 → (t.port k).replays = p.replays + 1 ∧ (t.port k).window = p.window ∧
          (t.port k).progressAt = s.ptime) ∧
        (64 ≤ p.replays → (t.port k).up = false ∧ (t.port k).window = [])) ∧
      (s.layout.ports.getLsbD k = false ∨ p.up = true → exec .opticalPortUp s = .next s) ∧
      (s.layout.ports.getLsbD k = true → p.up = false → ∃ t, exec .opticalPortUp s = .next t ∧ t.cores = s.cores ∧ t.mem = s.mem ∧
        (t.port k).expected = 0 ∧ (t.port k).nextSeq = 0 ∧ (t.port k).window = [] ∧
        ((t.port k).up = true ∨ (t.port k).rising = true) ∧
        ((∀ e, e ∈ s.portStates → e.2.up = true → e.2.window = []) → (t.port k).up = true)))

/-! ### Compact forms, bad fetches, the step -/

/-- A compact form does what its expansion does and goes on two bytes later (R59, R107, R113); an illegal instruction faults
0x01 with its bits (R51, R53), a failed fetch 0x07 with EPC at the instruction before it, or at the failed address where
there is none, and an uncorrectable halfword 0x1E (R52, R341). -/
def Obligations.CompactFormsAndBadFetches : Prop :=
  ∀ (s : State) (d a : BitVec 3) (imm off8 : BitVec 8) (sh : BitVec 6) (off : BitVec 5) (off11 : BitVec 11) (q : BitVec 3),
    let cd : BitVec 5 := BitVec.ofNat 5 (d.toNat + 8)
    let ca : BitVec 5 := BitVec.ofNat 5 (a.toNat + 8)
    let x := s.getG cd
    let y := s.getG ca
    let gives := fun (f : Compact) (v : Dword) => Result s (.compactForm f) 2 cd v
    gives (.cMov d a) y ∧ gives (.cAdd d a) (x + y) ∧ gives (.cSub d a) (x - y) ∧ gives (.cAnd d a) (x &&& y) ∧
    gives (.cAddi d imm) (x + imm.signExtend 64) ∧ gives (.cLi d imm) (imm.signExtend 64) ∧
    gives (.cShli d sh) (x <<< sh.toNat) ∧ gives (.cShri d sh) (x >>> sh.toNat) ∧
    (let loads := fun (f : Compact) (n : Nat) (va : Dword) (value : Nat → Dword) =>
       (∀ e, s.check s.acc .load n va = .error e → Stops s (.compactForm f) e) ∧
       (∀ p, s.check s.acc .load n va = .ok (.self p) →
         (s.badIn p n = none → Answers s (.compactForm f) 2 cd (value (s.peek p n)) ∧
           (s.soft = [] → Result s (.compactForm f) 2 cd (value (s.peek p n)))) ∧
         (∀ b, s.badIn p n = some b → Faults s (.compactForm f) 0x1E (va + BitVec.ofNat 64 (b - p))))
     loads (.cLd64 d a off) 8 (y + off.setWidth 64 * 8) (BitVec.ofNat 64) ∧
     loads (.cLd32 d a off) 4 (y + off.setWidth 64 * 4) (fun v => BitVec.ofInt 64 (BitVec.ofNat 32 v).toInt)) ∧
    (let stores := fun (f : Compact) (n : Nat) (va : Dword) =>
       (∀ e, s.check s.acc .write n va = .error e → Stops s (.compactForm f) e) ∧
       (∀ p, s.check s.acc .write n va = .ok (.self p) → Memory.wf s.mem = true → Untraced s → s.me.run = .running →
         Sound s p n →
         ∃ t, exec (.compactForm f) s = .next t ∧ StoredAt s t p n x.toNat ∧ SlotFrame s t [] [] [] ∧
           t.me.fp = s.me.fp ∧ Advances s t 2)
     stores (.cSt64 d a off) 8 (y + off.setWidth 64 * 8) ∧ stores (.cSt32 d a off) 4 (y + off.setWidth 64 * 4)) ∧
    (let goes := fun (f : Compact) (target : Dword) =>
       (target.toNat < (s.slice s.curCore s.me.who).2 → ∃ t, exec (.compactForm f) s = .next t ∧ Frame s t [] [] [] ∧
         t.me.fp = s.me.fp ∧ Jumps s t target) ∧
       ((s.slice s.curCore s.me.who).2 ≤ target.toNat → Faults s (.compactForm f) 0x07 target)
     let falls := fun (f : Compact) =>
       ∃ t, exec (.compactForm f) s = .next t ∧ Frame s t [] [] [] ∧ t.me.fp = s.me.fp ∧ Advances s t 2
     (y = 0 → goes (.cBez a off8) (s.me.pc + (off8.signExtend 64 <<< 1)) ∧ falls (.cBnz a off8)) ∧
     (y ≠ 0 → goes (.cBnz a off8) (s.me.pc + (off8.signExtend 64 <<< 1)) ∧ falls (.cBez a off8)) ∧
     goes (.cJ off11) (s.me.pc + (off11.signExtend 64 <<< 1))) ∧
    (let r := s.here.q.get q.toFin
     (s.ownsQueue q.toNat = false → ∃ addr, Faults s (.compactForm (.cQget d q)) 0x31 addr) ∧
     (∀ v rest, s.ownsQueue q.toNat = true → r.mode ≠ 0 → r.readers = [] → r.writers = [] → r.entries = v :: rest →
       ∃ t, exec (.compactForm (.cQget d q)) s = .next t ∧ SlotFrame s t [cd] [] [] ∧ SameMemory s t ∧ t.getG cd = v ∧
         t.here.q.get q.toFin = { r with entries := rest } ∧ t.me.fp = s.me.fp ∧ Advances s t 2)) ∧
    (∀ w : BitVec 32, Faults s (.illegalInstruction true w) 0x01 (w.setWidth 64) ∧
      Faults s (.illegalInstruction false w) 0x01 (BitVec.ofNat 64 (w.toNat % 2 ^ 16))) ∧
    (∀ addr, Faults s (.fetchFault addr true) 0x1E addr ∧
      exec (.fetchFault addr false) s =
        .next (s.deliver s.curCore s.curSlot 0x07 addr (s.me.lastPc.getD addr)))

/-- A step makes one of the panel's moves after time has passed. A cycle of a core, and of the cores locked to it, begins with
the terms that fire, the waits whose deadline has passed and the slots that rejoin; then each core's chosen slot issues. A slot outside any bench with no capture
and no cause to take executes the instruction that the bytes at its PC decode to, in a state with the same registers and
memory; undecodable bytes are the illegal instruction, and bytes outside the slice or uncorrectable a failed fetch. A waiting
step, an input and a step whose condition holds are executed as their own instruction, a commit's switch of banks at its tick
before anything else; with no move time passes (R25, R26, R27, R50, R124, R315, R376, R423). How much time passes and which of several moves comes next is free (logs 3 and 4); which halfword's address
a fetch fails with is the model's choice (log 46). -/
def Obligations.AStepRunsTheDecodedInstruction : Prop :=
  ∀ (s : State),
    (s.pick s.moves = none → step s = .next s.passTime) ∧
    (∀ k d, s.pick s.moves = some (.due k) → s.due[k]? = some d →
      step s = exec d.ev.kind { s.passTime with due := s.due.eraseIdx k, arg := d.ev.arg, trapped := false }) ∧
    (∀ e rest, s.pick s.moves = some .input → s.inputs = e :: rest →
      step s = exec e.kind { s.passTime with inputs := rest, arg := e.arg, trapped := false }) ∧
    (∀ e, s.pick s.moves = some (.event e) → step s = exec e.kind { s.passTime with arg := e.arg, trapped := false }) ∧
    (∀ e, s.urgent = some e → step s = exec e.kind { s.passTime with arg := e.arg, trapped := false }) ∧
    (∀ cores, (∀ m, m ∈ cores → s.firing m = [] ∧ (s.core m).outs = [] ∧ ∀ i, s.lateWait m i = none ∧
        s.rejoinReady m i = false ∧ (s.slot m i).rejoinAt = none ∧ (s.slot m i).bench = none) →
      beginCycle cores s = .next s) ∧
    (∀ n s1, s.pick s.moves = some (.cycle n) →
      let cores := (s.passTime.lockedWith n).filter (fun m => !s.passTime.dying m)
      beginCycle cores s.passTime = .next s1 →
      step s = runChoices (s1.choices cores []) s1 ∧
      (cores = [n] → s1.chosen n = none → step s = .next (s1.tickCore n)) ∧
      ∀ i, cores = [n] → s1.chosen n = some i →
        let sl := s1.slot n i
        sl.bench = none → sl.capture = false → sl.taking = none → sl.pending = [] →
        let s0 := s1.beginIssue n i
        let sc := s1.slice n sl.who
        let at_ := istoreAddr n (sc.1 + sl.pc.toNat)
        s0.curCore = n ∧ s0.curSlot = i ∧ s0.mem = s1.mem ∧
        s0.slot n i = { sl with readyAt := (s1.core n).t + 4, yields := [] } ∧ (s0.core n).lastIssuer = i.val ∧
        (∀ m k, m ≠ n → s0.slot m k = s1.slot m k) ∧
        (∀ k, k ≠ i → s0.slot n k = { s1.slot n k with yields := (s1.slot n k).yields.filter (· != i) }) ∧
        (sc.2 < sl.pc.toNat + 2 → step s = exec (.fetchFault sl.pc false) s0) ∧
        (sl.pc.toNat + 2 ≤ sc.2 →
          (∀ b, s1.badIn at_ 2 = some b → step s = exec (.fetchFault sl.pc true) s0) ∧
          (s1.badIn at_ 2 = none →
            (s1.peek at_ 2 % 2 = 0 →
              (∀ ins rest, decode (Memory.bytes s1.mem at_ 2) = .ok (ins, rest) → step s = exec ins s0) ∧
              (∀ e, decode (Memory.bytes s1.mem at_ 2) = .error e →
                step s = exec (.illegalInstruction false (BitVec.ofNat 32 (s1.peek at_ 2))) s0)) ∧
            (s1.peek at_ 2 % 2 = 1 → sc.2 < sl.pc.toNat + 4 → step s = exec (.fetchFault (sl.pc + 2) false) s0) ∧
            (s1.peek at_ 2 % 2 = 1 → sl.pc.toNat + 4 ≤ sc.2 →
              (∀ b, s1.badIn (at_ + 2) 2 = some b → step s = exec (.fetchFault (sl.pc + 2) true) s0) ∧
              (s1.badIn (at_ + 2) 2 = none →
                (∀ ins rest, decode (Memory.bytes s1.mem at_ 4) = .ok (ins, rest) → step s = exec ins s0) ∧
                (∀ e, decode (Memory.bytes s1.mem at_ 4) = .error e →
                  step s = exec (.illegalInstruction true (BitVec.ofNat 32 (s1.peek at_ 4))) s0))))))

/-! ### What every step keeps -/

/-- Every step answers a next state, from every state, and keeps the canonical form: memory and the full/empty fields rise
strictly by address, no zero byte is listed, and a scope is listed beside the full words only where it is not zero and the
word is empty. The form is the model's (log 1). -/
def Obligations.EveryStepKeepsTheCanonicalForm : Prop :=
  ∀ (s : State), ∃ t, step s = .next t ∧ (canonical s → canonical t)

/-- The panel right after reset: the canonical form holds, memory reads zero (model's choice, log 1), no slot has started,
FDUTY is 16 (R31), HOLD 4,096, TCMP all ones (R332), every class and channel is not in use, terms are invalid, map entries
disabled, no remap entry VALID (R420), a work list has THRESH 8 and INTERVAL 3 (R323), functions are CONFIG_UNLOCKED (R433), and the power block holds the
reset values of R399. -/
def Obligations.ResetHoldsTheStatedValues : Prop :=
  let s := State.reset
  canonical s ∧ (∀ a, Memory.get s.mem a = 0) ∧ (∀ w, s.isFull w = false) ∧ s.ptime = 0 ∧
  (∀ n i, (s.slot n i).run = .off ∧ (s.slot n i).cnt.tcmp = BitVec.allOnes 64 ∧ (s.slot n i).job = none) ∧
  (∀ n, (s.core n).fduty = 16 ∧ (s.core n).hold = 4096 ∧ (∀ k, ((s.core n).channels.get k).valid = false) ∧
    (∀ k, ((s.core n).terms.get k).valid = false) ∧ (∀ k, ((s.core n).bars.get k) = none) ∧
    (∀ q k, ((s.core n).mq.get q).map.get k = none) ∧ (s.core n).wl.thresh = 8 ∧ (s.core n).wl.interval = 3 ∧
    (s.core n).wl.en = false) ∧
  (∀ p, (s.vf p).tdisp = .unlocked ∧ (s.vf p).fqcfg = 0) ∧ (∀ q, (s.wq q).enabled = false ∧ (s.wq q).en = false) ∧
  s.power.pcap = 36000 ∧ s.power.fallback = 18000 ∧ s.power.curvecap = 36000 ∧ s.power.curveen = false ∧
  s.power.nomfreq = 50000 ∧ s.power.vlo = 44000 ∧ s.power.vhi = 46000 ∧ s.power.vfrac = 49152 ∧ s.power.shedlvl = 8 ∧
  s.power.sheddl = 1000 ∧ s.power.zcap = 792 ∧ s.power.tcrit = 105 ∧ s.power.tshut = 120 ∧ s.power.trestart = 85 ∧
  (∀ k, (s.sense k).minv = 0xFFFF ∧ (s.sense k).degr = false) ∧ s.commit.busy = false ∧
  s.layout.blank = true ∧ ∀ n, (s.remapOf n).getLsbD 15 = false
end

