-- ==== Sys2Proof/Laws/Keyed.lean ====
section
/-!
SUPPORT. Laws of the lists keyed by a number: what a key reads as after an insertion or a removal, and that both keep the
keys strictly rising.
-/
namespace Sys2Proof

variable {α : Type}

/-- A key reads as what was inserted under it. -/
@[simp] theorem lookupNat_insertNat_self (k : Nat) (v : α) (l : List (Nat × α)) :
    lookupNat k (insertNat k v l) = some v := by
  induction l with
  | nil => simp [insertNat, lookupNat]
  | cons c rest ih =>
    obtain ⟨k', v'⟩ := c
    simp only [insertNat]
    split
    · simp [lookupNat]
    · split
      · simp [lookupNat]
      · have h : k' ≠ k := by omega
        simp [lookupNat, h, ih]

/-- Another key reads as before an insertion. -/
theorem lookupNat_insertNat_ne {j k : Nat} (h : j ≠ k) (v : α) (l : List (Nat × α)) :
    lookupNat j (insertNat k v l) = lookupNat j l := by
  induction l with
  | nil => simp [insertNat, lookupNat, Ne.symm h]
  | cons c rest ih =>
    obtain ⟨k', v'⟩ := c
    simp only [insertNat]
    split
    · simp [lookupNat, Ne.symm h]
    · split
      · subst_vars
        simp [lookupNat, Ne.symm h]
      · simp only [lookupNat, ih]

/-- What any key reads as after an insertion. -/
theorem lookupNat_insertNat (j k : Nat) (v : α) (l : List (Nat × α)) :
    lookupNat j (insertNat k v l) = if j = k then some v else lookupNat j l := by
  split
  · subst_vars; exact lookupNat_insertNat_self _ v l
  · exact lookupNat_insertNat_ne ‹_› v l

/-- Of two insertions under one key the later one stays. -/
@[simp] theorem insertNat_insertNat (k : Nat) (v w : α) (l : List (Nat × α)) :
    insertNat k v (insertNat k w l) = insertNat k v l := by
  induction l with
  | nil => simp [insertNat]
  | cons c rest ih =>
    obtain ⟨k', v'⟩ := c
    by_cases h : k < k'
    · simp [insertNat, h]
    · by_cases h' : k = k'
      · simp [insertNat, h']
      · simp [insertNat, h, h', ih]

/-- Another key reads as before a removal. -/
theorem lookupNat_eraseNat_ne {j k : Nat} (h : j ≠ k) (l : List (Nat × α)) :
    lookupNat j (eraseNat k l) = lookupNat j l := by
  induction l with
  | nil => rfl
  | cons c rest ih =>
    obtain ⟨k', v'⟩ := c
    simp only [eraseNat]
    split
    · subst_vars; simp [lookupNat, Ne.symm h]
    · simp only [lookupNat, ih]

namespace Machine

/-- The keys of a list rise above a bound when its first key is above the bound and the others rise above that key. -/
theorem risingFrom_cons {lo : Option Nat} {k : Nat} {v : α} {l : List (Nat × α)} :
    risingFrom lo ((k, v) :: l) = true ↔ (∀ x, lo = some x → x < k) ∧ risingFrom (some k) l = true := by
  cases lo <;> simp [risingFrom]

/-- The keys rise above every smaller bound too. -/
theorem risingFrom_lower {lo : Option Nat} {k : Nat} {l : List (Nat × α)} (h : risingFrom (some k) l = true)
    (hk : ∀ x, lo = some x → x < k) : risingFrom lo l = true := by
  cases l with
  | nil => rfl
  | cons c rest =>
    obtain ⟨k', v'⟩ := c
    rw [risingFrom_cons] at h ⊢
    exact ⟨fun x hx => Nat.lt_trans (hk x hx) (h.1 k rfl), h.2⟩

/-- A key at or below a bound does not occur above it. -/
theorem lookupNat_of_rising {k j : Nat} {l : List (Nat × α)} (h : risingFrom (some k) l = true) (hj : j ≤ k) :
    lookupNat j l = none := by
  induction l generalizing k with
  | nil => rfl
  | cons c rest ih =>
    obtain ⟨k', v'⟩ := c
    rw [risingFrom_cons] at h
    have hlt := h.1 k rfl
    have hne : k' ≠ j := by omega
    simp only [lookupNat, hne, if_false]
    exact ih h.2 (by omega)

/-- An insertion keeps the keys rising. -/
theorem risingFrom_insertNat {lo : Option Nat} {k : Nat} (v : α) {l : List (Nat × α)} (h : risingFrom lo l = true)
    (hk : ∀ x, lo = some x → x < k) : risingFrom lo (insertNat k v l) = true := by
  induction l generalizing lo with
  | nil => rw [insertNat, risingFrom_cons]; exact ⟨hk, rfl⟩
  | cons c rest ih =>
    obtain ⟨k', v'⟩ := c
    rw [risingFrom_cons] at h
    simp only [insertNat]
    split
    · rw [risingFrom_cons, risingFrom_cons]
      exact ⟨hk, by rintro x ⟨⟩; assumption, h.2⟩
    · split
      · subst_vars
        rw [risingFrom_cons]
        exact h
      · rw [risingFrom_cons]
        exact ⟨h.1, ih h.2 (by rintro x ⟨⟩; omega)⟩

/-- A removal keeps the keys rising. -/
theorem risingFrom_eraseNat {lo : Option Nat} (k : Nat) {l : List (Nat × α)} (h : risingFrom lo l = true) :
    risingFrom lo (eraseNat k l) = true := by
  induction l generalizing lo with
  | nil => rfl
  | cons c rest ih =>
    obtain ⟨k', v'⟩ := c
    rw [risingFrom_cons] at h
    simp only [eraseNat]
    split
    · exact risingFrom_lower h.2 h.1
    · rw [risingFrom_cons]
      exact ⟨h.1, ih h.2⟩

/-- A removed key is gone, where the keys rise. -/
theorem lookupNat_eraseNat_self {lo : Option Nat} (k : Nat) {l : List (Nat × α)} (h : risingFrom lo l = true) :
    lookupNat k (eraseNat k l) = none := by
  induction l generalizing lo with
  | nil => rfl
  | cons c rest ih =>
    obtain ⟨k', v'⟩ := c
    rw [risingFrom_cons] at h
    simp only [eraseNat]
    split
    · subst_vars; exact lookupNat_of_rising h.2 (Nat.le_refl _)
    · have hne : k' ≠ k := ‹_›
      simp only [lookupNat, hne, if_false]
      exact ih h.2

/-- What holds of every entry and of the new one holds of every entry after an insertion. -/
theorem all_insertNat {p : Nat × α → Bool} {k : Nat} {v : α} {l : List (Nat × α)} (h : l.all p = true)
    (hv : p (k, v) = true) : (insertNat k v l).all p = true := by
  induction l with
  | nil => simp [insertNat, hv]
  | cons c rest ih =>
    obtain ⟨k', v'⟩ := c
    simp only [List.all_cons, Bool.and_eq_true] at h
    simp only [insertNat]
    split
    · simp [hv, h.1, h.2]
    · split
      · simp [hv, h.2]
      · simp [h.1, ih h.2]

/-- What holds of every entry holds of every entry after a removal. -/
theorem all_eraseNat {p : Nat × α → Bool} {k : Nat} {l : List (Nat × α)} (h : l.all p = true) :
    (eraseNat k l).all p = true := by
  induction l with
  | nil => rfl
  | cons c rest ih =>
    obtain ⟨k', v'⟩ := c
    simp only [List.all_cons, Bool.and_eq_true] at h
    simp only [eraseNat]
    split
    · exact h.2
    · simp [h.1, ih h.2]

end Machine
end Sys2Proof
end

