-- ==== Sys2Proof/Laws/Memory.lean ====
section
/-!
SUPPORT. Laws of memory: a byte reads as what was written last, other bytes as before, and every operation that writes
memory keeps its canonical form.
-/
namespace Sys2Proof.Machine

/-- Memory at reset is in canonical form. -/
theorem reset_memory_wf : Memory.wf State.reset.mem = true := rfl

/-- A write keeps the canonical form. -/
theorem Memory.set_wf {m : List Host.Cell} (h : Memory.wf m = true) (a : Nat) (b : Byte) :
    Memory.wf (Memory.set m a b) = true := by
  simp only [Memory.wf, Bool.and_eq_true] at h ⊢
  unfold Memory.set
  split
  · exact ⟨risingFrom_eraseNat a h.1, all_eraseNat h.2⟩
  · exact ⟨risingFrom_insertNat b h.1 (by simp), all_insertNat h.2 (by simpa using ‹_›)⟩

/-- A write of several bytes keeps the canonical form. -/
theorem Memory.setBytes_wf {m : List Host.Cell} (h : Memory.wf m = true) (a : Nat) (bs : List Byte) :
    Memory.wf (Memory.setBytes m a bs) = true := by
  induction bs generalizing m a with
  | nil => exact h
  | cons b bs ih => exact ih (Memory.set_wf h a b) (a + 1)

/-- A byte written reads back. -/
theorem Memory.get_set_self {m : List Host.Cell} (h : Memory.wf m = true) (a : Nat) (b : Byte) :
    Memory.get (Memory.set m a b) a = b := by
  simp only [Memory.wf, Bool.and_eq_true] at h
  unfold Memory.get Memory.set
  split
  · subst_vars; simp [lookupNat_eraseNat_self a h.1]
  · simp

/-- A write leaves every other byte as it was. -/
theorem Memory.get_set_ne {j a : Nat} (h : j ≠ a) (m : List Host.Cell) (b : Byte) :
    Memory.get (Memory.set m a b) j = Memory.get m j := by
  unfold Memory.get Memory.set
  split
  · rw [lookupNat_eraseNat_ne h]
  · rw [lookupNat_insertNat_ne h]

/-- A write of several bytes leaves the bytes outside them as they were. -/
theorem Memory.get_setBytes_outside {j : Nat} (m : List Host.Cell) (a : Nat) (bs : List Byte)
    (h : j < a ∨ a + bs.length ≤ j) : Memory.get (Memory.setBytes m a bs) j = Memory.get m j := by
  induction bs generalizing m a with
  | nil => rfl
  | cons b bs ih =>
    simp only [List.length_cons] at h
    simp only [Memory.setBytes]
    rw [ih (Memory.set m a b) (a + 1) (by omega), Memory.get_set_ne (by omega)]

/-- A write of several bytes reads back byte by byte. -/
theorem Memory.get_setBytes_inside {m : List Host.Cell} (h : Memory.wf m = true) (a : Nat) (bs : List Byte) (i : Nat)
    (hi : i < bs.length) : Memory.get (Memory.setBytes m a bs) (a + i) = bs[i] := by
  induction bs generalizing m a i with
  | nil => simp at hi
  | cons b bs ih =>
    simp only [Memory.setBytes]
    cases i with
    | zero =>
      rw [Memory.get_setBytes_outside _ _ _ (by omega)]
      exact Memory.get_set_self h a b
    | succ i =>
      have := ih (Memory.set_wf h a b) (a + 1) i (by simpa using hi)
      simpa [Nat.add_assoc, Nat.add_comm 1 i] using this

/-- Bytes read are those of the byte-by-byte read. -/
theorem Memory.bytes_length (m : List Host.Cell) (a n : Nat) : (Memory.bytes m a n).length = n := by
  induction n generalizing a with
  | zero => rfl
  | succ n ih => simp [Memory.bytes, ih]

/-- Bytes written read back. -/
theorem Memory.bytes_setBytes {m : List Host.Cell} (h : Memory.wf m = true) (a : Nat) (bs : List Byte) :
    Memory.bytes (Memory.setBytes m a bs) a bs.length = bs := by
  induction bs generalizing m a with
  | nil => rfl
  | cons b bs ih =>
    simp only [Memory.setBytes, List.length_cons, Memory.bytes]
    rw [Memory.get_setBytes_outside _ _ _ (by omega), Memory.get_set_self h, ih (Memory.set_wf h a b)]

/-- A number written as bytes reads back, where it fits. -/
theorem ofBytes_bytesOf (n x : Nat) : ofBytes (bytesOf n x) = x % 256 ^ n := by
  have step : ∀ n x, bytesOf (n + 1) x = byteAt x 0 :: bytesOf n (x / 256) := by
    intro n x
    simp only [bytesOf, List.range_succ_eq_map, List.map_cons, List.map_map, List.cons.injEq, true_and]
    apply List.map_congr_left
    intro i _
    simp only [Function.comp, byteAt, Nat.div_div_eq_div_mul]
    congr 2
    rw [show 8 * i.succ = 8 + 8 * i from by omega, Nat.pow_add]
  induction n generalizing x with
  | zero => simp [bytesOf, ofBytes, Nat.mod_one]
  | succ n ih =>
    rw [step, ofBytes, ih]
    have low : (byteAt x 0).toNat = x % 256 := by simp [byteAt]
    rw [low, Nat.pow_succ, Nat.mul_comm (256 ^ n) 256, Nat.mod_mul]

/-- A store keeps the canonical form, whatever lies uncorrectable in its way (R159). -/
theorem State.store_wf {s : State} (h : Memory.wf s.mem = true) (a : Nat) (bs : List Byte) :
    Memory.wf (s.store a bs).1.mem = true := by
  have fold : ∀ (f : List Host.Cell → Nat → List Host.Cell), (∀ m i, Memory.wf m = true → Memory.wf (f m i) = true) →
      ∀ (l : List Nat) (m : List Host.Cell), Memory.wf m = true → Memory.wf (l.foldl f m) = true := by
    intro f hf l
    induction l with
    | nil => exact fun m hm => hm
    | cons i l ih => exact fun m hm => ih _ (hf m i hm)
  simp only [State.store]
  split
  · exact Memory.setBytes_wf h a bs
  · refine fold _ ?_ _ _ h
    intro m i hm
    split
    · exact hm
    · exact Memory.set_wf hm _ _

end Sys2Proof.Machine
end

