-- ==== Sys2Proof/Laws/State.lean ====
section
/-!
SUPPORT. Small lemmas of the state records: what each update leaves in every field, true by definition, so that no later
proof unfolds a record update.
-/
namespace Sys2Proof.Machine

/-! ### One core replaced -/

@[simp] theorem State.setCore_mem (s : State) (n : Nat) (c : Core) : (s.setCore n c).mem = s.mem := rfl
@[simp] theorem State.setCore_full (s : State) (n : Nat) (c : Core) : (s.setCore n c).full = s.full := rfl
@[simp] theorem State.setCore_scopes (s : State) (n : Nat) (c : Core) : (s.setCore n c).scopes = s.scopes := rfl
@[simp] theorem State.setCore_bad (s : State) (n : Nat) (c : Core) : (s.setCore n c).bad = s.bad := rfl
@[simp] theorem State.setCore_soft (s : State) (n : Nat) (c : Core) : (s.setCore n c).soft = s.soft := rfl
@[simp] theorem State.setCore_corrected (s : State) (n : Nat) (c : Core) : (s.setCore n c).corrected = s.corrected := rfl
@[simp] theorem State.setCore_chips (s : State) (n : Nat) (c : Core) : (s.setCore n c).chips = s.chips := rfl
@[simp] theorem State.setCore_xlate (s : State) (n : Nat) (c : Core) : (s.setCore n c).xlate = s.xlate := rfl
@[simp] theorem State.setCore_ptime (s : State) (n : Nat) (c : Core) : (s.setCore n c).ptime = s.ptime := rfl
@[simp] theorem State.setCore_tick (s : State) (n : Nat) (c : Core) : (s.setCore n c).tick = s.tick := rfl
@[simp] theorem State.setCore_curCore (s : State) (n : Nat) (c : Core) : (s.setCore n c).curCore = s.curCore := rfl
@[simp] theorem State.setCore_curSlot (s : State) (n : Nat) (c : Core) : (s.setCore n c).curSlot = s.curSlot := rfl
@[simp] theorem State.setCore_arg (s : State) (n : Nat) (c : Core) : (s.setCore n c).arg = s.arg := rfl
@[simp] theorem State.setCore_trapped (s : State) (n : Nat) (c : Core) : (s.setCore n c).trapped = s.trapped := rfl
@[simp] theorem State.setCore_due (s : State) (n : Nat) (c : Core) : (s.setCore n c).due = s.due := rfl
@[simp] theorem State.setCore_inputs (s : State) (n : Nat) (c : Core) : (s.setCore n c).inputs = s.inputs := rfl
@[simp] theorem State.setCore_layout (s : State) (n : Nat) (c : Core) : (s.setCore n c).layout = s.layout := rfl
@[simp] theorem State.setCore_shadow (s : State) (n : Nat) (c : Core) : (s.setCore n c).shadow = s.shadow := rfl
@[simp] theorem State.setCore_commit (s : State) (n : Nat) (c : Core) : (s.setCore n c).commit = s.commit := rfl
@[simp] theorem State.setCore_jobs (s : State) (n : Nat) (c : Core) : (s.setCore n c).jobs = s.jobs := rfl
@[simp] theorem State.setCore_nextJob (s : State) (n : Nat) (c : Core) : (s.setCore n c).nextJob = s.nextJob := rfl
@[simp] theorem State.setCore_groups (s : State) (n : Nat) (c : Core) : (s.setCore n c).groups = s.groups := rfl
@[simp] theorem State.setCore_uses (s : State) (n : Nat) (c : Core) : (s.setCore n c).uses = s.uses := rfl
@[simp] theorem State.setCore_collUses (s : State) (n : Nat) (c : Core) : (s.setCore n c).collUses = s.collUses := rfl
@[simp] theorem State.setCore_queues (s : State) (n : Nat) (c : Core) : (s.setCore n c).queues = s.queues := rfl
@[simp] theorem State.setCore_lastQueue (s : State) (n : Nat) (c : Core) : (s.setCore n c).lastQueue = s.lastQueue := rfl
@[simp] theorem State.setCore_reading (s : State) (n : Nat) (c : Core) : (s.setCore n c).reading = s.reading := rfl
@[simp] theorem State.setCore_vfs (s : State) (n : Nat) (c : Core) : (s.setCore n c).vfs = s.vfs := rfl
@[simp] theorem State.setCore_partlink (s : State) (n : Nat) (c : Core) : (s.setCore n c).partlink = s.partlink := rfl
@[simp] theorem State.setCore_frames (s : State) (n : Nat) (c : Core) : (s.setCore n c).frames = s.frames := rfl
@[simp] theorem State.setCore_root (s : State) (n : Nat) (c : Core) : (s.setCore n c).root = s.root := rfl
@[simp] theorem State.setCore_msix (s : State) (n : Nat) (c : Core) : (s.setCore n c).msix = s.msix := rfl
@[simp] theorem State.setCore_power (s : State) (n : Nat) (c : Core) : (s.setCore n c).power = s.power := rfl
@[simp] theorem State.setCore_senses (s : State) (n : Nat) (c : Core) : (s.setCore n c).senses = s.senses := rfl
@[simp] theorem State.setCore_zones (s : State) (n : Nat) (c : Core) : (s.setCore n c).zones = s.zones := rfl
@[simp] theorem State.setCore_losses (s : State) (n : Nat) (c : Core) : (s.setCore n c).losses = s.losses := rfl
@[simp] theorem State.setCore_recoveries (s : State) (n : Nat) (c : Core) : (s.setCore n c).recoveries = s.recoveries := rfl
@[simp] theorem State.setCore_copies (s : State) (n : Nat) (c : Core) : (s.setCore n c).copies = s.copies := rfl
@[simp] theorem State.setCore_contexts (s : State) (n : Nat) (c : Core) : (s.setCore n c).contexts = s.contexts := rfl
@[simp] theorem State.setCore_fuses (s : State) (n : Nat) (c : Core) : (s.setCore n c).fuses = s.fuses := rfl
@[simp] theorem State.setCore_retired (s : State) (n : Nat) (c : Core) : (s.setCore n c).retired = s.retired := rfl
@[simp] theorem State.setCore_otherHalf (s : State) (n : Nat) (c : Core) : (s.setCore n c).otherHalf = s.otherHalf := rfl
@[simp] theorem State.setCore_flashSeq (s : State) (n : Nat) (c : Core) : (s.setCore n c).flashSeq = s.flashSeq := rfl
@[simp] theorem State.setCore_journal (s : State) (n : Nat) (c : Core) : (s.setCore n c).journal = s.journal := rfl
@[simp] theorem State.setCore_bootHalted (s : State) (n : Nat) (c : Core) : (s.setCore n c).bootHalted = s.bootHalted := rfl
@[simp] theorem State.setCore_requests (s : State) (n : Nat) (c : Core) : (s.setCore n c).requests = s.requests := rfl
@[simp] theorem State.setCore_reports (s : State) (n : Nat) (c : Core) : (s.setCore n c).reports = s.reports := rfl
@[simp] theorem State.setCore_dieCounters (s : State) (n : Nat) (c : Core) : (s.setCore n c).dieCounters = s.dieCounters := rfl
@[simp] theorem State.setCore_rollback (s : State) (n : Nat) (c : Core) : (s.setCore n c).rollback = s.rollback := rfl
@[simp] theorem State.setCore_watchdogs (s : State) (n : Nat) (c : Core) : (s.setCore n c).watchdogs = s.watchdogs := rfl
@[simp] theorem State.setCore_firmware (s : State) (n : Nat) (c : Core) : (s.setCore n c).firmware = s.firmware := rfl
@[simp] theorem State.setCore_fwGroups (s : State) (n : Nat) (c : Core) : (s.setCore n c).fwGroups = s.fwGroups := rfl
@[simp] theorem State.setCore_security (s : State) (n : Nat) (c : Core) : (s.setCore n c).security = s.security := rfl
@[simp] theorem State.setCore_portStates (s : State) (n : Nat) (c : Core) : (s.setCore n c).portStates = s.portStates := rfl
@[simp] theorem State.setCore_errlog (s : State) (n : Nat) (c : Core) : (s.setCore n c).errlog = s.errlog := rfl
@[simp] theorem State.setCore_control (s : State) (n : Nat) (c : Core) : (s.setCore n c).control = s.control := rfl

/-! ### One core changed -/

@[simp] theorem State.modCore_mem (s : State) (n : Nat) (f : Core → Core) : (s.modCore n f).mem = s.mem := rfl
@[simp] theorem State.modCore_full (s : State) (n : Nat) (f : Core → Core) : (s.modCore n f).full = s.full := rfl
@[simp] theorem State.modCore_scopes (s : State) (n : Nat) (f : Core → Core) : (s.modCore n f).scopes = s.scopes := rfl
@[simp] theorem State.modCore_bad (s : State) (n : Nat) (f : Core → Core) : (s.modCore n f).bad = s.bad := rfl
@[simp] theorem State.modCore_soft (s : State) (n : Nat) (f : Core → Core) : (s.modCore n f).soft = s.soft := rfl
@[simp] theorem State.modCore_corrected (s : State) (n : Nat) (f : Core → Core) : (s.modCore n f).corrected = s.corrected := rfl
@[simp] theorem State.modCore_chips (s : State) (n : Nat) (f : Core → Core) : (s.modCore n f).chips = s.chips := rfl
@[simp] theorem State.modCore_xlate (s : State) (n : Nat) (f : Core → Core) : (s.modCore n f).xlate = s.xlate := rfl
@[simp] theorem State.modCore_ptime (s : State) (n : Nat) (f : Core → Core) : (s.modCore n f).ptime = s.ptime := rfl
@[simp] theorem State.modCore_tick (s : State) (n : Nat) (f : Core → Core) : (s.modCore n f).tick = s.tick := rfl
@[simp] theorem State.modCore_curCore (s : State) (n : Nat) (f : Core → Core) : (s.modCore n f).curCore = s.curCore := rfl
@[simp] theorem State.modCore_curSlot (s : State) (n : Nat) (f : Core → Core) : (s.modCore n f).curSlot = s.curSlot := rfl
@[simp] theorem State.modCore_arg (s : State) (n : Nat) (f : Core → Core) : (s.modCore n f).arg = s.arg := rfl
@[simp] theorem State.modCore_trapped (s : State) (n : Nat) (f : Core → Core) : (s.modCore n f).trapped = s.trapped := rfl
@[simp] theorem State.modCore_due (s : State) (n : Nat) (f : Core → Core) : (s.modCore n f).due = s.due := rfl
@[simp] theorem State.modCore_inputs (s : State) (n : Nat) (f : Core → Core) : (s.modCore n f).inputs = s.inputs := rfl
@[simp] theorem State.modCore_layout (s : State) (n : Nat) (f : Core → Core) : (s.modCore n f).layout = s.layout := rfl
@[simp] theorem State.modCore_shadow (s : State) (n : Nat) (f : Core → Core) : (s.modCore n f).shadow = s.shadow := rfl
@[simp] theorem State.modCore_commit (s : State) (n : Nat) (f : Core → Core) : (s.modCore n f).commit = s.commit := rfl
@[simp] theorem State.modCore_jobs (s : State) (n : Nat) (f : Core → Core) : (s.modCore n f).jobs = s.jobs := rfl
@[simp] theorem State.modCore_nextJob (s : State) (n : Nat) (f : Core → Core) : (s.modCore n f).nextJob = s.nextJob := rfl
@[simp] theorem State.modCore_groups (s : State) (n : Nat) (f : Core → Core) : (s.modCore n f).groups = s.groups := rfl
@[simp] theorem State.modCore_uses (s : State) (n : Nat) (f : Core → Core) : (s.modCore n f).uses = s.uses := rfl
@[simp] theorem State.modCore_collUses (s : State) (n : Nat) (f : Core → Core) : (s.modCore n f).collUses = s.collUses := rfl
@[simp] theorem State.modCore_queues (s : State) (n : Nat) (f : Core → Core) : (s.modCore n f).queues = s.queues := rfl
@[simp] theorem State.modCore_lastQueue (s : State) (n : Nat) (f : Core → Core) : (s.modCore n f).lastQueue = s.lastQueue := rfl
@[simp] theorem State.modCore_reading (s : State) (n : Nat) (f : Core → Core) : (s.modCore n f).reading = s.reading := rfl
@[simp] theorem State.modCore_vfs (s : State) (n : Nat) (f : Core → Core) : (s.modCore n f).vfs = s.vfs := rfl
@[simp] theorem State.modCore_partlink (s : State) (n : Nat) (f : Core → Core) : (s.modCore n f).partlink = s.partlink := rfl
@[simp] theorem State.modCore_frames (s : State) (n : Nat) (f : Core → Core) : (s.modCore n f).frames = s.frames := rfl
@[simp] theorem State.modCore_root (s : State) (n : Nat) (f : Core → Core) : (s.modCore n f).root = s.root := rfl
@[simp] theorem State.modCore_msix (s : State) (n : Nat) (f : Core → Core) : (s.modCore n f).msix = s.msix := rfl
@[simp] theorem State.modCore_power (s : State) (n : Nat) (f : Core → Core) : (s.modCore n f).power = s.power := rfl
@[simp] theorem State.modCore_senses (s : State) (n : Nat) (f : Core → Core) : (s.modCore n f).senses = s.senses := rfl
@[simp] theorem State.modCore_zones (s : State) (n : Nat) (f : Core → Core) : (s.modCore n f).zones = s.zones := rfl
@[simp] theorem State.modCore_losses (s : State) (n : Nat) (f : Core → Core) : (s.modCore n f).losses = s.losses := rfl
@[simp] theorem State.modCore_recoveries (s : State) (n : Nat) (f : Core → Core) : (s.modCore n f).recoveries = s.recoveries := rfl
@[simp] theorem State.modCore_copies (s : State) (n : Nat) (f : Core → Core) : (s.modCore n f).copies = s.copies := rfl
@[simp] theorem State.modCore_contexts (s : State) (n : Nat) (f : Core → Core) : (s.modCore n f).contexts = s.contexts := rfl
@[simp] theorem State.modCore_fuses (s : State) (n : Nat) (f : Core → Core) : (s.modCore n f).fuses = s.fuses := rfl
@[simp] theorem State.modCore_retired (s : State) (n : Nat) (f : Core → Core) : (s.modCore n f).retired = s.retired := rfl
@[simp] theorem State.modCore_otherHalf (s : State) (n : Nat) (f : Core → Core) : (s.modCore n f).otherHalf = s.otherHalf := rfl
@[simp] theorem State.modCore_flashSeq (s : State) (n : Nat) (f : Core → Core) : (s.modCore n f).flashSeq = s.flashSeq := rfl
@[simp] theorem State.modCore_journal (s : State) (n : Nat) (f : Core → Core) : (s.modCore n f).journal = s.journal := rfl
@[simp] theorem State.modCore_bootHalted (s : State) (n : Nat) (f : Core → Core) : (s.modCore n f).bootHalted = s.bootHalted := rfl
@[simp] theorem State.modCore_requests (s : State) (n : Nat) (f : Core → Core) : (s.modCore n f).requests = s.requests := rfl
@[simp] theorem State.modCore_reports (s : State) (n : Nat) (f : Core → Core) : (s.modCore n f).reports = s.reports := rfl
@[simp] theorem State.modCore_dieCounters (s : State) (n : Nat) (f : Core → Core) : (s.modCore n f).dieCounters = s.dieCounters := rfl
@[simp] theorem State.modCore_rollback (s : State) (n : Nat) (f : Core → Core) : (s.modCore n f).rollback = s.rollback := rfl
@[simp] theorem State.modCore_watchdogs (s : State) (n : Nat) (f : Core → Core) : (s.modCore n f).watchdogs = s.watchdogs := rfl
@[simp] theorem State.modCore_firmware (s : State) (n : Nat) (f : Core → Core) : (s.modCore n f).firmware = s.firmware := rfl
@[simp] theorem State.modCore_fwGroups (s : State) (n : Nat) (f : Core → Core) : (s.modCore n f).fwGroups = s.fwGroups := rfl
@[simp] theorem State.modCore_security (s : State) (n : Nat) (f : Core → Core) : (s.modCore n f).security = s.security := rfl
@[simp] theorem State.modCore_portStates (s : State) (n : Nat) (f : Core → Core) : (s.modCore n f).portStates = s.portStates := rfl
@[simp] theorem State.modCore_errlog (s : State) (n : Nat) (f : Core → Core) : (s.modCore n f).errlog = s.errlog := rfl
@[simp] theorem State.modCore_control (s : State) (n : Nat) (f : Core → Core) : (s.modCore n f).control = s.control := rfl

/-! ### One slot replaced -/

@[simp] theorem State.setSlot_mem (s : State) (n : Nat) (i : SlotNo) (x : Slot) : (s.setSlot n i x).mem = s.mem := rfl
@[simp] theorem State.setSlot_full (s : State) (n : Nat) (i : SlotNo) (x : Slot) : (s.setSlot n i x).full = s.full := rfl
@[simp] theorem State.setSlot_scopes (s : State) (n : Nat) (i : SlotNo) (x : Slot) : (s.setSlot n i x).scopes = s.scopes := rfl
@[simp] theorem State.setSlot_bad (s : State) (n : Nat) (i : SlotNo) (x : Slot) : (s.setSlot n i x).bad = s.bad := rfl
@[simp] theorem State.setSlot_soft (s : State) (n : Nat) (i : SlotNo) (x : Slot) : (s.setSlot n i x).soft = s.soft := rfl
@[simp] theorem State.setSlot_corrected (s : State) (n : Nat) (i : SlotNo) (x : Slot) : (s.setSlot n i x).corrected = s.corrected := rfl
@[simp] theorem State.setSlot_chips (s : State) (n : Nat) (i : SlotNo) (x : Slot) : (s.setSlot n i x).chips = s.chips := rfl
@[simp] theorem State.setSlot_xlate (s : State) (n : Nat) (i : SlotNo) (x : Slot) : (s.setSlot n i x).xlate = s.xlate := rfl
@[simp] theorem State.setSlot_ptime (s : State) (n : Nat) (i : SlotNo) (x : Slot) : (s.setSlot n i x).ptime = s.ptime := rfl
@[simp] theorem State.setSlot_tick (s : State) (n : Nat) (i : SlotNo) (x : Slot) : (s.setSlot n i x).tick = s.tick := rfl
@[simp] theorem State.setSlot_curCore (s : State) (n : Nat) (i : SlotNo) (x : Slot) : (s.setSlot n i x).curCore = s.curCore := rfl
@[simp] theorem State.setSlot_curSlot (s : State) (n : Nat) (i : SlotNo) (x : Slot) : (s.setSlot n i x).curSlot = s.curSlot := rfl
@[simp] theorem State.setSlot_arg (s : State) (n : Nat) (i : SlotNo) (x : Slot) : (s.setSlot n i x).arg = s.arg := rfl
@[simp] theorem State.setSlot_trapped (s : State) (n : Nat) (i : SlotNo) (x : Slot) : (s.setSlot n i x).trapped = s.trapped := rfl
@[simp] theorem State.setSlot_due (s : State) (n : Nat) (i : SlotNo) (x : Slot) : (s.setSlot n i x).due = s.due := rfl
@[simp] theorem State.setSlot_inputs (s : State) (n : Nat) (i : SlotNo) (x : Slot) : (s.setSlot n i x).inputs = s.inputs := rfl
@[simp] theorem State.setSlot_layout (s : State) (n : Nat) (i : SlotNo) (x : Slot) : (s.setSlot n i x).layout = s.layout := rfl
@[simp] theorem State.setSlot_shadow (s : State) (n : Nat) (i : SlotNo) (x : Slot) : (s.setSlot n i x).shadow = s.shadow := rfl
@[simp] theorem State.setSlot_commit (s : State) (n : Nat) (i : SlotNo) (x : Slot) : (s.setSlot n i x).commit = s.commit := rfl
@[simp] theorem State.setSlot_jobs (s : State) (n : Nat) (i : SlotNo) (x : Slot) : (s.setSlot n i x).jobs = s.jobs := rfl
@[simp] theorem State.setSlot_nextJob (s : State) (n : Nat) (i : SlotNo) (x : Slot) : (s.setSlot n i x).nextJob = s.nextJob := rfl
@[simp] theorem State.setSlot_groups (s : State) (n : Nat) (i : SlotNo) (x : Slot) : (s.setSlot n i x).groups = s.groups := rfl
@[simp] theorem State.setSlot_uses (s : State) (n : Nat) (i : SlotNo) (x : Slot) : (s.setSlot n i x).uses = s.uses := rfl
@[simp] theorem State.setSlot_collUses (s : State) (n : Nat) (i : SlotNo) (x : Slot) : (s.setSlot n i x).collUses = s.collUses := rfl
@[simp] theorem State.setSlot_queues (s : State) (n : Nat) (i : SlotNo) (x : Slot) : (s.setSlot n i x).queues = s.queues := rfl
@[simp] theorem State.setSlot_lastQueue (s : State) (n : Nat) (i : SlotNo) (x : Slot) : (s.setSlot n i x).lastQueue = s.lastQueue := rfl
@[simp] theorem State.setSlot_reading (s : State) (n : Nat) (i : SlotNo) (x : Slot) : (s.setSlot n i x).reading = s.reading := rfl
@[simp] theorem State.setSlot_vfs (s : State) (n : Nat) (i : SlotNo) (x : Slot) : (s.setSlot n i x).vfs = s.vfs := rfl
@[simp] theorem State.setSlot_partlink (s : State) (n : Nat) (i : SlotNo) (x : Slot) : (s.setSlot n i x).partlink = s.partlink := rfl
@[simp] theorem State.setSlot_frames (s : State) (n : Nat) (i : SlotNo) (x : Slot) : (s.setSlot n i x).frames = s.frames := rfl
@[simp] theorem State.setSlot_root (s : State) (n : Nat) (i : SlotNo) (x : Slot) : (s.setSlot n i x).root = s.root := rfl
@[simp] theorem State.setSlot_msix (s : State) (n : Nat) (i : SlotNo) (x : Slot) : (s.setSlot n i x).msix = s.msix := rfl
@[simp] theorem State.setSlot_power (s : State) (n : Nat) (i : SlotNo) (x : Slot) : (s.setSlot n i x).power = s.power := rfl
@[simp] theorem State.setSlot_senses (s : State) (n : Nat) (i : SlotNo) (x : Slot) : (s.setSlot n i x).senses = s.senses := rfl
@[simp] theorem State.setSlot_zones (s : State) (n : Nat) (i : SlotNo) (x : Slot) : (s.setSlot n i x).zones = s.zones := rfl
@[simp] theorem State.setSlot_losses (s : State) (n : Nat) (i : SlotNo) (x : Slot) : (s.setSlot n i x).losses = s.losses := rfl
@[simp] theorem State.setSlot_recoveries (s : State) (n : Nat) (i : SlotNo) (x : Slot) : (s.setSlot n i x).recoveries = s.recoveries := rfl
@[simp] theorem State.setSlot_copies (s : State) (n : Nat) (i : SlotNo) (x : Slot) : (s.setSlot n i x).copies = s.copies := rfl
@[simp] theorem State.setSlot_contexts (s : State) (n : Nat) (i : SlotNo) (x : Slot) : (s.setSlot n i x).contexts = s.contexts := rfl
@[simp] theorem State.setSlot_fuses (s : State) (n : Nat) (i : SlotNo) (x : Slot) : (s.setSlot n i x).fuses = s.fuses := rfl
@[simp] theorem State.setSlot_retired (s : State) (n : Nat) (i : SlotNo) (x : Slot) : (s.setSlot n i x).retired = s.retired := rfl
@[simp] theorem State.setSlot_otherHalf (s : State) (n : Nat) (i : SlotNo) (x : Slot) : (s.setSlot n i x).otherHalf = s.otherHalf := rfl
@[simp] theorem State.setSlot_flashSeq (s : State) (n : Nat) (i : SlotNo) (x : Slot) : (s.setSlot n i x).flashSeq = s.flashSeq := rfl
@[simp] theorem State.setSlot_journal (s : State) (n : Nat) (i : SlotNo) (x : Slot) : (s.setSlot n i x).journal = s.journal := rfl
@[simp] theorem State.setSlot_bootHalted (s : State) (n : Nat) (i : SlotNo) (x : Slot) : (s.setSlot n i x).bootHalted = s.bootHalted := rfl
@[simp] theorem State.setSlot_requests (s : State) (n : Nat) (i : SlotNo) (x : Slot) : (s.setSlot n i x).requests = s.requests := rfl
@[simp] theorem State.setSlot_reports (s : State) (n : Nat) (i : SlotNo) (x : Slot) : (s.setSlot n i x).reports = s.reports := rfl
@[simp] theorem State.setSlot_dieCounters (s : State) (n : Nat) (i : SlotNo) (x : Slot) : (s.setSlot n i x).dieCounters = s.dieCounters := rfl
@[simp] theorem State.setSlot_rollback (s : State) (n : Nat) (i : SlotNo) (x : Slot) : (s.setSlot n i x).rollback = s.rollback := rfl
@[simp] theorem State.setSlot_watchdogs (s : State) (n : Nat) (i : SlotNo) (x : Slot) : (s.setSlot n i x).watchdogs = s.watchdogs := rfl
@[simp] theorem State.setSlot_firmware (s : State) (n : Nat) (i : SlotNo) (x : Slot) : (s.setSlot n i x).firmware = s.firmware := rfl
@[simp] theorem State.setSlot_fwGroups (s : State) (n : Nat) (i : SlotNo) (x : Slot) : (s.setSlot n i x).fwGroups = s.fwGroups := rfl
@[simp] theorem State.setSlot_security (s : State) (n : Nat) (i : SlotNo) (x : Slot) : (s.setSlot n i x).security = s.security := rfl
@[simp] theorem State.setSlot_portStates (s : State) (n : Nat) (i : SlotNo) (x : Slot) : (s.setSlot n i x).portStates = s.portStates := rfl
@[simp] theorem State.setSlot_errlog (s : State) (n : Nat) (i : SlotNo) (x : Slot) : (s.setSlot n i x).errlog = s.errlog := rfl
@[simp] theorem State.setSlot_control (s : State) (n : Nat) (i : SlotNo) (x : Slot) : (s.setSlot n i x).control = s.control := rfl

/-! ### One slot changed -/

@[simp] theorem State.modSlot_mem (s : State) (n : Nat) (i : SlotNo) (f : Slot → Slot) : (s.modSlot n i f).mem = s.mem := rfl
@[simp] theorem State.modSlot_full (s : State) (n : Nat) (i : SlotNo) (f : Slot → Slot) : (s.modSlot n i f).full = s.full := rfl
@[simp] theorem State.modSlot_scopes (s : State) (n : Nat) (i : SlotNo) (f : Slot → Slot) : (s.modSlot n i f).scopes = s.scopes := rfl
@[simp] theorem State.modSlot_bad (s : State) (n : Nat) (i : SlotNo) (f : Slot → Slot) : (s.modSlot n i f).bad = s.bad := rfl
@[simp] theorem State.modSlot_soft (s : State) (n : Nat) (i : SlotNo) (f : Slot → Slot) : (s.modSlot n i f).soft = s.soft := rfl
@[simp] theorem State.modSlot_corrected (s : State) (n : Nat) (i : SlotNo) (f : Slot → Slot) : (s.modSlot n i f).corrected = s.corrected := rfl
@[simp] theorem State.modSlot_chips (s : State) (n : Nat) (i : SlotNo) (f : Slot → Slot) : (s.modSlot n i f).chips = s.chips := rfl
@[simp] theorem State.modSlot_xlate (s : State) (n : Nat) (i : SlotNo) (f : Slot → Slot) : (s.modSlot n i f).xlate = s.xlate := rfl
@[simp] theorem State.modSlot_ptime (s : State) (n : Nat) (i : SlotNo) (f : Slot → Slot) : (s.modSlot n i f).ptime = s.ptime := rfl
@[simp] theorem State.modSlot_tick (s : State) (n : Nat) (i : SlotNo) (f : Slot → Slot) : (s.modSlot n i f).tick = s.tick := rfl
@[simp] theorem State.modSlot_curCore (s : State) (n : Nat) (i : SlotNo) (f : Slot → Slot) : (s.modSlot n i f).curCore = s.curCore := rfl
@[simp] theorem State.modSlot_curSlot (s : State) (n : Nat) (i : SlotNo) (f : Slot → Slot) : (s.modSlot n i f).curSlot = s.curSlot := rfl
@[simp] theorem State.modSlot_arg (s : State) (n : Nat) (i : SlotNo) (f : Slot → Slot) : (s.modSlot n i f).arg = s.arg := rfl
@[simp] theorem State.modSlot_trapped (s : State) (n : Nat) (i : SlotNo) (f : Slot → Slot) : (s.modSlot n i f).trapped = s.trapped := rfl
@[simp] theorem State.modSlot_due (s : State) (n : Nat) (i : SlotNo) (f : Slot → Slot) : (s.modSlot n i f).due = s.due := rfl
@[simp] theorem State.modSlot_inputs (s : State) (n : Nat) (i : SlotNo) (f : Slot → Slot) : (s.modSlot n i f).inputs = s.inputs := rfl
@[simp] theorem State.modSlot_layout (s : State) (n : Nat) (i : SlotNo) (f : Slot → Slot) : (s.modSlot n i f).layout = s.layout := rfl
@[simp] theorem State.modSlot_shadow (s : State) (n : Nat) (i : SlotNo) (f : Slot → Slot) : (s.modSlot n i f).shadow = s.shadow := rfl
@[simp] theorem State.modSlot_commit (s : State) (n : Nat) (i : SlotNo) (f : Slot → Slot) : (s.modSlot n i f).commit = s.commit := rfl
@[simp] theorem State.modSlot_jobs (s : State) (n : Nat) (i : SlotNo) (f : Slot → Slot) : (s.modSlot n i f).jobs = s.jobs := rfl
@[simp] theorem State.modSlot_nextJob (s : State) (n : Nat) (i : SlotNo) (f : Slot → Slot) : (s.modSlot n i f).nextJob = s.nextJob := rfl
@[simp] theorem State.modSlot_groups (s : State) (n : Nat) (i : SlotNo) (f : Slot → Slot) : (s.modSlot n i f).groups = s.groups := rfl
@[simp] theorem State.modSlot_uses (s : State) (n : Nat) (i : SlotNo) (f : Slot → Slot) : (s.modSlot n i f).uses = s.uses := rfl
@[simp] theorem State.modSlot_collUses (s : State) (n : Nat) (i : SlotNo) (f : Slot → Slot) : (s.modSlot n i f).collUses = s.collUses := rfl
@[simp] theorem State.modSlot_queues (s : State) (n : Nat) (i : SlotNo) (f : Slot → Slot) : (s.modSlot n i f).queues = s.queues := rfl
@[simp] theorem State.modSlot_lastQueue (s : State) (n : Nat) (i : SlotNo) (f : Slot → Slot) : (s.modSlot n i f).lastQueue = s.lastQueue := rfl
@[simp] theorem State.modSlot_reading (s : State) (n : Nat) (i : SlotNo) (f : Slot → Slot) : (s.modSlot n i f).reading = s.reading := rfl
@[simp] theorem State.modSlot_vfs (s : State) (n : Nat) (i : SlotNo) (f : Slot → Slot) : (s.modSlot n i f).vfs = s.vfs := rfl
@[simp] theorem State.modSlot_partlink (s : State) (n : Nat) (i : SlotNo) (f : Slot → Slot) : (s.modSlot n i f).partlink = s.partlink := rfl
@[simp] theorem State.modSlot_frames (s : State) (n : Nat) (i : SlotNo) (f : Slot → Slot) : (s.modSlot n i f).frames = s.frames := rfl
@[simp] theorem State.modSlot_root (s : State) (n : Nat) (i : SlotNo) (f : Slot → Slot) : (s.modSlot n i f).root = s.root := rfl
@[simp] theorem State.modSlot_msix (s : State) (n : Nat) (i : SlotNo) (f : Slot → Slot) : (s.modSlot n i f).msix = s.msix := rfl
@[simp] theorem State.modSlot_power (s : State) (n : Nat) (i : SlotNo) (f : Slot → Slot) : (s.modSlot n i f).power = s.power := rfl
@[simp] theorem State.modSlot_senses (s : State) (n : Nat) (i : SlotNo) (f : Slot → Slot) : (s.modSlot n i f).senses = s.senses := rfl
@[simp] theorem State.modSlot_zones (s : State) (n : Nat) (i : SlotNo) (f : Slot → Slot) : (s.modSlot n i f).zones = s.zones := rfl
@[simp] theorem State.modSlot_losses (s : State) (n : Nat) (i : SlotNo) (f : Slot → Slot) : (s.modSlot n i f).losses = s.losses := rfl
@[simp] theorem State.modSlot_recoveries (s : State) (n : Nat) (i : SlotNo) (f : Slot → Slot) : (s.modSlot n i f).recoveries = s.recoveries := rfl
@[simp] theorem State.modSlot_copies (s : State) (n : Nat) (i : SlotNo) (f : Slot → Slot) : (s.modSlot n i f).copies = s.copies := rfl
@[simp] theorem State.modSlot_contexts (s : State) (n : Nat) (i : SlotNo) (f : Slot → Slot) : (s.modSlot n i f).contexts = s.contexts := rfl
@[simp] theorem State.modSlot_fuses (s : State) (n : Nat) (i : SlotNo) (f : Slot → Slot) : (s.modSlot n i f).fuses = s.fuses := rfl
@[simp] theorem State.modSlot_retired (s : State) (n : Nat) (i : SlotNo) (f : Slot → Slot) : (s.modSlot n i f).retired = s.retired := rfl
@[simp] theorem State.modSlot_otherHalf (s : State) (n : Nat) (i : SlotNo) (f : Slot → Slot) : (s.modSlot n i f).otherHalf = s.otherHalf := rfl
@[simp] theorem State.modSlot_flashSeq (s : State) (n : Nat) (i : SlotNo) (f : Slot → Slot) : (s.modSlot n i f).flashSeq = s.flashSeq := rfl
@[simp] theorem State.modSlot_journal (s : State) (n : Nat) (i : SlotNo) (f : Slot → Slot) : (s.modSlot n i f).journal = s.journal := rfl
@[simp] theorem State.modSlot_bootHalted (s : State) (n : Nat) (i : SlotNo) (f : Slot → Slot) : (s.modSlot n i f).bootHalted = s.bootHalted := rfl
@[simp] theorem State.modSlot_requests (s : State) (n : Nat) (i : SlotNo) (f : Slot → Slot) : (s.modSlot n i f).requests = s.requests := rfl
@[simp] theorem State.modSlot_reports (s : State) (n : Nat) (i : SlotNo) (f : Slot → Slot) : (s.modSlot n i f).reports = s.reports := rfl
@[simp] theorem State.modSlot_dieCounters (s : State) (n : Nat) (i : SlotNo) (f : Slot → Slot) : (s.modSlot n i f).dieCounters = s.dieCounters := rfl
@[simp] theorem State.modSlot_rollback (s : State) (n : Nat) (i : SlotNo) (f : Slot → Slot) : (s.modSlot n i f).rollback = s.rollback := rfl
@[simp] theorem State.modSlot_watchdogs (s : State) (n : Nat) (i : SlotNo) (f : Slot → Slot) : (s.modSlot n i f).watchdogs = s.watchdogs := rfl
@[simp] theorem State.modSlot_firmware (s : State) (n : Nat) (i : SlotNo) (f : Slot → Slot) : (s.modSlot n i f).firmware = s.firmware := rfl
@[simp] theorem State.modSlot_fwGroups (s : State) (n : Nat) (i : SlotNo) (f : Slot → Slot) : (s.modSlot n i f).fwGroups = s.fwGroups := rfl
@[simp] theorem State.modSlot_security (s : State) (n : Nat) (i : SlotNo) (f : Slot → Slot) : (s.modSlot n i f).security = s.security := rfl
@[simp] theorem State.modSlot_portStates (s : State) (n : Nat) (i : SlotNo) (f : Slot → Slot) : (s.modSlot n i f).portStates = s.portStates := rfl
@[simp] theorem State.modSlot_errlog (s : State) (n : Nat) (i : SlotNo) (f : Slot → Slot) : (s.modSlot n i f).errlog = s.errlog := rfl
@[simp] theorem State.modSlot_control (s : State) (n : Nat) (i : SlotNo) (f : Slot → Slot) : (s.modSlot n i f).control = s.control := rfl

/-! ### The executing slot changed -/

@[simp] theorem State.modMe_mem (s : State) (f : Slot → Slot) : (s.modMe f).mem = s.mem := rfl
@[simp] theorem State.modMe_full (s : State) (f : Slot → Slot) : (s.modMe f).full = s.full := rfl
@[simp] theorem State.modMe_scopes (s : State) (f : Slot → Slot) : (s.modMe f).scopes = s.scopes := rfl
@[simp] theorem State.modMe_bad (s : State) (f : Slot → Slot) : (s.modMe f).bad = s.bad := rfl
@[simp] theorem State.modMe_soft (s : State) (f : Slot → Slot) : (s.modMe f).soft = s.soft := rfl
@[simp] theorem State.modMe_corrected (s : State) (f : Slot → Slot) : (s.modMe f).corrected = s.corrected := rfl
@[simp] theorem State.modMe_chips (s : State) (f : Slot → Slot) : (s.modMe f).chips = s.chips := rfl
@[simp] theorem State.modMe_xlate (s : State) (f : Slot → Slot) : (s.modMe f).xlate = s.xlate := rfl
@[simp] theorem State.modMe_ptime (s : State) (f : Slot → Slot) : (s.modMe f).ptime = s.ptime := rfl
@[simp] theorem State.modMe_tick (s : State) (f : Slot → Slot) : (s.modMe f).tick = s.tick := rfl
@[simp] theorem State.modMe_curCore (s : State) (f : Slot → Slot) : (s.modMe f).curCore = s.curCore := rfl
@[simp] theorem State.modMe_curSlot (s : State) (f : Slot → Slot) : (s.modMe f).curSlot = s.curSlot := rfl
@[simp] theorem State.modMe_arg (s : State) (f : Slot → Slot) : (s.modMe f).arg = s.arg := rfl
@[simp] theorem State.modMe_trapped (s : State) (f : Slot → Slot) : (s.modMe f).trapped = s.trapped := rfl
@[simp] theorem State.modMe_due (s : State) (f : Slot → Slot) : (s.modMe f).due = s.due := rfl
@[simp] theorem State.modMe_inputs (s : State) (f : Slot → Slot) : (s.modMe f).inputs = s.inputs := rfl
@[simp] theorem State.modMe_layout (s : State) (f : Slot → Slot) : (s.modMe f).layout = s.layout := rfl
@[simp] theorem State.modMe_shadow (s : State) (f : Slot → Slot) : (s.modMe f).shadow = s.shadow := rfl
@[simp] theorem State.modMe_commit (s : State) (f : Slot → Slot) : (s.modMe f).commit = s.commit := rfl
@[simp] theorem State.modMe_jobs (s : State) (f : Slot → Slot) : (s.modMe f).jobs = s.jobs := rfl
@[simp] theorem State.modMe_nextJob (s : State) (f : Slot → Slot) : (s.modMe f).nextJob = s.nextJob := rfl
@[simp] theorem State.modMe_groups (s : State) (f : Slot → Slot) : (s.modMe f).groups = s.groups := rfl
@[simp] theorem State.modMe_uses (s : State) (f : Slot → Slot) : (s.modMe f).uses = s.uses := rfl
@[simp] theorem State.modMe_collUses (s : State) (f : Slot → Slot) : (s.modMe f).collUses = s.collUses := rfl
@[simp] theorem State.modMe_queues (s : State) (f : Slot → Slot) : (s.modMe f).queues = s.queues := rfl
@[simp] theorem State.modMe_lastQueue (s : State) (f : Slot → Slot) : (s.modMe f).lastQueue = s.lastQueue := rfl
@[simp] theorem State.modMe_reading (s : State) (f : Slot → Slot) : (s.modMe f).reading = s.reading := rfl
@[simp] theorem State.modMe_vfs (s : State) (f : Slot → Slot) : (s.modMe f).vfs = s.vfs := rfl
@[simp] theorem State.modMe_partlink (s : State) (f : Slot → Slot) : (s.modMe f).partlink = s.partlink := rfl
@[simp] theorem State.modMe_frames (s : State) (f : Slot → Slot) : (s.modMe f).frames = s.frames := rfl
@[simp] theorem State.modMe_root (s : State) (f : Slot → Slot) : (s.modMe f).root = s.root := rfl
@[simp] theorem State.modMe_msix (s : State) (f : Slot → Slot) : (s.modMe f).msix = s.msix := rfl
@[simp] theorem State.modMe_power (s : State) (f : Slot → Slot) : (s.modMe f).power = s.power := rfl
@[simp] theorem State.modMe_senses (s : State) (f : Slot → Slot) : (s.modMe f).senses = s.senses := rfl
@[simp] theorem State.modMe_zones (s : State) (f : Slot → Slot) : (s.modMe f).zones = s.zones := rfl
@[simp] theorem State.modMe_losses (s : State) (f : Slot → Slot) : (s.modMe f).losses = s.losses := rfl
@[simp] theorem State.modMe_recoveries (s : State) (f : Slot → Slot) : (s.modMe f).recoveries = s.recoveries := rfl
@[simp] theorem State.modMe_copies (s : State) (f : Slot → Slot) : (s.modMe f).copies = s.copies := rfl
@[simp] theorem State.modMe_contexts (s : State) (f : Slot → Slot) : (s.modMe f).contexts = s.contexts := rfl
@[simp] theorem State.modMe_fuses (s : State) (f : Slot → Slot) : (s.modMe f).fuses = s.fuses := rfl
@[simp] theorem State.modMe_retired (s : State) (f : Slot → Slot) : (s.modMe f).retired = s.retired := rfl
@[simp] theorem State.modMe_otherHalf (s : State) (f : Slot → Slot) : (s.modMe f).otherHalf = s.otherHalf := rfl
@[simp] theorem State.modMe_flashSeq (s : State) (f : Slot → Slot) : (s.modMe f).flashSeq = s.flashSeq := rfl
@[simp] theorem State.modMe_journal (s : State) (f : Slot → Slot) : (s.modMe f).journal = s.journal := rfl
@[simp] theorem State.modMe_bootHalted (s : State) (f : Slot → Slot) : (s.modMe f).bootHalted = s.bootHalted := rfl
@[simp] theorem State.modMe_requests (s : State) (f : Slot → Slot) : (s.modMe f).requests = s.requests := rfl
@[simp] theorem State.modMe_reports (s : State) (f : Slot → Slot) : (s.modMe f).reports = s.reports := rfl
@[simp] theorem State.modMe_dieCounters (s : State) (f : Slot → Slot) : (s.modMe f).dieCounters = s.dieCounters := rfl
@[simp] theorem State.modMe_rollback (s : State) (f : Slot → Slot) : (s.modMe f).rollback = s.rollback := rfl
@[simp] theorem State.modMe_watchdogs (s : State) (f : Slot → Slot) : (s.modMe f).watchdogs = s.watchdogs := rfl
@[simp] theorem State.modMe_firmware (s : State) (f : Slot → Slot) : (s.modMe f).firmware = s.firmware := rfl
@[simp] theorem State.modMe_fwGroups (s : State) (f : Slot → Slot) : (s.modMe f).fwGroups = s.fwGroups := rfl
@[simp] theorem State.modMe_security (s : State) (f : Slot → Slot) : (s.modMe f).security = s.security := rfl
@[simp] theorem State.modMe_portStates (s : State) (f : Slot → Slot) : (s.modMe f).portStates = s.portStates := rfl
@[simp] theorem State.modMe_errlog (s : State) (f : Slot → Slot) : (s.modMe f).errlog = s.errlog := rfl
@[simp] theorem State.modMe_control (s : State) (f : Slot → Slot) : (s.modMe f).control = s.control := rfl

/-! ### The executing core changed -/

@[simp] theorem State.modHere_mem (s : State) (f : Core → Core) : (s.modHere f).mem = s.mem := rfl
@[simp] theorem State.modHere_full (s : State) (f : Core → Core) : (s.modHere f).full = s.full := rfl
@[simp] theorem State.modHere_scopes (s : State) (f : Core → Core) : (s.modHere f).scopes = s.scopes := rfl
@[simp] theorem State.modHere_bad (s : State) (f : Core → Core) : (s.modHere f).bad = s.bad := rfl
@[simp] theorem State.modHere_soft (s : State) (f : Core → Core) : (s.modHere f).soft = s.soft := rfl
@[simp] theorem State.modHere_corrected (s : State) (f : Core → Core) : (s.modHere f).corrected = s.corrected := rfl
@[simp] theorem State.modHere_chips (s : State) (f : Core → Core) : (s.modHere f).chips = s.chips := rfl
@[simp] theorem State.modHere_xlate (s : State) (f : Core → Core) : (s.modHere f).xlate = s.xlate := rfl
@[simp] theorem State.modHere_ptime (s : State) (f : Core → Core) : (s.modHere f).ptime = s.ptime := rfl
@[simp] theorem State.modHere_tick (s : State) (f : Core → Core) : (s.modHere f).tick = s.tick := rfl
@[simp] theorem State.modHere_curCore (s : State) (f : Core → Core) : (s.modHere f).curCore = s.curCore := rfl
@[simp] theorem State.modHere_curSlot (s : State) (f : Core → Core) : (s.modHere f).curSlot = s.curSlot := rfl
@[simp] theorem State.modHere_arg (s : State) (f : Core → Core) : (s.modHere f).arg = s.arg := rfl
@[simp] theorem State.modHere_trapped (s : State) (f : Core → Core) : (s.modHere f).trapped = s.trapped := rfl
@[simp] theorem State.modHere_due (s : State) (f : Core → Core) : (s.modHere f).due = s.due := rfl
@[simp] theorem State.modHere_inputs (s : State) (f : Core → Core) : (s.modHere f).inputs = s.inputs := rfl
@[simp] theorem State.modHere_layout (s : State) (f : Core → Core) : (s.modHere f).layout = s.layout := rfl
@[simp] theorem State.modHere_shadow (s : State) (f : Core → Core) : (s.modHere f).shadow = s.shadow := rfl
@[simp] theorem State.modHere_commit (s : State) (f : Core → Core) : (s.modHere f).commit = s.commit := rfl
@[simp] theorem State.modHere_jobs (s : State) (f : Core → Core) : (s.modHere f).jobs = s.jobs := rfl
@[simp] theorem State.modHere_nextJob (s : State) (f : Core → Core) : (s.modHere f).nextJob = s.nextJob := rfl
@[simp] theorem State.modHere_groups (s : State) (f : Core → Core) : (s.modHere f).groups = s.groups := rfl
@[simp] theorem State.modHere_uses (s : State) (f : Core → Core) : (s.modHere f).uses = s.uses := rfl
@[simp] theorem State.modHere_collUses (s : State) (f : Core → Core) : (s.modHere f).collUses = s.collUses := rfl
@[simp] theorem State.modHere_queues (s : State) (f : Core → Core) : (s.modHere f).queues = s.queues := rfl
@[simp] theorem State.modHere_lastQueue (s : State) (f : Core → Core) : (s.modHere f).lastQueue = s.lastQueue := rfl
@[simp] theorem State.modHere_reading (s : State) (f : Core → Core) : (s.modHere f).reading = s.reading := rfl
@[simp] theorem State.modHere_vfs (s : State) (f : Core → Core) : (s.modHere f).vfs = s.vfs := rfl
@[simp] theorem State.modHere_partlink (s : State) (f : Core → Core) : (s.modHere f).partlink = s.partlink := rfl
@[simp] theorem State.modHere_frames (s : State) (f : Core → Core) : (s.modHere f).frames = s.frames := rfl
@[simp] theorem State.modHere_root (s : State) (f : Core → Core) : (s.modHere f).root = s.root := rfl
@[simp] theorem State.modHere_msix (s : State) (f : Core → Core) : (s.modHere f).msix = s.msix := rfl
@[simp] theorem State.modHere_power (s : State) (f : Core → Core) : (s.modHere f).power = s.power := rfl
@[simp] theorem State.modHere_senses (s : State) (f : Core → Core) : (s.modHere f).senses = s.senses := rfl
@[simp] theorem State.modHere_zones (s : State) (f : Core → Core) : (s.modHere f).zones = s.zones := rfl
@[simp] theorem State.modHere_losses (s : State) (f : Core → Core) : (s.modHere f).losses = s.losses := rfl
@[simp] theorem State.modHere_recoveries (s : State) (f : Core → Core) : (s.modHere f).recoveries = s.recoveries := rfl
@[simp] theorem State.modHere_copies (s : State) (f : Core → Core) : (s.modHere f).copies = s.copies := rfl
@[simp] theorem State.modHere_contexts (s : State) (f : Core → Core) : (s.modHere f).contexts = s.contexts := rfl
@[simp] theorem State.modHere_fuses (s : State) (f : Core → Core) : (s.modHere f).fuses = s.fuses := rfl
@[simp] theorem State.modHere_retired (s : State) (f : Core → Core) : (s.modHere f).retired = s.retired := rfl
@[simp] theorem State.modHere_otherHalf (s : State) (f : Core → Core) : (s.modHere f).otherHalf = s.otherHalf := rfl
@[simp] theorem State.modHere_flashSeq (s : State) (f : Core → Core) : (s.modHere f).flashSeq = s.flashSeq := rfl
@[simp] theorem State.modHere_journal (s : State) (f : Core → Core) : (s.modHere f).journal = s.journal := rfl
@[simp] theorem State.modHere_bootHalted (s : State) (f : Core → Core) : (s.modHere f).bootHalted = s.bootHalted := rfl
@[simp] theorem State.modHere_requests (s : State) (f : Core → Core) : (s.modHere f).requests = s.requests := rfl
@[simp] theorem State.modHere_reports (s : State) (f : Core → Core) : (s.modHere f).reports = s.reports := rfl
@[simp] theorem State.modHere_dieCounters (s : State) (f : Core → Core) : (s.modHere f).dieCounters = s.dieCounters := rfl
@[simp] theorem State.modHere_rollback (s : State) (f : Core → Core) : (s.modHere f).rollback = s.rollback := rfl
@[simp] theorem State.modHere_watchdogs (s : State) (f : Core → Core) : (s.modHere f).watchdogs = s.watchdogs := rfl
@[simp] theorem State.modHere_firmware (s : State) (f : Core → Core) : (s.modHere f).firmware = s.firmware := rfl
@[simp] theorem State.modHere_fwGroups (s : State) (f : Core → Core) : (s.modHere f).fwGroups = s.fwGroups := rfl
@[simp] theorem State.modHere_security (s : State) (f : Core → Core) : (s.modHere f).security = s.security := rfl
@[simp] theorem State.modHere_portStates (s : State) (f : Core → Core) : (s.modHere f).portStates = s.portStates := rfl
@[simp] theorem State.modHere_errlog (s : State) (f : Core → Core) : (s.modHere f).errlog = s.errlog := rfl
@[simp] theorem State.modHere_control (s : State) (f : Core → Core) : (s.modHere f).control = s.control := rfl

/-! ### A step put among those that wait -/

@[simp] theorem State.send_mem (s : State) (p : Option (Bool × Nat × Nat)) (k : Instr) (a : Arg) : (s.send p k a).mem = s.mem := rfl
@[simp] theorem State.send_full (s : State) (p : Option (Bool × Nat × Nat)) (k : Instr) (a : Arg) : (s.send p k a).full = s.full := rfl
@[simp] theorem State.send_scopes (s : State) (p : Option (Bool × Nat × Nat)) (k : Instr) (a : Arg) : (s.send p k a).scopes = s.scopes := rfl
@[simp] theorem State.send_bad (s : State) (p : Option (Bool × Nat × Nat)) (k : Instr) (a : Arg) : (s.send p k a).bad = s.bad := rfl
@[simp] theorem State.send_soft (s : State) (p : Option (Bool × Nat × Nat)) (k : Instr) (a : Arg) : (s.send p k a).soft = s.soft := rfl
@[simp] theorem State.send_corrected (s : State) (p : Option (Bool × Nat × Nat)) (k : Instr) (a : Arg) : (s.send p k a).corrected = s.corrected := rfl
@[simp] theorem State.send_cores (s : State) (p : Option (Bool × Nat × Nat)) (k : Instr) (a : Arg) : (s.send p k a).cores = s.cores := rfl
@[simp] theorem State.send_chips (s : State) (p : Option (Bool × Nat × Nat)) (k : Instr) (a : Arg) : (s.send p k a).chips = s.chips := rfl
@[simp] theorem State.send_xlate (s : State) (p : Option (Bool × Nat × Nat)) (k : Instr) (a : Arg) : (s.send p k a).xlate = s.xlate := rfl
@[simp] theorem State.send_ptime (s : State) (p : Option (Bool × Nat × Nat)) (k : Instr) (a : Arg) : (s.send p k a).ptime = s.ptime := rfl
@[simp] theorem State.send_tick (s : State) (p : Option (Bool × Nat × Nat)) (k : Instr) (a : Arg) : (s.send p k a).tick = s.tick := rfl
@[simp] theorem State.send_curCore (s : State) (p : Option (Bool × Nat × Nat)) (k : Instr) (a : Arg) : (s.send p k a).curCore = s.curCore := rfl
@[simp] theorem State.send_curSlot (s : State) (p : Option (Bool × Nat × Nat)) (k : Instr) (a : Arg) : (s.send p k a).curSlot = s.curSlot := rfl
@[simp] theorem State.send_arg (s : State) (p : Option (Bool × Nat × Nat)) (k : Instr) (a : Arg) : (s.send p k a).arg = s.arg := rfl
@[simp] theorem State.send_trapped (s : State) (p : Option (Bool × Nat × Nat)) (k : Instr) (a : Arg) : (s.send p k a).trapped = s.trapped := rfl
@[simp] theorem State.send_inputs (s : State) (p : Option (Bool × Nat × Nat)) (k : Instr) (a : Arg) : (s.send p k a).inputs = s.inputs := rfl
@[simp] theorem State.send_layout (s : State) (p : Option (Bool × Nat × Nat)) (k : Instr) (a : Arg) : (s.send p k a).layout = s.layout := rfl
@[simp] theorem State.send_shadow (s : State) (p : Option (Bool × Nat × Nat)) (k : Instr) (a : Arg) : (s.send p k a).shadow = s.shadow := rfl
@[simp] theorem State.send_commit (s : State) (p : Option (Bool × Nat × Nat)) (k : Instr) (a : Arg) : (s.send p k a).commit = s.commit := rfl
@[simp] theorem State.send_jobs (s : State) (p : Option (Bool × Nat × Nat)) (k : Instr) (a : Arg) : (s.send p k a).jobs = s.jobs := rfl
@[simp] theorem State.send_nextJob (s : State) (p : Option (Bool × Nat × Nat)) (k : Instr) (a : Arg) : (s.send p k a).nextJob = s.nextJob := rfl
@[simp] theorem State.send_groups (s : State) (p : Option (Bool × Nat × Nat)) (k : Instr) (a : Arg) : (s.send p k a).groups = s.groups := rfl
@[simp] theorem State.send_uses (s : State) (p : Option (Bool × Nat × Nat)) (k : Instr) (a : Arg) : (s.send p k a).uses = s.uses := rfl
@[simp] theorem State.send_collUses (s : State) (p : Option (Bool × Nat × Nat)) (k : Instr) (a : Arg) : (s.send p k a).collUses = s.collUses := rfl
@[simp] theorem State.send_queues (s : State) (p : Option (Bool × Nat × Nat)) (k : Instr) (a : Arg) : (s.send p k a).queues = s.queues := rfl
@[simp] theorem State.send_lastQueue (s : State) (p : Option (Bool × Nat × Nat)) (k : Instr) (a : Arg) : (s.send p k a).lastQueue = s.lastQueue := rfl
@[simp] theorem State.send_reading (s : State) (p : Option (Bool × Nat × Nat)) (k : Instr) (a : Arg) : (s.send p k a).reading = s.reading := rfl
@[simp] theorem State.send_vfs (s : State) (p : Option (Bool × Nat × Nat)) (k : Instr) (a : Arg) : (s.send p k a).vfs = s.vfs := rfl
@[simp] theorem State.send_partlink (s : State) (p : Option (Bool × Nat × Nat)) (k : Instr) (a : Arg) : (s.send p k a).partlink = s.partlink := rfl
@[simp] theorem State.send_frames (s : State) (p : Option (Bool × Nat × Nat)) (k : Instr) (a : Arg) : (s.send p k a).frames = s.frames := rfl
@[simp] theorem State.send_root (s : State) (p : Option (Bool × Nat × Nat)) (k : Instr) (a : Arg) : (s.send p k a).root = s.root := rfl
@[simp] theorem State.send_msix (s : State) (p : Option (Bool × Nat × Nat)) (k : Instr) (a : Arg) : (s.send p k a).msix = s.msix := rfl
@[simp] theorem State.send_power (s : State) (p : Option (Bool × Nat × Nat)) (k : Instr) (a : Arg) : (s.send p k a).power = s.power := rfl
@[simp] theorem State.send_senses (s : State) (p : Option (Bool × Nat × Nat)) (k : Instr) (a : Arg) : (s.send p k a).senses = s.senses := rfl
@[simp] theorem State.send_zones (s : State) (p : Option (Bool × Nat × Nat)) (k : Instr) (a : Arg) : (s.send p k a).zones = s.zones := rfl
@[simp] theorem State.send_losses (s : State) (p : Option (Bool × Nat × Nat)) (k : Instr) (a : Arg) : (s.send p k a).losses = s.losses := rfl
@[simp] theorem State.send_recoveries (s : State) (p : Option (Bool × Nat × Nat)) (k : Instr) (a : Arg) : (s.send p k a).recoveries = s.recoveries := rfl
@[simp] theorem State.send_copies (s : State) (p : Option (Bool × Nat × Nat)) (k : Instr) (a : Arg) : (s.send p k a).copies = s.copies := rfl
@[simp] theorem State.send_contexts (s : State) (p : Option (Bool × Nat × Nat)) (k : Instr) (a : Arg) : (s.send p k a).contexts = s.contexts := rfl
@[simp] theorem State.send_fuses (s : State) (p : Option (Bool × Nat × Nat)) (k : Instr) (a : Arg) : (s.send p k a).fuses = s.fuses := rfl
@[simp] theorem State.send_retired (s : State) (p : Option (Bool × Nat × Nat)) (k : Instr) (a : Arg) : (s.send p k a).retired = s.retired := rfl
@[simp] theorem State.send_otherHalf (s : State) (p : Option (Bool × Nat × Nat)) (k : Instr) (a : Arg) : (s.send p k a).otherHalf = s.otherHalf := rfl
@[simp] theorem State.send_flashSeq (s : State) (p : Option (Bool × Nat × Nat)) (k : Instr) (a : Arg) : (s.send p k a).flashSeq = s.flashSeq := rfl
@[simp] theorem State.send_journal (s : State) (p : Option (Bool × Nat × Nat)) (k : Instr) (a : Arg) : (s.send p k a).journal = s.journal := rfl
@[simp] theorem State.send_bootHalted (s : State) (p : Option (Bool × Nat × Nat)) (k : Instr) (a : Arg) : (s.send p k a).bootHalted = s.bootHalted := rfl
@[simp] theorem State.send_requests (s : State) (p : Option (Bool × Nat × Nat)) (k : Instr) (a : Arg) : (s.send p k a).requests = s.requests := rfl
@[simp] theorem State.send_reports (s : State) (p : Option (Bool × Nat × Nat)) (k : Instr) (a : Arg) : (s.send p k a).reports = s.reports := rfl
@[simp] theorem State.send_dieCounters (s : State) (p : Option (Bool × Nat × Nat)) (k : Instr) (a : Arg) : (s.send p k a).dieCounters = s.dieCounters := rfl
@[simp] theorem State.send_rollback (s : State) (p : Option (Bool × Nat × Nat)) (k : Instr) (a : Arg) : (s.send p k a).rollback = s.rollback := rfl
@[simp] theorem State.send_watchdogs (s : State) (p : Option (Bool × Nat × Nat)) (k : Instr) (a : Arg) : (s.send p k a).watchdogs = s.watchdogs := rfl
@[simp] theorem State.send_firmware (s : State) (p : Option (Bool × Nat × Nat)) (k : Instr) (a : Arg) : (s.send p k a).firmware = s.firmware := rfl
@[simp] theorem State.send_fwGroups (s : State) (p : Option (Bool × Nat × Nat)) (k : Instr) (a : Arg) : (s.send p k a).fwGroups = s.fwGroups := rfl
@[simp] theorem State.send_security (s : State) (p : Option (Bool × Nat × Nat)) (k : Instr) (a : Arg) : (s.send p k a).security = s.security := rfl
@[simp] theorem State.send_portStates (s : State) (p : Option (Bool × Nat × Nat)) (k : Instr) (a : Arg) : (s.send p k a).portStates = s.portStates := rfl
@[simp] theorem State.send_errlog (s : State) (p : Option (Bool × Nat × Nat)) (k : Instr) (a : Arg) : (s.send p k a).errlog = s.errlog := rfl
@[simp] theorem State.send_control (s : State) (p : Option (Bool × Nat × Nat)) (k : Instr) (a : Arg) : (s.send p k a).control = s.control := rfl

/-! ### An entry of the error log -/

@[simp] theorem State.log_mem (s : State) (c : BitVec 8) (n i : Nat) (v : Dword) : (s.log c n i v).mem = s.mem := rfl
@[simp] theorem State.log_full (s : State) (c : BitVec 8) (n i : Nat) (v : Dword) : (s.log c n i v).full = s.full := rfl
@[simp] theorem State.log_scopes (s : State) (c : BitVec 8) (n i : Nat) (v : Dword) : (s.log c n i v).scopes = s.scopes := rfl
@[simp] theorem State.log_bad (s : State) (c : BitVec 8) (n i : Nat) (v : Dword) : (s.log c n i v).bad = s.bad := rfl
@[simp] theorem State.log_soft (s : State) (c : BitVec 8) (n i : Nat) (v : Dword) : (s.log c n i v).soft = s.soft := rfl
@[simp] theorem State.log_corrected (s : State) (c : BitVec 8) (n i : Nat) (v : Dword) : (s.log c n i v).corrected = s.corrected := rfl
@[simp] theorem State.log_cores (s : State) (c : BitVec 8) (n i : Nat) (v : Dword) : (s.log c n i v).cores = s.cores := rfl
@[simp] theorem State.log_chips (s : State) (c : BitVec 8) (n i : Nat) (v : Dword) : (s.log c n i v).chips = s.chips := rfl
@[simp] theorem State.log_xlate (s : State) (c : BitVec 8) (n i : Nat) (v : Dword) : (s.log c n i v).xlate = s.xlate := rfl
@[simp] theorem State.log_ptime (s : State) (c : BitVec 8) (n i : Nat) (v : Dword) : (s.log c n i v).ptime = s.ptime := rfl
@[simp] theorem State.log_tick (s : State) (c : BitVec 8) (n i : Nat) (v : Dword) : (s.log c n i v).tick = s.tick := rfl
@[simp] theorem State.log_curCore (s : State) (c : BitVec 8) (n i : Nat) (v : Dword) : (s.log c n i v).curCore = s.curCore := rfl
@[simp] theorem State.log_curSlot (s : State) (c : BitVec 8) (n i : Nat) (v : Dword) : (s.log c n i v).curSlot = s.curSlot := rfl
@[simp] theorem State.log_arg (s : State) (c : BitVec 8) (n i : Nat) (v : Dword) : (s.log c n i v).arg = s.arg := rfl
@[simp] theorem State.log_trapped (s : State) (c : BitVec 8) (n i : Nat) (v : Dword) : (s.log c n i v).trapped = s.trapped := rfl
@[simp] theorem State.log_due (s : State) (c : BitVec 8) (n i : Nat) (v : Dword) : (s.log c n i v).due = s.due := rfl
@[simp] theorem State.log_inputs (s : State) (c : BitVec 8) (n i : Nat) (v : Dword) : (s.log c n i v).inputs = s.inputs := rfl
@[simp] theorem State.log_layout (s : State) (c : BitVec 8) (n i : Nat) (v : Dword) : (s.log c n i v).layout = s.layout := rfl
@[simp] theorem State.log_shadow (s : State) (c : BitVec 8) (n i : Nat) (v : Dword) : (s.log c n i v).shadow = s.shadow := rfl
@[simp] theorem State.log_commit (s : State) (c : BitVec 8) (n i : Nat) (v : Dword) : (s.log c n i v).commit = s.commit := rfl
@[simp] theorem State.log_jobs (s : State) (c : BitVec 8) (n i : Nat) (v : Dword) : (s.log c n i v).jobs = s.jobs := rfl
@[simp] theorem State.log_nextJob (s : State) (c : BitVec 8) (n i : Nat) (v : Dword) : (s.log c n i v).nextJob = s.nextJob := rfl
@[simp] theorem State.log_groups (s : State) (c : BitVec 8) (n i : Nat) (v : Dword) : (s.log c n i v).groups = s.groups := rfl
@[simp] theorem State.log_uses (s : State) (c : BitVec 8) (n i : Nat) (v : Dword) : (s.log c n i v).uses = s.uses := rfl
@[simp] theorem State.log_collUses (s : State) (c : BitVec 8) (n i : Nat) (v : Dword) : (s.log c n i v).collUses = s.collUses := rfl
@[simp] theorem State.log_queues (s : State) (c : BitVec 8) (n i : Nat) (v : Dword) : (s.log c n i v).queues = s.queues := rfl
@[simp] theorem State.log_lastQueue (s : State) (c : BitVec 8) (n i : Nat) (v : Dword) : (s.log c n i v).lastQueue = s.lastQueue := rfl
@[simp] theorem State.log_reading (s : State) (c : BitVec 8) (n i : Nat) (v : Dword) : (s.log c n i v).reading = s.reading := rfl
@[simp] theorem State.log_vfs (s : State) (c : BitVec 8) (n i : Nat) (v : Dword) : (s.log c n i v).vfs = s.vfs := rfl
@[simp] theorem State.log_partlink (s : State) (c : BitVec 8) (n i : Nat) (v : Dword) : (s.log c n i v).partlink = s.partlink := rfl
@[simp] theorem State.log_frames (s : State) (c : BitVec 8) (n i : Nat) (v : Dword) : (s.log c n i v).frames = s.frames := rfl
@[simp] theorem State.log_root (s : State) (c : BitVec 8) (n i : Nat) (v : Dword) : (s.log c n i v).root = s.root := rfl
@[simp] theorem State.log_msix (s : State) (c : BitVec 8) (n i : Nat) (v : Dword) : (s.log c n i v).msix = s.msix := rfl
@[simp] theorem State.log_power (s : State) (c : BitVec 8) (n i : Nat) (v : Dword) : (s.log c n i v).power = s.power := rfl
@[simp] theorem State.log_senses (s : State) (c : BitVec 8) (n i : Nat) (v : Dword) : (s.log c n i v).senses = s.senses := rfl
@[simp] theorem State.log_zones (s : State) (c : BitVec 8) (n i : Nat) (v : Dword) : (s.log c n i v).zones = s.zones := rfl
@[simp] theorem State.log_losses (s : State) (c : BitVec 8) (n i : Nat) (v : Dword) : (s.log c n i v).losses = s.losses := rfl
@[simp] theorem State.log_recoveries (s : State) (c : BitVec 8) (n i : Nat) (v : Dword) : (s.log c n i v).recoveries = s.recoveries := rfl
@[simp] theorem State.log_copies (s : State) (c : BitVec 8) (n i : Nat) (v : Dword) : (s.log c n i v).copies = s.copies := rfl
@[simp] theorem State.log_contexts (s : State) (c : BitVec 8) (n i : Nat) (v : Dword) : (s.log c n i v).contexts = s.contexts := rfl
@[simp] theorem State.log_fuses (s : State) (c : BitVec 8) (n i : Nat) (v : Dword) : (s.log c n i v).fuses = s.fuses := rfl
@[simp] theorem State.log_retired (s : State) (c : BitVec 8) (n i : Nat) (v : Dword) : (s.log c n i v).retired = s.retired := rfl
@[simp] theorem State.log_otherHalf (s : State) (c : BitVec 8) (n i : Nat) (v : Dword) : (s.log c n i v).otherHalf = s.otherHalf := rfl
@[simp] theorem State.log_flashSeq (s : State) (c : BitVec 8) (n i : Nat) (v : Dword) : (s.log c n i v).flashSeq = s.flashSeq := rfl
@[simp] theorem State.log_journal (s : State) (c : BitVec 8) (n i : Nat) (v : Dword) : (s.log c n i v).journal = s.journal := rfl
@[simp] theorem State.log_bootHalted (s : State) (c : BitVec 8) (n i : Nat) (v : Dword) : (s.log c n i v).bootHalted = s.bootHalted := rfl
@[simp] theorem State.log_requests (s : State) (c : BitVec 8) (n i : Nat) (v : Dword) : (s.log c n i v).requests = s.requests := rfl
@[simp] theorem State.log_reports (s : State) (c : BitVec 8) (n i : Nat) (v : Dword) : (s.log c n i v).reports = s.reports := rfl
@[simp] theorem State.log_dieCounters (s : State) (c : BitVec 8) (n i : Nat) (v : Dword) : (s.log c n i v).dieCounters = s.dieCounters := rfl
@[simp] theorem State.log_rollback (s : State) (c : BitVec 8) (n i : Nat) (v : Dword) : (s.log c n i v).rollback = s.rollback := rfl
@[simp] theorem State.log_watchdogs (s : State) (c : BitVec 8) (n i : Nat) (v : Dword) : (s.log c n i v).watchdogs = s.watchdogs := rfl
@[simp] theorem State.log_firmware (s : State) (c : BitVec 8) (n i : Nat) (v : Dword) : (s.log c n i v).firmware = s.firmware := rfl
@[simp] theorem State.log_fwGroups (s : State) (c : BitVec 8) (n i : Nat) (v : Dword) : (s.log c n i v).fwGroups = s.fwGroups := rfl
@[simp] theorem State.log_security (s : State) (c : BitVec 8) (n i : Nat) (v : Dword) : (s.log c n i v).security = s.security := rfl
@[simp] theorem State.log_portStates (s : State) (c : BitVec 8) (n i : Nat) (v : Dword) : (s.log c n i v).portStates = s.portStates := rfl
@[simp] theorem State.log_control (s : State) (c : BitVec 8) (n i : Nat) (v : Dword) : (s.log c n i v).control = s.control := rfl

/-! ### The counter of free values -/

@[simp] theorem State.nextTick_mem (s : State) : (s.nextTick).mem = s.mem := rfl
@[simp] theorem State.nextTick_full (s : State) : (s.nextTick).full = s.full := rfl
@[simp] theorem State.nextTick_scopes (s : State) : (s.nextTick).scopes = s.scopes := rfl
@[simp] theorem State.nextTick_bad (s : State) : (s.nextTick).bad = s.bad := rfl
@[simp] theorem State.nextTick_soft (s : State) : (s.nextTick).soft = s.soft := rfl
@[simp] theorem State.nextTick_corrected (s : State) : (s.nextTick).corrected = s.corrected := rfl
@[simp] theorem State.nextTick_cores (s : State) : (s.nextTick).cores = s.cores := rfl
@[simp] theorem State.nextTick_chips (s : State) : (s.nextTick).chips = s.chips := rfl
@[simp] theorem State.nextTick_xlate (s : State) : (s.nextTick).xlate = s.xlate := rfl
@[simp] theorem State.nextTick_ptime (s : State) : (s.nextTick).ptime = s.ptime := rfl
@[simp] theorem State.nextTick_curCore (s : State) : (s.nextTick).curCore = s.curCore := rfl
@[simp] theorem State.nextTick_curSlot (s : State) : (s.nextTick).curSlot = s.curSlot := rfl
@[simp] theorem State.nextTick_arg (s : State) : (s.nextTick).arg = s.arg := rfl
@[simp] theorem State.nextTick_trapped (s : State) : (s.nextTick).trapped = s.trapped := rfl
@[simp] theorem State.nextTick_due (s : State) : (s.nextTick).due = s.due := rfl
@[simp] theorem State.nextTick_inputs (s : State) : (s.nextTick).inputs = s.inputs := rfl
@[simp] theorem State.nextTick_layout (s : State) : (s.nextTick).layout = s.layout := rfl
@[simp] theorem State.nextTick_shadow (s : State) : (s.nextTick).shadow = s.shadow := rfl
@[simp] theorem State.nextTick_commit (s : State) : (s.nextTick).commit = s.commit := rfl
@[simp] theorem State.nextTick_jobs (s : State) : (s.nextTick).jobs = s.jobs := rfl
@[simp] theorem State.nextTick_nextJob (s : State) : (s.nextTick).nextJob = s.nextJob := rfl
@[simp] theorem State.nextTick_groups (s : State) : (s.nextTick).groups = s.groups := rfl
@[simp] theorem State.nextTick_uses (s : State) : (s.nextTick).uses = s.uses := rfl
@[simp] theorem State.nextTick_collUses (s : State) : (s.nextTick).collUses = s.collUses := rfl
@[simp] theorem State.nextTick_queues (s : State) : (s.nextTick).queues = s.queues := rfl
@[simp] theorem State.nextTick_lastQueue (s : State) : (s.nextTick).lastQueue = s.lastQueue := rfl
@[simp] theorem State.nextTick_reading (s : State) : (s.nextTick).reading = s.reading := rfl
@[simp] theorem State.nextTick_vfs (s : State) : (s.nextTick).vfs = s.vfs := rfl
@[simp] theorem State.nextTick_partlink (s : State) : (s.nextTick).partlink = s.partlink := rfl
@[simp] theorem State.nextTick_frames (s : State) : (s.nextTick).frames = s.frames := rfl
@[simp] theorem State.nextTick_root (s : State) : (s.nextTick).root = s.root := rfl
@[simp] theorem State.nextTick_msix (s : State) : (s.nextTick).msix = s.msix := rfl
@[simp] theorem State.nextTick_power (s : State) : (s.nextTick).power = s.power := rfl
@[simp] theorem State.nextTick_senses (s : State) : (s.nextTick).senses = s.senses := rfl
@[simp] theorem State.nextTick_zones (s : State) : (s.nextTick).zones = s.zones := rfl
@[simp] theorem State.nextTick_losses (s : State) : (s.nextTick).losses = s.losses := rfl
@[simp] theorem State.nextTick_recoveries (s : State) : (s.nextTick).recoveries = s.recoveries := rfl
@[simp] theorem State.nextTick_copies (s : State) : (s.nextTick).copies = s.copies := rfl
@[simp] theorem State.nextTick_contexts (s : State) : (s.nextTick).contexts = s.contexts := rfl
@[simp] theorem State.nextTick_fuses (s : State) : (s.nextTick).fuses = s.fuses := rfl
@[simp] theorem State.nextTick_retired (s : State) : (s.nextTick).retired = s.retired := rfl
@[simp] theorem State.nextTick_otherHalf (s : State) : (s.nextTick).otherHalf = s.otherHalf := rfl
@[simp] theorem State.nextTick_flashSeq (s : State) : (s.nextTick).flashSeq = s.flashSeq := rfl
@[simp] theorem State.nextTick_journal (s : State) : (s.nextTick).journal = s.journal := rfl
@[simp] theorem State.nextTick_bootHalted (s : State) : (s.nextTick).bootHalted = s.bootHalted := rfl
@[simp] theorem State.nextTick_requests (s : State) : (s.nextTick).requests = s.requests := rfl
@[simp] theorem State.nextTick_reports (s : State) : (s.nextTick).reports = s.reports := rfl
@[simp] theorem State.nextTick_dieCounters (s : State) : (s.nextTick).dieCounters = s.dieCounters := rfl
@[simp] theorem State.nextTick_rollback (s : State) : (s.nextTick).rollback = s.rollback := rfl
@[simp] theorem State.nextTick_watchdogs (s : State) : (s.nextTick).watchdogs = s.watchdogs := rfl
@[simp] theorem State.nextTick_firmware (s : State) : (s.nextTick).firmware = s.firmware := rfl
@[simp] theorem State.nextTick_fwGroups (s : State) : (s.nextTick).fwGroups = s.fwGroups := rfl
@[simp] theorem State.nextTick_security (s : State) : (s.nextTick).security = s.security := rfl
@[simp] theorem State.nextTick_portStates (s : State) : (s.nextTick).portStates = s.portStates := rfl
@[simp] theorem State.nextTick_errlog (s : State) : (s.nextTick).errlog = s.errlog := rfl
@[simp] theorem State.nextTick_control (s : State) : (s.nextTick).control = s.control := rfl

/-! ### A slot of a core replaced -/

@[simp] theorem Core.setSlot_t (c : Core) (i : SlotNo) (x : Slot) : (c.setSlot i x).t = c.t := rfl
@[simp] theorem Core.setSlot_p (c : Core) (i : SlotNo) (x : Slot) : (c.setSlot i x).p = c.p := rfl
@[simp] theorem Core.setSlot_o (c : Core) (i : SlotNo) (x : Slot) : (c.setSlot i x).o = c.o := rfl
@[simp] theorem Core.setSlot_lastIssuer (c : Core) (i : SlotNo) (x : Slot) : (c.setSlot i x).lastIssuer = c.lastIssuer := rfl
@[simp] theorem Core.setSlot_lastOf (c : Core) (i : SlotNo) (x : Slot) : (c.setSlot i x).lastOf = c.lastOf := rfl
@[simp] theorem Core.setSlot_near (c : Core) (i : SlotNo) (x : Slot) : (c.setSlot i x).near = c.near := rfl
@[simp] theorem Core.setSlot_buffer (c : Core) (i : SlotNo) (x : Slot) : (c.setSlot i x).buffer = c.buffer := rfl
@[simp] theorem Core.setSlot_plb (c : Core) (i : SlotNo) (x : Slot) : (c.setSlot i x).plb = c.plb := rfl
@[simp] theorem Core.setSlot_names (c : Core) (i : SlotNo) (x : Slot) : (c.setSlot i x).names = c.names := rfl
@[simp] theorem Core.setSlot_waits (c : Core) (i : SlotNo) (x : Slot) : (c.setSlot i x).waits = c.waits := rfl
@[simp] theorem Core.setSlot_c (c : Core) (i : SlotNo) (x : Slot) : (c.setSlot i x).c = c.c := rfl
@[simp] theorem Core.setSlot_bars (c : Core) (i : SlotNo) (x : Slot) : (c.setSlot i x).bars = c.bars := rfl
@[simp] theorem Core.setSlot_ports (c : Core) (i : SlotNo) (x : Slot) : (c.setSlot i x).ports = c.ports := rfl
@[simp] theorem Core.setSlot_classes (c : Core) (i : SlotNo) (x : Slot) : (c.setSlot i x).classes = c.classes := rfl
@[simp] theorem Core.setSlot_held (c : Core) (i : SlotNo) (x : Slot) : (c.setSlot i x).held = c.held := rfl
@[simp] theorem Core.setSlot_refusing (c : Core) (i : SlotNo) (x : Slot) : (c.setSlot i x).refusing = c.refusing := rfl
@[simp] theorem Core.setSlot_sent (c : Core) (i : SlotNo) (x : Slot) : (c.setSlot i x).sent = c.sent := rfl
@[simp] theorem Core.setSlot_retained (c : Core) (i : SlotNo) (x : Slot) : (c.setSlot i x).retained = c.retained := rfl
@[simp] theorem Core.setSlot_channels (c : Core) (i : SlotNo) (x : Slot) : (c.setSlot i x).channels = c.channels := rfl
@[simp] theorem Core.setSlot_q (c : Core) (i : SlotNo) (x : Slot) : (c.setSlot i x).q = c.q := rfl
@[simp] theorem Core.setSlot_mq (c : Core) (i : SlotNo) (x : Slot) : (c.setSlot i x).mq = c.mq := rfl
@[simp] theorem Core.setSlot_tiles (c : Core) (i : SlotNo) (x : Slot) : (c.setSlot i x).tiles = c.tiles := rfl
@[simp] theorem Core.setSlot_badTiles (c : Core) (i : SlotNo) (x : Slot) : (c.setSlot i x).badTiles = c.badTiles := rfl
@[simp] theorem Core.setSlot_lastTaken (c : Core) (i : SlotNo) (x : Slot) : (c.setSlot i x).lastTaken = c.lastTaken := rfl
@[simp] theorem Core.setSlot_nextCmd (c : Core) (i : SlotNo) (x : Slot) : (c.setSlot i x).nextCmd = c.nextCmd := rfl
@[simp] theorem Core.setSlot_sfuPort (c : Core) (i : SlotNo) (x : Slot) : (c.setSlot i x).sfuPort = c.sfuPort := rfl
@[simp] theorem Core.setSlot_undeposited (c : Core) (i : SlotNo) (x : Slot) : (c.setSlot i x).undeposited = c.undeposited := rfl
@[simp] theorem Core.setSlot_outs (c : Core) (i : SlotNo) (x : Slot) : (c.setSlot i x).outs = c.outs := rfl
@[simp] theorem Core.setSlot_copies (c : Core) (i : SlotNo) (x : Slot) : (c.setSlot i x).copies = c.copies := rfl
@[simp] theorem Core.setSlot_cpstat (c : Core) (i : SlotNo) (x : Slot) : (c.setSlot i x).cpstat = c.cpstat := rfl
@[simp] theorem Core.setSlot_colls (c : Core) (i : SlotNo) (x : Slot) : (c.setSlot i x).colls = c.colls := rfl
@[simp] theorem Core.setSlot_terms (c : Core) (i : SlotNo) (x : Slot) : (c.setSlot i x).terms = c.terms := rfl
@[simp] theorem Core.setSlot_wl (c : Core) (i : SlotNo) (x : Slot) : (c.setSlot i x).wl = c.wl := rfl
@[simp] theorem Core.setSlot_fduty (c : Core) (i : SlotNo) (x : Slot) : (c.setSlot i x).fduty = c.fduty := rfl
@[simp] theorem Core.setSlot_hold (c : Core) (i : SlotNo) (x : Slot) : (c.setSlot i x).hold = c.hold := rfl
@[simp] theorem Core.setSlot_panelId (c : Core) (i : SlotNo) (x : Slot) : (c.setSlot i x).panelId = c.panelId := rfl
@[simp] theorem Core.setSlot_rows (c : Core) (i : SlotNo) (x : Slot) : (c.setSlot i x).rows = c.rows := rfl
@[simp] theorem Core.setSlot_handovers (c : Core) (i : SlotNo) (x : Slot) : (c.setSlot i x).handovers = c.handovers := rfl
@[simp] theorem Core.setSlot_mirrors (c : Core) (i : SlotNo) (x : Slot) : (c.setSlot i x).mirrors = c.mirrors := rfl
@[simp] theorem Core.setSlot_isolated (c : Core) (i : SlotNo) (x : Slot) : (c.setSlot i x).isolated = c.isolated := rfl
@[simp] theorem Core.setSlot_asleep (c : Core) (i : SlotNo) (x : Slot) : (c.setSlot i x).asleep = c.asleep := rfl

/-! ### A slot goes on elsewhere -/

@[simp] theorem Slot.jump_g (sl : Slot) (t : Dword) : (sl.jump t).g = sl.g := rfl
@[simp] theorem Slot.jump_v (sl : Slot) (t : Dword) : (sl.jump t).v = sl.v := rfl
@[simp] theorem Slot.jump_k (sl : Slot) (t : Dword) : (sl.jump t).k = sl.k := rfl
@[simp] theorem Slot.jump_loops (sl : Slot) (t : Dword) : (sl.jump t).loops = sl.loops := rfl
@[simp] theorem Slot.jump_mons (sl : Slot) (t : Dword) : (sl.jump t).mons = sl.mons := rfl
@[simp] theorem Slot.jump_st (sl : Slot) (t : Dword) : (sl.jump t).st = sl.st := rfl
@[simp] theorem Slot.jump_fp (sl : Slot) (t : Dword) : (sl.jump t).fp = sl.fp := rfl
@[simp] theorem Slot.jump_vec (sl : Slot) (t : Dword) : (sl.jump t).vec = sl.vec := rfl
@[simp] theorem Slot.jump_run (sl : Slot) (t : Dword) : (sl.jump t).run = sl.run := rfl
@[simp] theorem Slot.jump_ilen (sl : Slot) (t : Dword) : (sl.jump t).ilen = sl.ilen := rfl
@[simp] theorem Slot.jump_readyAt (sl : Slot) (t : Dword) : (sl.jump t).readyAt = sl.readyAt := rfl
@[simp] theorem Slot.jump_rejoinAt (sl : Slot) (t : Dword) : (sl.jump t).rejoinAt = sl.rejoinAt := rfl
@[simp] theorem Slot.jump_yields (sl : Slot) (t : Dword) : (sl.jump t).yields = sl.yields := rfl
@[simp] theorem Slot.jump_yieldEnd (sl : Slot) (t : Dword) : (sl.jump t).yieldEnd = sl.yieldEnd := rfl
@[simp] theorem Slot.jump_taking (sl : Slot) (t : Dword) : (sl.jump t).taking = sl.taking := rfl
@[simp] theorem Slot.jump_turnOn (sl : Slot) (t : Dword) : (sl.jump t).turnOn = sl.turnOn := rfl
@[simp] theorem Slot.jump_pending (sl : Slot) (t : Dword) : (sl.jump t).pending = sl.pending := rfl
@[simp] theorem Slot.jump_deferred (sl : Slot) (t : Dword) : (sl.jump t).deferred = sl.deferred := rfl
@[simp] theorem Slot.jump_phint (sl : Slot) (t : Dword) : (sl.jump t).phint = sl.phint := rfl
@[simp] theorem Slot.jump_outstanding (sl : Slot) (t : Dword) : (sl.jump t).outstanding = sl.outstanding := rfl
@[simp] theorem Slot.jump_job (sl : Slot) (t : Dword) : (sl.jump t).job = sl.job := rfl
@[simp] theorem Slot.jump_parked (sl : Slot) (t : Dword) : (sl.jump t).parked = sl.parked := rfl
@[simp] theorem Slot.jump_capture (sl : Slot) (t : Dword) : (sl.jump t).capture = sl.capture := rfl

/-! ### A slot completes an instruction -/

@[simp] theorem Slot.finishTo_g (sl : Slot) (t : Dword) : (sl.finishTo t).g = sl.g := rfl
@[simp] theorem Slot.finishTo_v (sl : Slot) (t : Dword) : (sl.finishTo t).v = sl.v := rfl
@[simp] theorem Slot.finishTo_k (sl : Slot) (t : Dword) : (sl.finishTo t).k = sl.k := rfl
@[simp] theorem Slot.finishTo_mons (sl : Slot) (t : Dword) : (sl.finishTo t).mons = sl.mons := rfl
@[simp] theorem Slot.finishTo_st (sl : Slot) (t : Dword) : (sl.finishTo t).st = sl.st := rfl
@[simp] theorem Slot.finishTo_fp (sl : Slot) (t : Dword) : (sl.finishTo t).fp = sl.fp := rfl
@[simp] theorem Slot.finishTo_vec (sl : Slot) (t : Dword) : (sl.finishTo t).vec = sl.vec := rfl
@[simp] theorem Slot.finishTo_run (sl : Slot) (t : Dword) : (sl.finishTo t).run = sl.run := rfl
@[simp] theorem Slot.finishTo_ilen (sl : Slot) (t : Dword) : (sl.finishTo t).ilen = sl.ilen := rfl
@[simp] theorem Slot.finishTo_readyAt (sl : Slot) (t : Dword) : (sl.finishTo t).readyAt = sl.readyAt := rfl
@[simp] theorem Slot.finishTo_rejoinAt (sl : Slot) (t : Dword) : (sl.finishTo t).rejoinAt = sl.rejoinAt := rfl
@[simp] theorem Slot.finishTo_yields (sl : Slot) (t : Dword) : (sl.finishTo t).yields = sl.yields := rfl
@[simp] theorem Slot.finishTo_yieldEnd (sl : Slot) (t : Dword) : (sl.finishTo t).yieldEnd = sl.yieldEnd := rfl
@[simp] theorem Slot.finishTo_taking (sl : Slot) (t : Dword) : (sl.finishTo t).taking = sl.taking := rfl
@[simp] theorem Slot.finishTo_turnOn (sl : Slot) (t : Dword) : (sl.finishTo t).turnOn = sl.turnOn := rfl
@[simp] theorem Slot.finishTo_pending (sl : Slot) (t : Dword) : (sl.finishTo t).pending = sl.pending := rfl
@[simp] theorem Slot.finishTo_deferred (sl : Slot) (t : Dword) : (sl.finishTo t).deferred = sl.deferred := rfl
@[simp] theorem Slot.finishTo_phint (sl : Slot) (t : Dword) : (sl.finishTo t).phint = sl.phint := rfl
@[simp] theorem Slot.finishTo_outstanding (sl : Slot) (t : Dword) : (sl.finishTo t).outstanding = sl.outstanding := rfl
@[simp] theorem Slot.finishTo_job (sl : Slot) (t : Dword) : (sl.finishTo t).job = sl.job := rfl
@[simp] theorem Slot.finishTo_parked (sl : Slot) (t : Dword) : (sl.finishTo t).parked = sl.parked := rfl
@[simp] theorem Slot.finishTo_capture (sl : Slot) (t : Dword) : (sl.finishTo t).capture = sl.capture := rfl

/-! ### A slot completes an instruction in sequence -/

@[simp] theorem Slot.finish_g (sl : Slot) : (sl.finish).g = sl.g := rfl
@[simp] theorem Slot.finish_v (sl : Slot) : (sl.finish).v = sl.v := rfl
@[simp] theorem Slot.finish_k (sl : Slot) : (sl.finish).k = sl.k := rfl
@[simp] theorem Slot.finish_mons (sl : Slot) : (sl.finish).mons = sl.mons := rfl
@[simp] theorem Slot.finish_st (sl : Slot) : (sl.finish).st = sl.st := rfl
@[simp] theorem Slot.finish_fp (sl : Slot) : (sl.finish).fp = sl.fp := rfl
@[simp] theorem Slot.finish_vec (sl : Slot) : (sl.finish).vec = sl.vec := rfl
@[simp] theorem Slot.finish_run (sl : Slot) : (sl.finish).run = sl.run := rfl
@[simp] theorem Slot.finish_ilen (sl : Slot) : (sl.finish).ilen = sl.ilen := rfl
@[simp] theorem Slot.finish_readyAt (sl : Slot) : (sl.finish).readyAt = sl.readyAt := rfl
@[simp] theorem Slot.finish_rejoinAt (sl : Slot) : (sl.finish).rejoinAt = sl.rejoinAt := rfl
@[simp] theorem Slot.finish_yields (sl : Slot) : (sl.finish).yields = sl.yields := rfl
@[simp] theorem Slot.finish_yieldEnd (sl : Slot) : (sl.finish).yieldEnd = sl.yieldEnd := rfl
@[simp] theorem Slot.finish_taking (sl : Slot) : (sl.finish).taking = sl.taking := rfl
@[simp] theorem Slot.finish_turnOn (sl : Slot) : (sl.finish).turnOn = sl.turnOn := rfl
@[simp] theorem Slot.finish_pending (sl : Slot) : (sl.finish).pending = sl.pending := rfl
@[simp] theorem Slot.finish_deferred (sl : Slot) : (sl.finish).deferred = sl.deferred := rfl
@[simp] theorem Slot.finish_phint (sl : Slot) : (sl.finish).phint = sl.phint := rfl
@[simp] theorem Slot.finish_outstanding (sl : Slot) : (sl.finish).outstanding = sl.outstanding := rfl
@[simp] theorem Slot.finish_job (sl : Slot) : (sl.finish).job = sl.job := rfl
@[simp] theorem Slot.finish_parked (sl : Slot) : (sl.finish).parked = sl.parked := rfl
@[simp] theorem Slot.finish_capture (sl : Slot) : (sl.finish).capture = sl.capture := rfl

/-! ### A vector register of a slot written -/

@[simp] theorem Slot.setV_g (sl : Slot) (r : BitVec 4) (x : VReg) : (sl.setV r x).g = sl.g := rfl
@[simp] theorem Slot.setV_k (sl : Slot) (r : BitVec 4) (x : VReg) : (sl.setV r x).k = sl.k := rfl
@[simp] theorem Slot.setV_pc (sl : Slot) (r : BitVec 4) (x : VReg) : (sl.setV r x).pc = sl.pc := rfl
@[simp] theorem Slot.setV_lastPc (sl : Slot) (r : BitVec 4) (x : VReg) : (sl.setV r x).lastPc = sl.lastPc := rfl
@[simp] theorem Slot.setV_loops (sl : Slot) (r : BitVec 4) (x : VReg) : (sl.setV r x).loops = sl.loops := rfl
@[simp] theorem Slot.setV_mons (sl : Slot) (r : BitVec 4) (x : VReg) : (sl.setV r x).mons = sl.mons := rfl
@[simp] theorem Slot.setV_st (sl : Slot) (r : BitVec 4) (x : VReg) : (sl.setV r x).st = sl.st := rfl
@[simp] theorem Slot.setV_fp (sl : Slot) (r : BitVec 4) (x : VReg) : (sl.setV r x).fp = sl.fp := rfl
@[simp] theorem Slot.setV_cnt (sl : Slot) (r : BitVec 4) (x : VReg) : (sl.setV r x).cnt = sl.cnt := rfl
@[simp] theorem Slot.setV_vec (sl : Slot) (r : BitVec 4) (x : VReg) : (sl.setV r x).vec = sl.vec := rfl
@[simp] theorem Slot.setV_run (sl : Slot) (r : BitVec 4) (x : VReg) : (sl.setV r x).run = sl.run := rfl
@[simp] theorem Slot.setV_ilen (sl : Slot) (r : BitVec 4) (x : VReg) : (sl.setV r x).ilen = sl.ilen := rfl
@[simp] theorem Slot.setV_readyAt (sl : Slot) (r : BitVec 4) (x : VReg) : (sl.setV r x).readyAt = sl.readyAt := rfl
@[simp] theorem Slot.setV_rejoinAt (sl : Slot) (r : BitVec 4) (x : VReg) : (sl.setV r x).rejoinAt = sl.rejoinAt := rfl
@[simp] theorem Slot.setV_yields (sl : Slot) (r : BitVec 4) (x : VReg) : (sl.setV r x).yields = sl.yields := rfl
@[simp] theorem Slot.setV_yieldEnd (sl : Slot) (r : BitVec 4) (x : VReg) : (sl.setV r x).yieldEnd = sl.yieldEnd := rfl
@[simp] theorem Slot.setV_taking (sl : Slot) (r : BitVec 4) (x : VReg) : (sl.setV r x).taking = sl.taking := rfl
@[simp] theorem Slot.setV_turnOn (sl : Slot) (r : BitVec 4) (x : VReg) : (sl.setV r x).turnOn = sl.turnOn := rfl
@[simp] theorem Slot.setV_pending (sl : Slot) (r : BitVec 4) (x : VReg) : (sl.setV r x).pending = sl.pending := rfl
@[simp] theorem Slot.setV_deferred (sl : Slot) (r : BitVec 4) (x : VReg) : (sl.setV r x).deferred = sl.deferred := rfl
@[simp] theorem Slot.setV_phint (sl : Slot) (r : BitVec 4) (x : VReg) : (sl.setV r x).phint = sl.phint := rfl
@[simp] theorem Slot.setV_outstanding (sl : Slot) (r : BitVec 4) (x : VReg) : (sl.setV r x).outstanding = sl.outstanding := rfl
@[simp] theorem Slot.setV_job (sl : Slot) (r : BitVec 4) (x : VReg) : (sl.setV r x).job = sl.job := rfl
@[simp] theorem Slot.setV_bench (sl : Slot) (r : BitVec 4) (x : VReg) : (sl.setV r x).bench = sl.bench := rfl
@[simp] theorem Slot.setV_parked (sl : Slot) (r : BitVec 4) (x : VReg) : (sl.setV r x).parked = sl.parked := rfl
@[simp] theorem Slot.setV_capture (sl : Slot) (r : BitVec 4) (x : VReg) : (sl.setV r x).capture = sl.capture := rfl

/-! ### General and mask registers of a slot: the write is discarded for number 0 (R17, R55) -/

@[simp] theorem Slot.setG_v (sl : Slot) (r : BitVec 5) (x : Dword) : (sl.setG r x).v = sl.v := by
  unfold Slot.setG; split <;> rfl
@[simp] theorem Slot.setG_k (sl : Slot) (r : BitVec 5) (x : Dword) : (sl.setG r x).k = sl.k := by
  unfold Slot.setG; split <;> rfl
@[simp] theorem Slot.setG_pc (sl : Slot) (r : BitVec 5) (x : Dword) : (sl.setG r x).pc = sl.pc := by
  unfold Slot.setG; split <;> rfl
@[simp] theorem Slot.setG_lastPc (sl : Slot) (r : BitVec 5) (x : Dword) : (sl.setG r x).lastPc = sl.lastPc := by
  unfold Slot.setG; split <;> rfl
@[simp] theorem Slot.setG_loops (sl : Slot) (r : BitVec 5) (x : Dword) : (sl.setG r x).loops = sl.loops := by
  unfold Slot.setG; split <;> rfl
@[simp] theorem Slot.setG_mons (sl : Slot) (r : BitVec 5) (x : Dword) : (sl.setG r x).mons = sl.mons := by
  unfold Slot.setG; split <;> rfl
@[simp] theorem Slot.setG_st (sl : Slot) (r : BitVec 5) (x : Dword) : (sl.setG r x).st = sl.st := by
  unfold Slot.setG; split <;> rfl
@[simp] theorem Slot.setG_fp (sl : Slot) (r : BitVec 5) (x : Dword) : (sl.setG r x).fp = sl.fp := by
  unfold Slot.setG; split <;> rfl
@[simp] theorem Slot.setG_cnt (sl : Slot) (r : BitVec 5) (x : Dword) : (sl.setG r x).cnt = sl.cnt := by
  unfold Slot.setG; split <;> rfl
@[simp] theorem Slot.setG_vec (sl : Slot) (r : BitVec 5) (x : Dword) : (sl.setG r x).vec = sl.vec := by
  unfold Slot.setG; split <;> rfl
@[simp] theorem Slot.setG_run (sl : Slot) (r : BitVec 5) (x : Dword) : (sl.setG r x).run = sl.run := by
  unfold Slot.setG; split <;> rfl
@[simp] theorem Slot.setG_ilen (sl : Slot) (r : BitVec 5) (x : Dword) : (sl.setG r x).ilen = sl.ilen := by
  unfold Slot.setG; split <;> rfl
@[simp] theorem Slot.setG_readyAt (sl : Slot) (r : BitVec 5) (x : Dword) : (sl.setG r x).readyAt = sl.readyAt := by
  unfold Slot.setG; split <;> rfl
@[simp] theorem Slot.setG_rejoinAt (sl : Slot) (r : BitVec 5) (x : Dword) : (sl.setG r x).rejoinAt = sl.rejoinAt := by
  unfold Slot.setG; split <;> rfl
@[simp] theorem Slot.setG_yields (sl : Slot) (r : BitVec 5) (x : Dword) : (sl.setG r x).yields = sl.yields := by
  unfold Slot.setG; split <;> rfl
@[simp] theorem Slot.setG_yieldEnd (sl : Slot) (r : BitVec 5) (x : Dword) : (sl.setG r x).yieldEnd = sl.yieldEnd := by
  unfold Slot.setG; split <;> rfl
@[simp] theorem Slot.setG_taking (sl : Slot) (r : BitVec 5) (x : Dword) : (sl.setG r x).taking = sl.taking := by
  unfold Slot.setG; split <;> rfl
@[simp] theorem Slot.setG_turnOn (sl : Slot) (r : BitVec 5) (x : Dword) : (sl.setG r x).turnOn = sl.turnOn := by
  unfold Slot.setG; split <;> rfl
@[simp] theorem Slot.setG_pending (sl : Slot) (r : BitVec 5) (x : Dword) : (sl.setG r x).pending = sl.pending := by
  unfold Slot.setG; split <;> rfl
@[simp] theorem Slot.setG_deferred (sl : Slot) (r : BitVec 5) (x : Dword) : (sl.setG r x).deferred = sl.deferred := by
  unfold Slot.setG; split <;> rfl
@[simp] theorem Slot.setG_phint (sl : Slot) (r : BitVec 5) (x : Dword) : (sl.setG r x).phint = sl.phint := by
  unfold Slot.setG; split <;> rfl
@[simp] theorem Slot.setG_outstanding (sl : Slot) (r : BitVec 5) (x : Dword) : (sl.setG r x).outstanding = sl.outstanding := by
  unfold Slot.setG; split <;> rfl
@[simp] theorem Slot.setG_job (sl : Slot) (r : BitVec 5) (x : Dword) : (sl.setG r x).job = sl.job := by
  unfold Slot.setG; split <;> rfl
@[simp] theorem Slot.setG_bench (sl : Slot) (r : BitVec 5) (x : Dword) : (sl.setG r x).bench = sl.bench := by
  unfold Slot.setG; split <;> rfl
@[simp] theorem Slot.setG_parked (sl : Slot) (r : BitVec 5) (x : Dword) : (sl.setG r x).parked = sl.parked := by
  unfold Slot.setG; split <;> rfl
@[simp] theorem Slot.setG_capture (sl : Slot) (r : BitVec 5) (x : Dword) : (sl.setG r x).capture = sl.capture := by
  unfold Slot.setG; split <;> rfl
@[simp] theorem Slot.setK_g (sl : Slot) (r : BitVec 3) (x : Dword) : (sl.setK r x).g = sl.g := by
  unfold Slot.setK; split <;> rfl
@[simp] theorem Slot.setK_v (sl : Slot) (r : BitVec 3) (x : Dword) : (sl.setK r x).v = sl.v := by
  unfold Slot.setK; split <;> rfl
@[simp] theorem Slot.setK_pc (sl : Slot) (r : BitVec 3) (x : Dword) : (sl.setK r x).pc = sl.pc := by
  unfold Slot.setK; split <;> rfl
@[simp] theorem Slot.setK_lastPc (sl : Slot) (r : BitVec 3) (x : Dword) : (sl.setK r x).lastPc = sl.lastPc := by
  unfold Slot.setK; split <;> rfl
@[simp] theorem Slot.setK_loops (sl : Slot) (r : BitVec 3) (x : Dword) : (sl.setK r x).loops = sl.loops := by
  unfold Slot.setK; split <;> rfl
@[simp] theorem Slot.setK_mons (sl : Slot) (r : BitVec 3) (x : Dword) : (sl.setK r x).mons = sl.mons := by
  unfold Slot.setK; split <;> rfl
@[simp] theorem Slot.setK_st (sl : Slot) (r : BitVec 3) (x : Dword) : (sl.setK r x).st = sl.st := by
  unfold Slot.setK; split <;> rfl
@[simp] theorem Slot.setK_fp (sl : Slot) (r : BitVec 3) (x : Dword) : (sl.setK r x).fp = sl.fp := by
  unfold Slot.setK; split <;> rfl
@[simp] theorem Slot.setK_cnt (sl : Slot) (r : BitVec 3) (x : Dword) : (sl.setK r x).cnt = sl.cnt := by
  unfold Slot.setK; split <;> rfl
@[simp] theorem Slot.setK_vec (sl : Slot) (r : BitVec 3) (x : Dword) : (sl.setK r x).vec = sl.vec := by
  unfold Slot.setK; split <;> rfl
@[simp] theorem Slot.setK_run (sl : Slot) (r : BitVec 3) (x : Dword) : (sl.setK r x).run = sl.run := by
  unfold Slot.setK; split <;> rfl
@[simp] theorem Slot.setK_ilen (sl : Slot) (r : BitVec 3) (x : Dword) : (sl.setK r x).ilen = sl.ilen := by
  unfold Slot.setK; split <;> rfl
@[simp] theorem Slot.setK_readyAt (sl : Slot) (r : BitVec 3) (x : Dword) : (sl.setK r x).readyAt = sl.readyAt := by
  unfold Slot.setK; split <;> rfl
@[simp] theorem Slot.setK_rejoinAt (sl : Slot) (r : BitVec 3) (x : Dword) : (sl.setK r x).rejoinAt = sl.rejoinAt := by
  unfold Slot.setK; split <;> rfl
@[simp] theorem Slot.setK_yields (sl : Slot) (r : BitVec 3) (x : Dword) : (sl.setK r x).yields = sl.yields := by
  unfold Slot.setK; split <;> rfl
@[simp] theorem Slot.setK_yieldEnd (sl : Slot) (r : BitVec 3) (x : Dword) : (sl.setK r x).yieldEnd = sl.yieldEnd := by
  unfold Slot.setK; split <;> rfl
@[simp] theorem Slot.setK_taking (sl : Slot) (r : BitVec 3) (x : Dword) : (sl.setK r x).taking = sl.taking := by
  unfold Slot.setK; split <;> rfl
@[simp] theorem Slot.setK_turnOn (sl : Slot) (r : BitVec 3) (x : Dword) : (sl.setK r x).turnOn = sl.turnOn := by
  unfold Slot.setK; split <;> rfl
@[simp] theorem Slot.setK_pending (sl : Slot) (r : BitVec 3) (x : Dword) : (sl.setK r x).pending = sl.pending := by
  unfold Slot.setK; split <;> rfl
@[simp] theorem Slot.setK_deferred (sl : Slot) (r : BitVec 3) (x : Dword) : (sl.setK r x).deferred = sl.deferred := by
  unfold Slot.setK; split <;> rfl
@[simp] theorem Slot.setK_phint (sl : Slot) (r : BitVec 3) (x : Dword) : (sl.setK r x).phint = sl.phint := by
  unfold Slot.setK; split <;> rfl
@[simp] theorem Slot.setK_outstanding (sl : Slot) (r : BitVec 3) (x : Dword) : (sl.setK r x).outstanding = sl.outstanding := by
  unfold Slot.setK; split <;> rfl
@[simp] theorem Slot.setK_job (sl : Slot) (r : BitVec 3) (x : Dword) : (sl.setK r x).job = sl.job := by
  unfold Slot.setK; split <;> rfl
@[simp] theorem Slot.setK_bench (sl : Slot) (r : BitVec 3) (x : Dword) : (sl.setK r x).bench = sl.bench := by
  unfold Slot.setK; split <;> rfl
@[simp] theorem Slot.setK_parked (sl : Slot) (r : BitVec 3) (x : Dword) : (sl.setK r x).parked = sl.parked := by
  unfold Slot.setK; split <;> rfl
@[simp] theorem Slot.setK_capture (sl : Slot) (r : BitVec 3) (x : Dword) : (sl.setK r x).capture = sl.capture := by
  unfold Slot.setK; split <;> rfl

end Sys2Proof.Machine
end

