-- ==== Sys2Proof/Laws/Ops.lean ====
section
/-!
SUPPORT. What each shared operation does, said once: reading a core, a slot or a register after an update, completing an
instruction, taking a trap or an upcall and returning from one.
-/
namespace Sys2Proof.Machine

/-! ### Cores -/

/-- A core reads as it was replaced, the others as before. -/
theorem State.core_setCore (s : State) (n m : Nat) (c : Core) :
    (s.setCore n c).core m = if m = n then c else s.core m := by
  simp only [State.core, State.setCore, lookupNat_insertNat]
  split <;> rfl

@[simp] theorem State.core_setCore_self (s : State) (n : Nat) (c : Core) : (s.setCore n c).core n = c := by
  simp [State.core_setCore]

theorem State.core_setCore_ne {n m : Nat} (h : m ≠ n) (s : State) (c : Core) : (s.setCore n c).core m = s.core m := by
  simp [State.core_setCore, h]

@[simp] theorem State.setCore_setCore (s : State) (n : Nat) (c d : Core) :
    (s.setCore n c).setCore n d = s.setCore n d := by
  simp [State.setCore]

theorem State.core_modCore (s : State) (n m : Nat) (f : Core → Core) :
    (s.modCore n f).core m = if m = n then f (s.core n) else s.core m := State.core_setCore s n m _

@[simp] theorem State.core_modCore_self (s : State) (n : Nat) (f : Core → Core) :
    (s.modCore n f).core n = f (s.core n) := by simp [State.modCore]

@[simp] theorem State.here_modHere (s : State) (f : Core → Core) : (s.modHere f).here = f s.here := by
  simp [State.here, State.modHere]

/-! ### Slots -/

/-- An entry of a vector reads as it was set, the others as before. -/
theorem vector_get_set {α : Type} {n : Nat} (v : Vector α n) (k : Nat) (hk : k < n) (x : α) (j : Fin n) :
    (v.set k x hk).get j = if k = j.val then x else v.get j := by
  show (v.set k x hk)[j.val] = if k = j.val then x else v[j.val]
  simp [Vector.getElem_set]

/-- A slot of a core reads as it was replaced, the others as before. -/
theorem Core.slot_setSlot (c : Core) (i j : SlotNo) (x : Slot) :
    (c.setSlot i x).slot j = if j = i then x else c.slot j := by
  simp only [Core.slot, Core.setSlot, vector_get_set, Fin.val_inj, eq_comm]

@[simp] theorem Core.slot_setSlot_self (c : Core) (i : SlotNo) (x : Slot) : (c.setSlot i x).slot i = x := by
  simp [Core.slot_setSlot]

@[simp] theorem Core.setSlot_setSlot (c : Core) (i : SlotNo) (x y : Slot) :
    (c.setSlot i x).setSlot i y = c.setSlot i y := by
  simp [Core.setSlot]

/-- A slot reads as it was replaced, every other slot of the panel as before. -/
theorem State.slot_setSlot (s : State) (n m : Nat) (i j : SlotNo) (x : Slot) :
    (s.setSlot n i x).slot m j = if m = n ∧ j = i then x else s.slot m j := by
  simp only [State.slot, State.setSlot, State.core_setCore]
  by_cases h : m = n
  · subst h; simp [Core.slot_setSlot]
  · simp [h]

@[simp] theorem State.slot_setSlot_self (s : State) (n : Nat) (i : SlotNo) (x : Slot) :
    (s.setSlot n i x).slot n i = x := by simp [State.slot_setSlot]

@[simp] theorem State.setSlot_setSlot (s : State) (n : Nat) (i : SlotNo) (x y : Slot) :
    (s.setSlot n i x).setSlot n i y = s.setSlot n i y := by
  simp [State.setSlot]

@[simp] theorem State.core_setSlot_self (s : State) (n : Nat) (i : SlotNo) (x : Slot) :
    (s.setSlot n i x).core n = (s.core n).setSlot i x := by simp [State.setSlot]

@[simp] theorem State.slot_modSlot_self (s : State) (n : Nat) (i : SlotNo) (f : Slot → Slot) :
    (s.modSlot n i f).slot n i = f (s.slot n i) := by simp [State.modSlot]

theorem State.slot_modSlot (s : State) (n m : Nat) (i j : SlotNo) (f : Slot → Slot) :
    (s.modSlot n i f).slot m j = if m = n ∧ j = i then f (s.slot n i) else s.slot m j := State.slot_setSlot s n m i j _

@[simp] theorem State.me_modMe (s : State) (f : Slot → Slot) : (s.modMe f).me = f s.me := by
  simp [State.me, State.modMe]

@[simp] theorem State.me_setSlot (s : State) (x : Slot) : (s.setSlot s.curCore s.curSlot x).me = x := by
  simp [State.me]

/-- Two changes of the executing slot are one. -/
@[simp] theorem State.modMe_modMe (s : State) (f g : Slot → Slot) : (s.modMe f).modMe g = s.modMe (fun x => g (f x)) := by
  simp [State.modMe, State.modSlot]

/-- A change of the executing slot is its replacement. -/
theorem State.modMe_eq (s : State) (f : Slot → Slot) : s.modMe f = s.setSlot s.curCore s.curSlot (f s.me) := rfl

/-- No other slot is touched by a change of the executing slot. -/
theorem State.slot_modMe_other (s : State) (f : Slot → Slot) {n : Nat} {i : SlotNo}
    (h : ¬(n = s.curCore ∧ i = s.curSlot)) : (s.modMe f).slot n i = s.slot n i := by
  simp [State.modMe, State.slot_modSlot, h]

/-! ### Registers -/

/-- Numbers of registers are equal when they are as naturals. -/
theorem regNo_inj {w : Nat} (r q : BitVec w) : (r.toFin : Nat) = (q.toFin : Nat) ↔ q = r := by
  constructor
  · exact fun h => BitVec.eq_of_toNat_eq h.symm
  · rintro rfl; rfl

/-- A general register reads as it was written, the others as before; g0 reads zero whatever is written to it (R17, R55). -/
theorem Slot.getG_setG (sl : Slot) (r q : BitVec 5) (x : Dword) :
    (sl.setG r x).getG q = if q = 0 then 0 else if q = r then x else sl.getG q := by
  unfold Slot.getG Slot.setG
  by_cases h0 : q = 0
  · simp only [h0, if_true]
  · by_cases hr : r = 0
    · subst hr
      simp only [h0, if_false, if_true]
    · simp only [h0, hr, if_false, vector_get_set, regNo_inj]

/-- A vector register reads as it was written, the others as before. -/
theorem Slot.getV_setV (sl : Slot) (r q : BitVec 4) (x : VReg) :
    (sl.setV r x).getV q = if q = r then x else sl.getV q := by
  simp only [Slot.getV, Slot.setV, vector_get_set, regNo_inj]

/-- A mask register reads as it was written, the others as before; k0 reads all ones whatever is written to it (R17). -/
theorem Slot.getK_setK (sl : Slot) (r q : BitVec 3) (x : Dword) :
    (sl.setK r x).getK q = if q = 0 then BitVec.allOnes 64 else if q = r then x else sl.getK q := by
  unfold Slot.getK Slot.setK
  by_cases h0 : q = 0
  · simp only [h0, if_true]
  · by_cases hr : r = 0
    · subst hr
      simp only [h0, if_false, if_true]
    · simp only [h0, hr, if_false, vector_get_set, regNo_inj]

@[simp] theorem Slot.getG_zero (sl : Slot) : sl.getG 0 = 0 := rfl
@[simp] theorem Slot.getK_zero (sl : Slot) : sl.getK 0 = BitVec.allOnes 64 := rfl

@[simp] theorem Slot.getG_finishTo (sl : Slot) (t : Dword) (r : BitVec 5) : (sl.finishTo t).getG r = sl.getG r := rfl
@[simp] theorem Slot.getV_finishTo (sl : Slot) (t : Dword) (r : BitVec 4) : (sl.finishTo t).getV r = sl.getV r := rfl
@[simp] theorem Slot.getK_finishTo (sl : Slot) (t : Dword) (r : BitVec 3) : (sl.finishTo t).getK r = sl.getK r := rfl
@[simp] theorem Slot.getG_jump (sl : Slot) (t : Dword) (r : BitVec 5) : (sl.jump t).getG r = sl.getG r := rfl

/-! ### Completing an instruction (R118, R332) -/

/-- Completing in sequence, outside every hardware loop, goes on after the instruction. -/
theorem Slot.finish_pc {sl : Slot} (h0 : sl.loops.lcnt0 = 0) (h1 : sl.loops.lcnt1 = 0) :
    sl.finish.pc = sl.pc + BitVec.ofNat 64 sl.ilen := by
  simp [Slot.finish, Slot.finishTo, endAction, endLevel, h0, h1]

/-- Outside every hardware loop completing leaves the loop registers. -/
theorem Slot.finish_loops {sl : Slot} (h0 : sl.loops.lcnt0 = 0) (h1 : sl.loops.lcnt1 = 0) :
    sl.finish.loops = sl.loops := by
  simp [Slot.finish, Slot.finishTo, endAction, endLevel, h0, h1]

/-- Each completed instruction counts once (R332). -/
@[simp] theorem Slot.finish_instret (sl : Slot) : sl.finish.cnt.instret = sl.cnt.instret + 1 := rfl
@[simp] theorem Slot.finish_round (sl : Slot) : sl.finish.cnt.round = sl.cnt.round := rfl
@[simp] theorem Slot.finish_tcmp (sl : Slot) : sl.finish.cnt.tcmp = sl.cnt.tcmp := rfl
@[simp] theorem Slot.finish_cycleOff (sl : Slot) : sl.finish.cnt.cycleOff = sl.cnt.cycleOff := rfl

/-! ### Exceptions (R335 to R337) -/

/-- The mark of an instruction that did not complete is the model's own. -/
theorem State.markTrapped_slot (s : State) (n m : Nat) (i j : SlotNo) : (s.markTrapped n i).slot m j = s.slot m j := by
  unfold State.markTrapped; split <;> rfl

/-- What taking a trap leaves in the slot, where a trap vector is set and no trap is under way (R335). -/
theorem State.trapEntry_slot (s : State) (n : Nat) (i : SlotNo) (cause : BitVec 8) (addr ret : Dword)
    (hx : (s.slot n i).st.exl = false) (hv : (s.slot n i).vec.tvec.getLsbD 0 = true) :
    (s.trapEntry n i cause addr ret).slot n i =
      { s.slot n i with
        vec := { (s.slot n i).vec with epc := ret, ecause := cause, eaddr := addr },
        st := { (s.slot n i).st with pmode := (s.slot n i).st.mode, exl := true,
                                     mode := if (s.slot n i).st.mode = .user then .supervisor
                                             else (s.slot n i).st.mode },
        pc := ((s.slot n i).vec.tvec &&& 0x1FFFE).setWidth 64,
        lastPc := none,
        turnOn := none,
        run := .running } := by
  unfold State.trapEntry
  rw [if_neg (by simp [hx]), if_neg (by rw [hv]; decide), State.markTrapped_slot, State.slot_setSlot_self]

/-- Taking a trap leaves every other slot as it was, where a trap vector is set and no trap is under way. -/
theorem State.trapEntry_other (s : State) (n m : Nat) (i j : SlotNo) (cause : BitVec 8) (addr ret : Dword)
    (hx : (s.slot n i).st.exl = false) (hv : (s.slot n i).vec.tvec.getLsbD 0 = true) (h : ¬(m = n ∧ j = i)) :
    (s.trapEntry n i cause addr ret).slot m j = s.slot m j := by
  unfold State.trapEntry
  rw [if_neg (by simp [hx]), if_neg (by rw [hv]; decide), State.markTrapped_slot, State.slot_setSlot, if_neg h]

/-- Returning from a trap restores the mode, but on a processor of a root chiplet, and clears EXL (R329, R337). -/
theorem State.trapReturn_me (s : State) (h : s.returnable s.me.vec.epc = true) :
    s.trapReturn.me = { s.me.jump s.me.vec.epc with
      st := { s.me.st with mode := if s.onRoot s.curCore then s.me.st.mode else s.me.st.pmode, exl := false } } := by
  simp [State.trapReturn, h]

/-- Returning from an upcall clears UPC and OVF (R337). -/
theorem State.upcallReturn_me (s : State) (h : s.returnable s.me.vec.uepc = true) :
    s.upcallReturn.me = { s.me.jump s.me.vec.uepc with st := { s.me.st with upc := false, ovf := false } } := by
  simp [State.upcallReturn, h]

end Sys2Proof.Machine
end

