-- ==== Sys2Proof/Laws/Frames.lean ====
section
/-!
SUPPORT. What the shared ways of completing an instruction leave unchanged: the frame of a change of the executing slot,
and the result of an instruction that writes one general register.
-/
namespace Sys2Proof.Machine

/-- A change of the executing slot that keeps the parts of it that `Frame` names has that frame. -/
theorem frame_modMe {s : State} {f : Slot → Slot} {gs : List (BitVec 5)} {vs : List (BitVec 4)} {ks : List (BitVec 3)}
    (hg : ∀ r, r ∉ gs → (f s.me).getG r = s.me.getG r) (hv : ∀ r, r ∉ vs → (f s.me).getV r = s.me.getV r)
    (hk : ∀ r, r ∉ ks → (f s.me).getK r = s.me.getK r)
    (h : (f s.me).st = s.me.st ∧ (f s.me).vec = s.me.vec ∧ (f s.me).mons = s.me.mons ∧ (f s.me).run = s.me.run)
    (hp : (f s.me).pending = s.me.pending ∧ (f s.me).deferred = s.me.deferred ∧
      (f s.me).outstanding = s.me.outstanding)
    (ho : (f s.me).job = s.me.job ∧ (f s.me).phint = s.me.phint ∧ (f s.me).parked = s.me.parked ∧
      (f s.me).capture = s.me.capture) :
    Frame s (s.modMe f) gs vs ks where
  only := by simp [State.modMe_eq]
  memory := fun _ => rfl
  slot :=
    { executing := ⟨rfl, rfl⟩
      general := fun r hr => by simp [State.getG, hg r hr]
      vector := fun r hr => by simp [State.getV, hv r hr]
      mask := fun r hr => by simp [State.getK, hk r hr]
      status := by simp [h.1]
      exceptions := by simp [h.2.1]
      owner := by simp [ho] }
  monitors := by simp [h.2.2.1]
  running := by simp [h.2.2.2]
  pending := by simp [hp]

/-- Completing in sequence is a change of the executing slot. -/
theorem State.finish_eq (s : State) (len : Nat) : s.finish len = s.modMe (fun sl => { sl with ilen := len }.finish) := rfl

/-- Writing a register and completing is one change of the executing slot. -/
theorem State.write_eq (s : State) (len : Nat) (d : BitVec 5) (x : Dword) :
    s.write len d x = s.modMe (fun sl => { sl.setG d x with ilen := len }.finish) := by
  simp [State.write, State.setG, State.finish]

/-- A result that takes longer only keeps the slot from issuing. -/
theorem State.slow_eq (s : State) :
    s.slow = s.modMe (fun sl => { sl with readyAt := sl.readyAt + Config.stall s.tick }) := rfl

/-- A register written with everything else of the slot but its PC, loop levels and counters kept. -/
theorem result_modMe {s : State} {i : Instr} {len : Nat} {d : BitVec 5} {x : Dword} (r : Nat)
    (h : exec i s = .next (s.modMe (fun sl => { { sl.setG d x with ilen := len }.finish with readyAt := r }))) :
    Result s i len d x := by
  refine ⟨_, h, ?_, ?_, ?_, ?_⟩
  · rw [State.getG, State.me_modMe]
    exact (Slot.getG_setG s.me d d x).trans (by simp)
  · apply frame_modMe
    · intro q hq
      have hne : q ≠ d := by simpa using hq
      show (s.me.setG d x).getG q = s.me.getG q
      rw [Slot.getG_setG, if_neg hne]
      split
      · subst_vars; rfl
      · rfl
    · intro q _
      show (s.me.setG d x).getV q = s.me.getV q
      simp [Slot.getV]
    · intro q _
      show (s.me.setG d x).getK q = s.me.getK q
      simp [Slot.getK]
    all_goals simp
  · simp
  · constructor
    · simp [Slot.finish, Slot.finishTo]
    · simp [Slot.finish, Slot.finishTo]

/-- An instruction that answers a write has that result. -/
theorem result_write {s : State} {i : Instr} {len : Nat} {d : BitVec 5} {x : Dword}
    (h : exec i s = .next (s.write len d x)) : Result s i len d x := by
  refine result_modMe s.me.readyAt (h.trans ?_)
  rw [State.write_eq, State.modMe_eq, State.modMe_eq]
  simp [Slot.finish, Slot.finishTo]

/-- So has one whose result takes longer. -/
theorem result_write_slow {s : State} {i : Instr} {len : Nat} {d : BitVec 5} {x : Dword}
    (h : exec i s = .next (s.write len d x).slow) : Result s i len d x := by
  refine result_modMe (s.me.readyAt + Config.stall s.tick) (h.trans ?_)
  rw [State.slow_eq, State.write_eq, State.modMe_modMe, State.modMe_tick, State.modMe_eq, State.modMe_eq]
  simp [Slot.finish, Slot.finishTo]

/-- An instruction that only completes changes nothing but the PC, the loop levels and the counters. -/
theorem finish_frame (s : State) (len : Nat) :
    Frame s (s.finish len) [] [] [] ∧ (s.finish len).me.fp = s.me.fp ∧ Advances s (s.finish len) len := by
  refine ⟨?_, by simp [State.finish], ?_, ?_⟩
  · rw [State.finish_eq]
    apply frame_modMe <;> first | (intro q _; rfl) | simp
  · simp [State.finish, Slot.finish, Slot.finishTo]
  · simp [State.finish, Slot.finish, Slot.finishTo]

/-- An instruction that only transfers control changes nothing but the PC and the counters. -/
theorem jump_frame (s : State) (t : Dword) :
    Frame s (s.jump t) [] [] [] ∧ (s.jump t).me.fp = s.me.fp ∧ Jumps s (s.jump t) t := by
  refine ⟨?_, by simp [State.jump], ?_, ?_⟩
  · rw [State.jump]
    apply frame_modMe <;> first | (intro q _; rfl) | simp
  · simp [State.jump, Slot.jump]
  · simp [State.jump, Slot.jump]

end Sys2Proof.Machine
end

