-- ==== Sys2Proof/Laws/PerInstr.lean ====
section
/-!
SUPPORT. The family Encoded, one lemma per constructor: a word that the encoder gives fits in 32 bits and has bit 0 set, so that
it is never read as a compact form (R50).
-/
namespace Sys2Proof.Laws.Encoded

/-- The word of an instruction fits in 32 bits and its bit 0 is set (R50). -/
def Statement (i : Instr) : Prop := ∀ w, encodeWord i = some w → w < 2 ^ 32 ∧ w % 2 = 1

theorem add (d : BitVec 5) (a : BitVec 5) (b : BitVec 5) : Statement (.add d a b) :=
  fun _ h => by cases h; simp only [pack]; omega
theorem sub (d : BitVec 5) (a : BitVec 5) (b : BitVec 5) : Statement (.sub d a b) :=
  fun _ h => by cases h; simp only [pack]; omega
theorem and (d : BitVec 5) (a : BitVec 5) (b : BitVec 5) : Statement (.and d a b) :=
  fun _ h => by cases h; simp only [pack]; omega
theorem or (d : BitVec 5) (a : BitVec 5) (b : BitVec 5) : Statement (.or d a b) :=
  fun _ h => by cases h; simp only [pack]; omega
theorem xor (d : BitVec 5) (a : BitVec 5) (b : BitVec 5) : Statement (.xor d a b) :=
  fun _ h => by cases h; simp only [pack]; omega
theorem andn (d : BitVec 5) (a : BitVec 5) (b : BitVec 5) : Statement (.andn d a b) :=
  fun _ h => by cases h; simp only [pack]; omega
theorem mul (d : BitVec 5) (a : BitVec 5) (b : BitVec 5) : Statement (.mul d a b) :=
  fun _ h => by cases h; simp only [pack]; omega
theorem mulhS (d : BitVec 5) (a : BitVec 5) (b : BitVec 5) : Statement (.mulhS d a b) :=
  fun _ h => by cases h; simp only [pack]; omega
theorem mulhN (d : BitVec 5) (a : BitVec 5) (b : BitVec 5) : Statement (.mulhN d a b) :=
  fun _ h => by cases h; simp only [pack]; omega
theorem divS (d : BitVec 5) (a : BitVec 5) (b : BitVec 5) : Statement (.divS d a b) :=
  fun _ h => by cases h; simp only [pack]; omega
theorem divN (d : BitVec 5) (a : BitVec 5) (b : BitVec 5) : Statement (.divN d a b) :=
  fun _ h => by cases h; simp only [pack]; omega
theorem remS (d : BitVec 5) (a : BitVec 5) (b : BitVec 5) : Statement (.remS d a b) :=
  fun _ h => by cases h; simp only [pack]; omega
theorem remN (d : BitVec 5) (a : BitVec 5) (b : BitVec 5) : Statement (.remN d a b) :=
  fun _ h => by cases h; simp only [pack]; omega
theorem minS (d : BitVec 5) (a : BitVec 5) (b : BitVec 5) : Statement (.minS d a b) :=
  fun _ h => by cases h; simp only [pack]; omega
theorem minN (d : BitVec 5) (a : BitVec 5) (b : BitVec 5) : Statement (.minN d a b) :=
  fun _ h => by cases h; simp only [pack]; omega
theorem maxS (d : BitVec 5) (a : BitVec 5) (b : BitVec 5) : Statement (.maxS d a b) :=
  fun _ h => by cases h; simp only [pack]; omega
theorem maxN (d : BitVec 5) (a : BitVec 5) (b : BitVec 5) : Statement (.maxN d a b) :=
  fun _ h => by cases h; simp only [pack]; omega
theorem seq (d : BitVec 5) (a : BitVec 5) (b : BitVec 5) : Statement (.seq d a b) :=
  fun _ h => by cases h; simp only [pack]; omega
theorem sne (d : BitVec 5) (a : BitVec 5) (b : BitVec 5) : Statement (.sne d a b) :=
  fun _ h => by cases h; simp only [pack]; omega
theorem sltS (d : BitVec 5) (a : BitVec 5) (b : BitVec 5) : Statement (.sltS d a b) :=
  fun _ h => by cases h; simp only [pack]; omega
theorem sltN (d : BitVec 5) (a : BitVec 5) (b : BitVec 5) : Statement (.sltN d a b) :=
  fun _ h => by cases h; simp only [pack]; omega
theorem shl (d : BitVec 5) (a : BitVec 5) (b : BitVec 5) : Statement (.shl d a b) :=
  fun _ h => by cases h; simp only [pack]; omega
theorem shr (d : BitVec 5) (a : BitVec 5) (b : BitVec 5) : Statement (.shr d a b) :=
  fun _ h => by cases h; simp only [pack]; omega
theorem sar (d : BitVec 5) (a : BitVec 5) (b : BitVec 5) : Statement (.sar d a b) :=
  fun _ h => by cases h; simp only [pack]; omega
theorem rol (d : BitVec 5) (a : BitVec 5) (b : BitVec 5) : Statement (.rol d a b) :=
  fun _ h => by cases h; simp only [pack]; omega
theorem addw (d : BitVec 5) (a : BitVec 5) (b : BitVec 5) : Statement (.addw d a b) :=
  fun _ h => by cases h; simp only [pack]; omega
theorem subw (d : BitVec 5) (a : BitVec 5) (b : BitVec 5) : Statement (.subw d a b) :=
  fun _ h => by cases h; simp only [pack]; omega
theorem mulw (d : BitVec 5) (a : BitVec 5) (b : BitVec 5) : Statement (.mulw d a b) :=
  fun _ h => by cases h; simp only [pack]; omega
theorem addi (d : BitVec 5) (a : BitVec 5) (imm : BitVec 12) : Statement (.addi d a imm) :=
  fun _ h => by cases h; simp only [pack]; omega
theorem andi (d : BitVec 5) (a : BitVec 5) (imm : BitVec 12) : Statement (.andi d a imm) :=
  fun _ h => by cases h; simp only [pack]; omega
theorem ori (d : BitVec 5) (a : BitVec 5) (imm : BitVec 12) : Statement (.ori d a imm) :=
  fun _ h => by cases h; simp only [pack]; omega
theorem xori (d : BitVec 5) (a : BitVec 5) (imm : BitVec 12) : Statement (.xori d a imm) :=
  fun _ h => by cases h; simp only [pack]; omega
theorem sltiS (d : BitVec 5) (a : BitVec 5) (imm : BitVec 12) : Statement (.sltiS d a imm) :=
  fun _ h => by cases h; simp only [pack]; omega
theorem sltiN (d : BitVec 5) (a : BitVec 5) (imm : BitVec 12) : Statement (.sltiN d a imm) :=
  fun _ h => by cases h; simp only [pack]; omega
theorem shli (d : BitVec 5) (a : BitVec 5) (sc : BitVec 6) : Statement (.shli d a sc) :=
  fun _ h => by cases h; simp only [pack]; omega
theorem shri (d : BitVec 5) (a : BitVec 5) (sc : BitVec 6) : Statement (.shri d a sc) :=
  fun _ h => by cases h; simp only [pack]; omega
theorem sari (d : BitVec 5) (a : BitVec 5) (sc : BitVec 6) : Statement (.sari d a sc) :=
  fun _ h => by cases h; simp only [pack]; omega
theorem lih (d : BitVec 5) (imm : BitVec 20) : Statement (.lih d imm) := fun _ h => by cases h; simp only [pack]; omega
theorem lit (d : BitVec 5) (imm : BitVec 20) : Statement (.lit d imm) := fun _ h => by cases h; simp only [pack]; omega
theorem clz (d : BitVec 5) (a : BitVec 5) : Statement (.clz d a) := fun _ h => by cases h; simp only [pack]; omega
theorem ctz (d : BitVec 5) (a : BitVec 5) : Statement (.ctz d a) := fun _ h => by cases h; simp only [pack]; omega
theorem popc (d : BitVec 5) (a : BitVec 5) : Statement (.popc d a) := fun _ h => by cases h; simp only [pack]; omega
theorem brev (d : BitVec 5) (a : BitVec 5) : Statement (.brev d a) := fun _ h => by cases h; simp only [pack]; omega
theorem bswap (d : BitVec 5) (a : BitVec 5) : Statement (.bswap d a) := fun _ h => by cases h; simp only [pack]; omega
theorem sel (d : BitVec 5) (a : BitVec 5) (b : BitVec 5) (cc : BitVec 5) : Statement (.sel d a b cc) :=
  fun _ h => by cases h; simp only [pack]; omega
theorem bfx (d : BitVec 5) (a : BitVec 5) (pos : BitVec 6) (ln : BitVec 6) : Statement (.bfx d a pos ln) :=
  fun _ h => by cases h; simp only [pack]; omega
theorem bfi (d : BitVec 5) (a : BitVec 5) (pos : BitVec 6) (ln : BitVec 6) : Statement (.bfi d a pos ln) :=
  fun _ h => by cases h; simp only [pack]; omega
theorem lea (d : BitVec 5) (a : BitVec 5) (b : BitVec 5) (sc : BitVec 3) : Statement (.lea d a b sc) :=
  fun _ h => by cases h; simp only [pack]; omega
theorem slice (d : BitVec 5) (a : BitVec 5) (b : BitVec 5) (num : BitVec 2) : Statement (.slice d a b num) :=
  fun _ h => by cases h; simp only [pack]; omega
theorem beq (a : BitVec 5) (b : BitVec 5) (off : BitVec 12) : Statement (.beq a b off) :=
  fun _ h => by cases h; simp only [pack]; omega
theorem bne (a : BitVec 5) (b : BitVec 5) (off : BitVec 12) : Statement (.bne a b off) :=
  fun _ h => by cases h; simp only [pack]; omega
theorem blt (a : BitVec 5) (b : BitVec 5) (off : BitVec 12) : Statement (.blt a b off) :=
  fun _ h => by cases h; simp only [pack]; omega
theorem bge (a : BitVec 5) (b : BitVec 5) (off : BitVec 12) : Statement (.bge a b off) :=
  fun _ h => by cases h; simp only [pack]; omega
theorem bltn (a : BitVec 5) (b : BitVec 5) (off : BitVec 12) : Statement (.bltn a b off) :=
  fun _ h => by cases h; simp only [pack]; omega
theorem bgen (a : BitVec 5) (b : BitVec 5) (off : BitVec 12) : Statement (.bgen a b off) :=
  fun _ h => by cases h; simp only [pack]; omega
theorem jal (d : BitVec 5) (off : BitVec 20) : Statement (.jal d off) := fun _ h => by cases h; simp only [pack]; omega
theorem jalr (d : BitVec 5) (a : BitVec 5) (imm : BitVec 12) : Statement (.jalr d a imm) :=
  fun _ h => by cases h; simp only [pack]; omega
theorem loop (a : BitVec 5) (off : BitVec 16) : Statement (.loop a off) :=
  fun _ h => by cases h; simp only [pack]; omega
theorem loopi (off : BitVec 8) (cc : BitVec 16) : Statement (.loopi off cc) :=
  fun _ h => by cases h; simp only [pack]; omega
theorem lbrk : Statement .lbrk := fun _ h => by cases h; decide
theorem bench (num : BitVec 3) : Statement (.bench num) := fun _ h => by cases h; simp only [pack]; omega
theorem benchF (num : BitVec 3) : Statement (.benchF num) := fun _ h => by cases h; simp only [pack]; omega
theorem split : Statement .split := fun _ h => by cases h; decide
theorem bxch (d : BitVec 4) (a : BitVec 4) (row : BitVec 1) : Statement (.bxch d a row) :=
  fun _ h => by cases h; simp only [pack]; omega
theorem ldS8 (d : BitVec 5) (a : BitVec 5) (imm : BitVec 12) : Statement (.ldS8 d a imm) :=
  fun _ h => by cases h; simp only [pack]; omega
theorem ldN8 (d : BitVec 5) (a : BitVec 5) (imm : BitVec 12) : Statement (.ldN8 d a imm) :=
  fun _ h => by cases h; simp only [pack]; omega
theorem ldS16 (d : BitVec 5) (a : BitVec 5) (imm : BitVec 12) : Statement (.ldS16 d a imm) :=
  fun _ h => by cases h; simp only [pack]; omega
theorem ldN16 (d : BitVec 5) (a : BitVec 5) (imm : BitVec 12) : Statement (.ldN16 d a imm) :=
  fun _ h => by cases h; simp only [pack]; omega
theorem ldS32 (d : BitVec 5) (a : BitVec 5) (imm : BitVec 12) : Statement (.ldS32 d a imm) :=
  fun _ h => by cases h; simp only [pack]; omega
theorem ldN32 (d : BitVec 5) (a : BitVec 5) (imm : BitVec 12) : Statement (.ldN32 d a imm) :=
  fun _ h => by cases h; simp only [pack]; omega
theorem ld64 (d : BitVec 5) (a : BitVec 5) (imm : BitVec 12) : Statement (.ld64 d a imm) :=
  fun _ h => by cases h; simp only [pack]; omega
theorem st8 (b : BitVec 5) (a : BitVec 5) (imm : BitVec 12) : Statement (.st8 b a imm) :=
  fun _ h => by cases h; simp only [pack]; omega
theorem st16 (b : BitVec 5) (a : BitVec 5) (imm : BitVec 12) : Statement (.st16 b a imm) :=
  fun _ h => by cases h; simp only [pack]; omega
theorem st32 (b : BitVec 5) (a : BitVec 5) (imm : BitVec 12) : Statement (.st32 b a imm) :=
  fun _ h => by cases h; simp only [pack]; omega
theorem st64 (b : BitVec 5) (a : BitVec 5) (imm : BitVec 12) : Statement (.st64 b a imm) :=
  fun _ h => by cases h; simp only [pack]; omega
theorem ldx (d : BitVec 5) (a : BitVec 5) (b : BitVec 5) (sz : BitVec 2) (gr : BitVec 1) (sh : BitVec 3) : Statement (.ldx d a b sz gr sh) :=
  fun _ h => by cases h; simp only [pack]; omega
theorem stx (d : BitVec 5) (a : BitVec 5) (b : BitVec 5) (sz : BitVec 2) (sh : BitVec 3) : Statement (.stx d a b sz sh) :=
  fun _ h => by cases h; simp only [pack]; omega
theorem vld (d : BitVec 4) (a : BitVec 5) (km : BitVec 3) (sz : BitVec 2) (off : BitVec 9) : Statement (.vld d a km sz off) :=
  fun _ h => by cases h; simp only [pack]; omega
theorem vst (d : BitVec 4) (a : BitVec 5) (km : BitVec 3) (sz : BitVec 2) (off : BitVec 9) : Statement (.vst d a km sz off) :=
  fun _ h => by cases h; simp only [pack]; omega
theorem vlds (d : BitVec 4) (a : BitVec 5) (km : BitVec 3) (sz : BitVec 2) (b : BitVec 5) : Statement (.vlds d a km sz b) :=
  fun _ h => by cases h; simp only [pack]; omega
theorem vsts (d : BitVec 4) (a : BitVec 5) (km : BitVec 3) (sz : BitVec 2) (b : BitVec 5) : Statement (.vsts d a km sz b) :=
  fun _ h => by cases h; simp only [pack]; omega
theorem vgth (d : BitVec 4) (a : BitVec 5) (b : BitVec 4) (km : BitVec 3) (sz : BitVec 2) (sh : BitVec 2) : Statement (.vgth d a b km sz sh) :=
  fun _ h => by cases h; simp only [pack]; omega
theorem vsct (d : BitVec 4) (a : BitVec 5) (b : BitVec 4) (km : BitVec 3) (sz : BitVec 2) (sh : BitVec 2) : Statement (.vsct d a b km sz sh) :=
  fun _ h => by cases h; simp only [pack]; omega
theorem ldf (d : BitVec 5) (a : BitVec 5) (imm : BitVec 12) : Statement (.ldf d a imm) :=
  fun _ h => by cases h; simp only [pack]; omega
theorem ldfC (d : BitVec 5) (a : BitVec 5) (imm : BitVec 12) : Statement (.ldfC d a imm) :=
  fun _ h => by cases h; simp only [pack]; omega
theorem stf (b : BitVec 5) (a : BitVec 5) (imm : BitVec 12) : Statement (.stf b a imm) :=
  fun _ h => by cases h; simp only [pack]; omega
theorem feclr (b : BitVec 5) (a : BitVec 5) : Statement (.feclr b a) := fun _ h => by cases h; simp only [pack]; omega
theorem ldaq (d : BitVec 5) (a : BitVec 5) (sc : BitVec 3) (sz : BitVec 1) (off : BitVec 10) : Statement (.ldaq d a sc sz off) :=
  fun _ h => by cases h; simp only [pack]; omega
theorem strl (d : BitVec 5) (a : BitVec 5) (sc : BitVec 3) (sz : BitVec 1) (off : BitVec 10) : Statement (.strl d a sc sz off) :=
  fun _ h => by cases h; simp only [pack]; omega
theorem fence (sc : BitVec 3) : Statement (.fence sc) := fun _ h => by cases h; simp only [pack]; omega
theorem fenceAcq (sc : BitVec 3) : Statement (.fenceAcq sc) := fun _ h => by cases h; simp only [pack]; omega
theorem fenceRel (sc : BitVec 3) : Statement (.fenceRel sc) := fun _ h => by cases h; simp only [pack]; omega
theorem pref (ln : BitVec 2) (a : BitVec 5) (imm : BitVec 12) : Statement (.pref ln a imm) :=
  fun _ h => by cases h; simp only [pack]; omega
theorem ncinv (a : BitVec 5) (imm : BitVec 12) : Statement (.ncinv a imm) :=
  fun _ h => by cases h; simp only [pack]; omega
theorem cinv (a : BitVec 5) (imm : BitVec 12) : Statement (.cinv a imm) :=
  fun _ h => by cases h; simp only [pack]; omega
theorem amoAdd (d : BitVec 5) (a : BitVec 5) (b : BitVec 5) (sz : BitVec 1) (off : BitVec 2) (sc : BitVec 3) : Statement (.amoAdd d a b sz off sc) :=
  fun _ h => by cases h; simp only [pack]; omega
theorem amoAnd (d : BitVec 5) (a : BitVec 5) (b : BitVec 5) (sz : BitVec 1) (off : BitVec 2) (sc : BitVec 3) : Statement (.amoAnd d a b sz off sc) :=
  fun _ h => by cases h; simp only [pack]; omega
theorem amoOr (d : BitVec 5) (a : BitVec 5) (b : BitVec 5) (sz : BitVec 1) (off : BitVec 2) (sc : BitVec 3) : Statement (.amoOr d a b sz off sc) :=
  fun _ h => by cases h; simp only [pack]; omega
theorem amoXor (d : BitVec 5) (a : BitVec 5) (b : BitVec 5) (sz : BitVec 1) (off : BitVec 2) (sc : BitVec 3) : Statement (.amoXor d a b sz off sc) :=
  fun _ h => by cases h; simp only [pack]; omega
theorem amoMinS (d : BitVec 5) (a : BitVec 5) (b : BitVec 5) (sz : BitVec 1) (off : BitVec 2) (sc : BitVec 3) : Statement (.amoMinS d a b sz off sc) :=
  fun _ h => by cases h; simp only [pack]; omega
theorem amoMinN (d : BitVec 5) (a : BitVec 5) (b : BitVec 5) (sz : BitVec 1) (off : BitVec 2) (sc : BitVec 3) : Statement (.amoMinN d a b sz off sc) :=
  fun _ h => by cases h; simp only [pack]; omega
theorem amoMaxS (d : BitVec 5) (a : BitVec 5) (b : BitVec 5) (sz : BitVec 1) (off : BitVec 2) (sc : BitVec 3) : Statement (.amoMaxS d a b sz off sc) :=
  fun _ h => by cases h; simp only [pack]; omega
theorem amoMaxN (d : BitVec 5) (a : BitVec 5) (b : BitVec 5) (sz : BitVec 1) (off : BitVec 2) (sc : BitVec 3) : Statement (.amoMaxN d a b sz off sc) :=
  fun _ h => by cases h; simp only [pack]; omega
theorem amoSwap (d : BitVec 5) (a : BitVec 5) (b : BitVec 5) (sz : BitVec 1) (off : BitVec 2) (sc : BitVec 3) : Statement (.amoSwap d a b sz off sc) :=
  fun _ h => by cases h; simp only [pack]; omega
theorem amoCas (d : BitVec 5) (a : BitVec 5) (b : BitVec 5) (sz : BitVec 1) (off : BitVec 2) (sc : BitVec 3) : Statement (.amoCas d a b sz off sc) :=
  fun _ h => by cases h; simp only [pack]; omega
theorem amoFaddF32 (d : BitVec 5) (a : BitVec 5) (b : BitVec 5) (off : BitVec 2) (sc : BitVec 3) : Statement (.amoFaddF32 d a b off sc) :=
  fun _ h => by cases h; simp only [pack]; omega
theorem amoFaddBf16x2 (d : BitVec 5) (a : BitVec 5) (b : BitVec 5) (off : BitVec 2) (sc : BitVec 3) : Statement (.amoFaddBf16x2 d a b off sc) :=
  fun _ h => by cases h; simp only [pack]; omega
theorem amoFmaxF32 (d : BitVec 5) (a : BitVec 5) (b : BitVec 5) (off : BitVec 2) (sc : BitVec 3) : Statement (.amoFmaxF32 d a b off sc) :=
  fun _ h => by cases h; simp only [pack]; omega
theorem redAdd (a : BitVec 5) (b : BitVec 5) (sz : BitVec 1) (off : BitVec 1) (sc : BitVec 3) : Statement (.redAdd a b sz off sc) :=
  fun _ h => by cases h; simp only [pack]; omega
theorem redAnd (a : BitVec 5) (b : BitVec 5) (sz : BitVec 1) (off : BitVec 1) (sc : BitVec 3) : Statement (.redAnd a b sz off sc) :=
  fun _ h => by cases h; simp only [pack]; omega
theorem redOr (a : BitVec 5) (b : BitVec 5) (sz : BitVec 1) (off : BitVec 1) (sc : BitVec 3) : Statement (.redOr a b sz off sc) :=
  fun _ h => by cases h; simp only [pack]; omega
theorem redXor (a : BitVec 5) (b : BitVec 5) (sz : BitVec 1) (off : BitVec 1) (sc : BitVec 3) : Statement (.redXor a b sz off sc) :=
  fun _ h => by cases h; simp only [pack]; omega
theorem redMinS (a : BitVec 5) (b : BitVec 5) (sz : BitVec 1) (off : BitVec 1) (sc : BitVec 3) : Statement (.redMinS a b sz off sc) :=
  fun _ h => by cases h; simp only [pack]; omega
theorem redMinN (a : BitVec 5) (b : BitVec 5) (sz : BitVec 1) (off : BitVec 1) (sc : BitVec 3) : Statement (.redMinN a b sz off sc) :=
  fun _ h => by cases h; simp only [pack]; omega
theorem redMaxS (a : BitVec 5) (b : BitVec 5) (sz : BitVec 1) (off : BitVec 1) (sc : BitVec 3) : Statement (.redMaxS a b sz off sc) :=
  fun _ h => by cases h; simp only [pack]; omega
theorem redMaxN (a : BitVec 5) (b : BitVec 5) (sz : BitVec 1) (off : BitVec 1) (sc : BitVec 3) : Statement (.redMaxN a b sz off sc) :=
  fun _ h => by cases h; simp only [pack]; omega
theorem redFaddF32 (a : BitVec 5) (b : BitVec 5) (off : BitVec 1) (sc : BitVec 3) : Statement (.redFaddF32 a b off sc) :=
  fun _ h => by cases h; simp only [pack]; omega
theorem redFaddBf16x2 (a : BitVec 5) (b : BitVec 5) (off : BitVec 1) (sc : BitVec 3) : Statement (.redFaddBf16x2 a b off sc) :=
  fun _ h => by cases h; simp only [pack]; omega
theorem redFmaxF32 (a : BitVec 5) (b : BitVec 5) (off : BitVec 1) (sc : BitVec 3) : Statement (.redFmaxF32 a b off sc) :=
  fun _ h => by cases h; simp only [pack]; omega
theorem marm (md : BitVec 2) (a : BitVec 5) (imm : BitVec 12) : Statement (.marm md a imm) :=
  fun _ h => by cases h; simp only [pack]; omega
theorem mwait (d : BitVec 5) (a : BitVec 5) : Statement (.mwait d a) := fun _ h => by cases h; simp only [pack]; omega
theorem mdisarm (md : BitVec 2) : Statement (.mdisarm md) := fun _ h => by cases h; simp only [pack]; omega
theorem mdisarmAll : Statement .mdisarmAll := fun _ h => by cases h; decide
theorem bar (cc : BitVec 4) (num : BitVec 5) : Statement (.bar cc num) := fun _ h => by cases h; simp only [pack]; omega
theorem bara (cc : BitVec 4) (num : BitVec 5) : Statement (.bara cc num) :=
  fun _ h => by cases h; simp only [pack]; omega
theorem barw (num : BitVec 5) : Statement (.barw num) := fun _ h => by cases h; simp only [pack]; omega
theorem gbar (pos : BitVec 2) : Statement (.gbar pos) := fun _ h => by cases h; simp only [pack]; omega
theorem cwait (d : BitVec 5) (a : BitVec 5) (b : BitVec 5) (num : BitVec 5) : Statement (.cwait d a b num) :=
  fun _ h => by cases h; simp only [pack]; omega
theorem cadd (a : BitVec 5) (num : BitVec 5) : Statement (.cadd a num) := fun _ h => by cases h; simp only [pack]; omega
theorem cset (a : BitVec 5) (num : BitVec 5) : Statement (.cset a num) := fun _ h => by cases h; simp only [pack]; omega
theorem crd (d : BitVec 5) (num : BitVec 5) : Statement (.crd d num) := fun _ h => by cases h; simp only [pack]; omega
theorem send (d : BitVec 5) (a : BitVec 5) (sc : BitVec 5) (num : BitVec 2) : Statement (.send d a sc num) :=
  fun _ h => by cases h; simp only [pack]; omega
theorem sendm (d : BitVec 5) (a : BitVec 5) (b : BitVec 5) (sc : BitVec 5) : Statement (.sendm d a b sc) :=
  fun _ h => by cases h; simp only [pack]; omega
theorem sendl (d : BitVec 5) (b : BitVec 5) (sc : BitVec 5) : Statement (.sendl d b sc) :=
  fun _ h => by cases h; simp only [pack]; omega
theorem mrecv (d : BitVec 5) (a : BitVec 5) : Statement (.mrecv d a) := fun _ h => by cases h; simp only [pack]; omega
theorem nlook (d : BitVec 5) (a : BitVec 5) : Statement (.nlook d a) := fun _ h => by cases h; simp only [pack]; omega
theorem ninv (a : BitVec 5) : Statement (.ninv a) := fun _ h => by cases h; simp only [pack]; omega
theorem qget (d : BitVec 5) (qn : BitVec 3) : Statement (.qget d qn) := fun _ h => by cases h; simp only [pack]; omega
theorem qput (a : BitVec 5) (qn : BitVec 3) : Statement (.qput a qn) := fun _ h => by cases h; simp only [pack]; omega
theorem vqget (d : BitVec 4) (qn : BitVec 3) : Statement (.vqget d qn) := fun _ h => by cases h; simp only [pack]; omega
theorem vqput (a : BitVec 4) (qn : BitVec 3) : Statement (.vqput a qn) := fun _ h => by cases h; simp only [pack]; omega
theorem qstat (d : BitVec 5) (qn : BitVec 3) : Statement (.qstat d qn) := fun _ h => by cases h; simp only [pack]; omega
theorem clsw (a : BitVec 5) (cc : BitVec 5) : Statement (.clsw a cc) := fun _ h => by cases h; simp only [pack]; omega
theorem chfree (a : BitVec 5) (cc : BitVec 5) : Statement (.chfree a cc) :=
  fun _ h => by cases h; simp only [pack]; omega
theorem chsync (d : BitVec 5) (a : BitVec 5) : Statement (.chsync d a) := fun _ h => by cases h; simp only [pack]; omega
theorem vadd (d : BitVec 4) (a : BitVec 4) (b : BitVec 4) (km : BitVec 3) (ty : BitVec 5) (sc : BitVec 1) : Statement (.vadd d a b km ty sc) :=
  fun _ h => by cases h; simp only [pack]; omega
theorem vsub (d : BitVec 4) (a : BitVec 4) (b : BitVec 4) (km : BitVec 3) (ty : BitVec 5) (sc : BitVec 1) : Statement (.vsub d a b km ty sc) :=
  fun _ h => by cases h; simp only [pack]; omega
theorem vmul (d : BitVec 4) (a : BitVec 4) (b : BitVec 4) (km : BitVec 3) (ty : BitVec 5) (sc : BitVec 1) : Statement (.vmul d a b km ty sc) :=
  fun _ h => by cases h; simp only [pack]; omega
theorem vmulh (d : BitVec 4) (a : BitVec 4) (b : BitVec 4) (km : BitVec 3) (ty : BitVec 5) : Statement (.vmulh d a b km ty) :=
  fun _ h => by cases h; simp only [pack]; omega
theorem vmin (d : BitVec 4) (a : BitVec 4) (b : BitVec 4) (km : BitVec 3) (ty : BitVec 5) : Statement (.vmin d a b km ty) :=
  fun _ h => by cases h; simp only [pack]; omega
theorem vmax (d : BitVec 4) (a : BitVec 4) (b : BitVec 4) (km : BitVec 3) (ty : BitVec 5) : Statement (.vmax d a b km ty) :=
  fun _ h => by cases h; simp only [pack]; omega
theorem vabs (d : BitVec 4) (a : BitVec 4) (km : BitVec 3) (ty : BitVec 5) (sc : BitVec 1) : Statement (.vabs d a km ty sc) :=
  fun _ h => by cases h; simp only [pack]; omega
theorem vneg (d : BitVec 4) (a : BitVec 4) (km : BitVec 3) (ty : BitVec 5) (sc : BitVec 1) : Statement (.vneg d a km ty sc) :=
  fun _ h => by cases h; simp only [pack]; omega
theorem vfma (d : BitVec 4) (a : BitVec 4) (b : BitVec 4) (km : BitVec 3) (ty : BitVec 5) : Statement (.vfma d a b km ty) :=
  fun _ h => by cases h; simp only [pack]; omega
theorem vfms (d : BitVec 4) (a : BitVec 4) (b : BitVec 4) (km : BitVec 3) (ty : BitVec 5) : Statement (.vfms d a b km ty) :=
  fun _ h => by cases h; simp only [pack]; omega
theorem vfnma (d : BitVec 4) (a : BitVec 4) (b : BitVec 4) (km : BitVec 3) (ty : BitVec 5) : Statement (.vfnma d a b km ty) :=
  fun _ h => by cases h; simp only [pack]; omega
theorem vdot (d : BitVec 4) (a : BitVec 4) (b : BitVec 4) (km : BitVec 3) (ty : BitVec 5) : Statement (.vdot d a b km ty) :=
  fun _ h => by cases h; simp only [pack]; omega
theorem vand (d : BitVec 4) (a : BitVec 4) (b : BitVec 4) (km : BitVec 3) (ty : BitVec 5) : Statement (.vand d a b km ty) :=
  fun _ h => by cases h; simp only [pack]; omega
theorem vor (d : BitVec 4) (a : BitVec 4) (b : BitVec 4) (km : BitVec 3) (ty : BitVec 5) : Statement (.vor d a b km ty) :=
  fun _ h => by cases h; simp only [pack]; omega
theorem vxor (d : BitVec 4) (a : BitVec 4) (b : BitVec 4) (km : BitVec 3) (ty : BitVec 5) : Statement (.vxor d a b km ty) :=
  fun _ h => by cases h; simp only [pack]; omega
theorem vnot (d : BitVec 4) (a : BitVec 4) (km : BitVec 3) (ty : BitVec 5) : Statement (.vnot d a km ty) :=
  fun _ h => by cases h; simp only [pack]; omega
theorem vshl (d : BitVec 4) (a : BitVec 4) (b : BitVec 4) (km : BitVec 3) (ty : BitVec 5) : Statement (.vshl d a b km ty) :=
  fun _ h => by cases h; simp only [pack]; omega
theorem vshr (d : BitVec 4) (a : BitVec 4) (b : BitVec 4) (km : BitVec 3) (ty : BitVec 5) : Statement (.vshr d a b km ty) :=
  fun _ h => by cases h; simp only [pack]; omega
theorem vsar (d : BitVec 4) (a : BitVec 4) (b : BitVec 4) (km : BitVec 3) (ty : BitVec 5) : Statement (.vsar d a b km ty) :=
  fun _ h => by cases h; simp only [pack]; omega
theorem vcmp (kd : BitVec 3) (a : BitVec 4) (b : BitVec 4) (km : BitVec 3) (ty : BitVec 5) (pos : BitVec 5) : Statement (.vcmp kd a b km ty pos) :=
  fun _ h => by cases h; simp only [pack]; omega
theorem vsel (d : BitVec 4) (a : BitVec 4) (b : BitVec 4) (km : BitVec 3) (ty : BitVec 5) : Statement (.vsel d a b km ty) :=
  fun _ h => by cases h; simp only [pack]; omega
theorem vmov (d : BitVec 4) (a : BitVec 4) (km : BitVec 3) (ty : BitVec 5) : Statement (.vmov d a km ty) :=
  fun _ h => by cases h; simp only [pack]; omega
theorem vcvt (d : BitVec 4) (a : BitVec 4) (row : BitVec 3) (sc : BitVec 1) (km : BitVec 3) (ty : BitVec 5) (fl : BitVec 5) : Statement (.vcvt d a row sc km ty fl) :=
  fun _ h => by cases h; simp only [pack]; omega
theorem vperm (d : BitVec 4) (a : BitVec 4) (b : BitVec 4) (km : BitVec 3) (ty : BitVec 5) : Statement (.vperm d a b km ty) :=
  fun _ h => by cases h; simp only [pack]; omega
theorem vshuf (d : BitVec 4) (a : BitVec 4) (b : BitVec 4) (km : BitVec 3) (ty : BitVec 5) : Statement (.vshuf d a b km ty) :=
  fun _ h => by cases h; simp only [pack]; omega
theorem vbcst (d : BitVec 4) (gr : BitVec 5) (ty : BitVec 5) : Statement (.vbcst d gr ty) :=
  fun _ h => by cases h; simp only [pack]; omega
theorem vins (d : BitVec 4) (gr : BitVec 5) (ln : BitVec 6) (ty : BitVec 5) : Statement (.vins d gr ln ty) :=
  fun _ h => by cases h; simp only [pack]; omega
theorem vext (gr : BitVec 5) (a : BitVec 4) (ln : BitVec 6) (ty : BitVec 5) : Statement (.vext gr a ln ty) :=
  fun _ h => by cases h; simp only [pack]; omega
theorem vli (d : BitVec 4) (imm : BitVec 16) (md : BitVec 2) : Statement (.vli d imm md) :=
  fun _ h => by cases h; simp only [pack]; omega
theorem vred (d : BitVec 4) (a : BitVec 4) (km : BitVec 3) (ty : BitVec 5) (off : BitVec 5) : Statement (.vred d a km ty off) :=
  fun _ h => by cases h; simp only [pack]; omega
theorem kand (d : BitVec 3) (a : BitVec 3) (b : BitVec 3) : Statement (.kand d a b) :=
  fun _ h => by cases h; simp only [pack]; omega
theorem kor (d : BitVec 3) (a : BitVec 3) (b : BitVec 3) : Statement (.kor d a b) :=
  fun _ h => by cases h; simp only [pack]; omega
theorem kxor (d : BitVec 3) (a : BitVec 3) (b : BitVec 3) : Statement (.kxor d a b) :=
  fun _ h => by cases h; simp only [pack]; omega
theorem knot (d : BitVec 3) (a : BitVec 3) : Statement (.knot d a) := fun _ h => by cases h; simp only [pack]; omega
theorem kmovKK (d : BitVec 3) (a : BitVec 3) : Statement (.kmovKK d a) := fun _ h => by cases h; simp only [pack]; omega
theorem kpop (gr : BitVec 5) (a : BitVec 3) : Statement (.kpop gr a) := fun _ h => by cases h; simp only [pack]; omega
theorem kmovKG (d : BitVec 3) (gr : BitVec 5) : Statement (.kmovKG d gr) :=
  fun _ h => by cases h; simp only [pack]; omega
theorem kmovGK (gr : BitVec 5) (a : BitVec 3) : Statement (.kmovGK gr a) :=
  fun _ h => by cases h; simp only [pack]; omega
theorem vcls (d : BitVec 4) (a : BitVec 4) (km : BitVec 3) (ty : BitVec 5) : Statement (.vcls d a km ty) :=
  fun _ h => by cases h; simp only [pack]; omega
theorem vscale (d : BitVec 4) (a : BitVec 4) (b : BitVec 4) (km : BitVec 3) (ty : BitVec 5) : Statement (.vscale d a b km ty) :=
  fun _ h => by cases h; simp only [pack]; omega
theorem vrcp (d : BitVec 4) (a : BitVec 4) (km : BitVec 3) (ty : BitVec 5) : Statement (.vrcp d a km ty) :=
  fun _ h => by cases h; simp only [pack]; omega
theorem vrsq (d : BitVec 4) (a : BitVec 4) (km : BitVec 3) (ty : BitVec 5) : Statement (.vrsq d a km ty) :=
  fun _ h => by cases h; simp only [pack]; omega
theorem vexp2 (d : BitVec 4) (a : BitVec 4) (km : BitVec 3) (ty : BitVec 5) : Statement (.vexp2 d a km ty) :=
  fun _ h => by cases h; simp only [pack]; omega
theorem vlog2 (d : BitVec 4) (a : BitVec 4) (km : BitVec 3) (ty : BitVec 5) : Statement (.vlog2 d a km ty) :=
  fun _ h => by cases h; simp only [pack]; omega
theorem vtanh (d : BitVec 4) (a : BitVec 4) (km : BitVec 3) (ty : BitVec 5) : Statement (.vtanh d a km ty) :=
  fun _ h => by cases h; simp only [pack]; omega
theorem vsigm (d : BitVec 4) (a : BitVec 4) (km : BitVec 3) (ty : BitVec 5) : Statement (.vsigm d a km ty) :=
  fun _ h => by cases h; simp only [pack]; omega
theorem vsin (d : BitVec 4) (a : BitVec 4) (km : BitVec 3) (ty : BitVec 5) : Statement (.vsin d a km ty) :=
  fun _ h => by cases h; simp only [pack]; omega
theorem vcos (d : BitVec 4) (a : BitVec 4) (km : BitVec 3) (ty : BitVec 5) : Statement (.vcos d a km ty) :=
  fun _ h => by cases h; simp only [pack]; omega
theorem mcmd (a : BitVec 5) (qn : BitVec 1) : Statement (.mcmd a qn) := fun _ h => by cases h; simp only [pack]; omega
theorem mresume (qn : BitVec 1) : Statement (.mresume qn) := fun _ h => by cases h; simp only [pack]; omega
theorem mabort (qn : BitVec 1) : Statement (.mabort qn) := fun _ h => by cases h; simp only [pack]; omega
theorem mstat (d : BitVec 5) (qn : BitVec 1) : Statement (.mstat d qn) := fun _ h => by cases h; simp only [pack]; omega
theorem mmap (a : BitVec 5) (b : BitVec 5) (qn : BitVec 1) : Statement (.mmap a b qn) :=
  fun _ h => by cases h; simp only [pack]; omega
theorem mmov (d : BitVec 4) (ty : BitVec 5) (row : BitVec 4) : Statement (.mmov d ty row) :=
  fun _ h => by cases h; simp only [pack]; omega
theorem mmovw (d : BitVec 4) (ty : BitVec 5) (row : BitVec 4) : Statement (.mmovw d ty row) :=
  fun _ h => by cases h; simp only [pack]; omega
theorem cpy (d : BitVec 5) (a : BitVec 5) (b : BitVec 5) (num : BitVec 5) (fl : BitVec 1) (cc : BitVec 1) : Statement (.cpy d a b num fl cc) :=
  fun _ h => by cases h; simp only [pack]; omega
theorem cpys (qn : BitVec 3) (a : BitVec 5) (b : BitVec 5) (num : BitVec 5) (cc : BitVec 1) : Statement (.cpys qn a b num cc) :=
  fun _ h => by cases h; simp only [pack]; omega
theorem cpy2d (a : BitVec 5) (num : BitVec 5) (fl : BitVec 1) (cc : BitVec 1) : Statement (.cpy2d a num fl cc) :=
  fun _ h => by cases h; simp only [pack]; omega
theorem coll (a : BitVec 5) (off : BitVec 3) (pos : BitVec 2) : Statement (.coll a off pos) :=
  fun _ h => by cases h; simp only [pack]; omega
theorem ecfg (a : BitVec 5) (tm : BitVec 4) : Statement (.ecfg a tm) := fun _ h => by cases h; simp only [pack]; omega
theorem etrig (tm : BitVec 4) : Statement (.etrig tm) := fun _ h => by cases h; simp only [pack]; omega
theorem wpush (a : BitVec 5) (b : BitVec 5) : Statement (.wpush a b) := fun _ h => by cases h; simp only [pack]; omega
theorem wpop (d : BitVec 5) (b : BitVec 5) : Statement (.wpop d b) := fun _ h => by cases h; simp only [pack]; omega
theorem wquiet (d : BitVec 5) (pos : BitVec 2) : Statement (.wquiet d pos) :=
  fun _ h => by cases h; simp only [pack]; omega
theorem wlvl (d : BitVec 5) (a : BitVec 5) : Statement (.wlvl d a) := fun _ h => by cases h; simp only [pack]; omega
theorem trap (imm : BitVec 12) : Statement (.trap imm) := fun _ h => by cases h; simp only [pack]; omega
theorem eret : Statement .eret := fun _ h => by cases h; decide
theorem upret : Statement .upret := fun _ h => by cases h; decide
theorem crr (d : BitVec 5) (imm : BitVec 12) : Statement (.crr d imm) := fun _ h => by cases h; simp only [pack]; omega
theorem crw (d : BitVec 5) (a : BitVec 5) (imm : BitVec 12) : Statement (.crw d a imm) :=
  fun _ h => by cases h; simp only [pack]; omega
theorem yield : Statement .yield := fun _ h => by cases h; decide
theorem halt : Statement .halt := fun _ h => by cases h; decide
theorem slotgo (a : BitVec 5) (b : BitVec 5) : Statement (.slotgo a b) := fun _ h => by cases h; simp only [pack]; omega
theorem slothalt (a : BitVec 5) : Statement (.slothalt a) := fun _ h => by cases h; simp only [pack]; omega
theorem istw (a : BitVec 5) (b : BitVec 5) : Statement (.istw a b) := fun _ h => by cases h; simp only [pack]; omega
theorem plbinv (a : BitVec 5) : Statement (.plbinv a) := fun _ h => by cases h; simp only [pack]; omega
theorem csave (a : BitVec 5) : Statement (.csave a) := fun _ h => by cases h; simp only [pack]; omega
theorem crest (a : BitVec 5) : Statement (.crest a) := fun _ h => by cases h; simp only [pack]; omega
theorem rbar : Statement .rbar := fun _ h => by cases h; decide
theorem miradd (a : BitVec 5) (b : BitVec 5) : Statement (.miradd a b) := fun _ h => by cases h; simp only [pack]; omega
theorem mirdel (a : BitVec 5) (b : BitVec 5) : Statement (.mirdel a b) := fun _ h => by cases h; simp only [pack]; omega
theorem rstat (d : BitVec 5) : Statement (.rstat d) := fun _ h => by cases h; simp only [pack]; omega
theorem phint (sh : BitVec 5) : Statement (.phint sh) := fun _ h => by cases h; simp only [pack]; omega
theorem pcapw (a : BitVec 5) : Statement (.pcapw a) := fun _ h => by cases h; simp only [pack]; omega
theorem shedw (a : BitVec 5) : Statement (.shedw a) := fun _ h => by cases h; simp only [pack]; omega
theorem illegalInstruction (long : Bool) (word : BitVec 32) : Statement (.illegalInstruction long word) :=
  fun _ h => nomatch h
theorem compactForm (form : Compact) : Statement (.compactForm form) := fun _ h => nomatch h
theorem fetchFault (addr : BitVec 64) (bad : Bool) : Statement (.fetchFault addr bad) := fun _ h => nomatch h
theorem benchFormationTimeout : Statement .benchFormationTimeout := fun _ h => nomatch h
theorem redArrival : Statement .redArrival := fun _ h => nomatch h
theorem hostAtomicCompletion : Statement .hostAtomicCompletion := fun _ h => nomatch h
theorem mwaitTimeout : Statement .mwaitTimeout := fun _ h => nomatch h
theorem groupArrivalMessage : Statement .groupArrivalMessage := fun _ h => nomatch h
theorem groupCompletionMessage : Statement .groupCompletionMessage := fun _ h => nomatch h
theorem cwaitTimeout : Statement .cwaitTimeout := fun _ h => nomatch h
theorem messageArrival : Statement .messageArrival := fun _ h => nomatch h
theorem heldMessageDeposit : Statement .heldMessageDeposit := fun _ h => nomatch h
theorem holdTimeout : Statement .holdTimeout := fun _ h => nomatch h
theorem messageRefusal : Statement .messageRefusal := fun _ h => nomatch h
theorem refusalResend : Statement .refusalResend := fun _ h => nomatch h
theorem nameTableWalk : Statement .nameTableWalk := fun _ h => nomatch h
theorem channelReturnArrival : Statement .channelReturnArrival := fun _ h => nomatch h
theorem channelProbe : Statement .channelProbe := fun _ h => nomatch h
theorem channelProbeArrival : Statement .channelProbeArrival := fun _ h => nomatch h
theorem chsyncRequestArrival : Statement .chsyncRequestArrival := fun _ h => nomatch h
theorem chsyncReplyArrival : Statement .chsyncReplyArrival := fun _ h => nomatch h
theorem chsyncTimeout : Statement .chsyncTimeout := fun _ h => nomatch h
theorem flowDepositAck : Statement .flowDepositAck := fun _ h => nomatch h
theorem qcfgWrite : Statement .qcfgWrite := fun _ h => nomatch h
theorem specialFunctionResult : Statement .specialFunctionResult := fun _ h => nomatch h
theorem matrixCommandStart : Statement .matrixCommandStart := fun _ h => nomatch h
theorem matrixKstep : Statement .matrixKstep := fun _ h => nomatch h
theorem matrixCommandComplete : Statement .matrixCommandComplete := fun _ h => nomatch h
theorem matrixStateError : Statement .matrixStateError := fun _ h => nomatch h
theorem stsprRowArrival : Statement .stsprRowArrival := fun _ h => nomatch h
theorem stsprClosingArrival : Statement .stsprClosingArrival := fun _ h => nomatch h
theorem copyPiece : Statement .copyPiece := fun _ h => nomatch h
theorem copyComplete : Statement .copyComplete := fun _ h => nomatch h
theorem collUnitTransfer : Statement .collUnitTransfer := fun _ h => nomatch h
theorem collUseComplete : Statement .collUseComplete := fun _ h => nomatch h
theorem collBadData : Statement .collBadData := fun _ h => nomatch h
theorem termFire : Statement .termFire := fun _ h => nomatch h
theorem levellingInterval : Statement .levellingInterval := fun _ h => nomatch h
theorem workItemsArrival : Statement .workItemsArrival := fun _ h => nomatch h
theorem workItemsReturn : Statement .workItemsReturn := fun _ h => nomatch h
theorem wquietQuiescent : Statement .wquietQuiescent := fun _ h => nomatch h
theorem wlcfgWrite : Statement .wlcfgWrite := fun _ h => nomatch h
theorem asyncCauseEntry : Statement .asyncCauseEntry := fun _ h => nomatch h
theorem timerInterrupt : Statement .timerInterrupt := fun _ h => nomatch h
theorem slotRejoin : Statement .slotRejoin := fun _ h => nomatch h
theorem fncfgWrite : Statement .fncfgWrite := fun _ h => nomatch h
theorem slotgoArrival : Statement .slotgoArrival := fun _ h => nomatch h
theorem slothaltArrival : Statement .slothaltArrival := fun _ h => nomatch h
theorem istwArrival : Statement .istwArrival := fun _ h => nomatch h
theorem plbinvAck : Statement .plbinvAck := fun _ h => nomatch h
theorem completionNoticeArrival : Statement .completionNoticeArrival := fun _ h => nomatch h
theorem noticeReturn : Statement .noticeReturn := fun _ h => nomatch h
theorem handoverCommand : Statement .handoverCommand := fun _ h => nomatch h
theorem slotCapture : Statement .slotCapture := fun _ h => nomatch h
theorem bankExchange : Statement .bankExchange := fun _ h => nomatch h
theorem handoverComplete : Statement .handoverComplete := fun _ h => nomatch h
theorem roundStream : Statement .roundStream := fun _ h => nomatch h
theorem mirrorStreamComplete : Statement .mirrorStreamComplete := fun _ h => nomatch h
theorem commitPoint : Statement .commitPoint := fun _ h => nomatch h
theorem roundCommit : Statement .roundCommit := fun _ h => nomatch h
theorem recoveryBegin : Statement .recoveryBegin := fun _ h => nomatch h
theorem repowerAttempt : Statement .repowerAttempt := fun _ h => nomatch h
theorem powerGood : Statement .powerGood := fun _ h => nomatch h
theorem selfTestComplete : Statement .selfTestComplete := fun _ h => nomatch h
theorem recoveryRestore : Statement .recoveryRestore := fun _ h => nomatch h
theorem resendLogRewind : Statement .resendLogRewind := fun _ h => nomatch h
theorem resyncRetry : Statement .resyncRetry := fun _ h => nomatch h
theorem recoveryRelease : Statement .recoveryRelease := fun _ h => nomatch h
theorem containmentEvent : Statement .containmentEvent := fun _ h => nomatch h
theorem shedDeadlineExpiry : Statement .shedDeadlineExpiry := fun _ h => nomatch h
theorem coreRetention : Statement .coreRetention := fun _ h => nomatch h
theorem budgetTick : Statement .budgetTick := fun _ h => nomatch h
theorem telemetryFrame : Statement .telemetryFrame := fun _ h => nomatch h
theorem frameLossTimeout : Statement .frameLossTimeout := fun _ h => nomatch h
theorem telemetryEcho : Statement .telemetryEcho := fun _ h => nomatch h
theorem currentStepSample : Statement .currentStepSample := fun _ h => nomatch h
theorem riseHeld : Statement .riseHeld := fun _ h => nomatch h
theorem senseClr : Statement .senseClr := fun _ h => nomatch h
theorem degrClear : Statement .degrClear := fun _ h => nomatch h
theorem zoneTrip : Statement .zoneTrip := fun _ h => nomatch h
theorem phaseFailure : Statement .phaseFailure := fun _ h => nomatch h
theorem thermalClamp : Statement .thermalClamp := fun _ h => nomatch h
theorem thermalPark : Statement .thermalPark := fun _ h => nomatch h
theorem thermalShutdown : Statement .thermalShutdown := fun _ h => nomatch h
theorem clampLift : Statement .clampLift := fun _ h => nomatch h
theorem thermalRestart : Statement .thermalRestart := fun _ h => nomatch h
theorem registerWrite : Statement .registerWrite := fun _ h => nomatch h
theorem remoteRequest : Statement .remoteRequest := fun _ h => nomatch h
theorem remoteReply : Statement .remoteReply := fun _ h => nomatch h
theorem writeAck : Statement .writeAck := fun _ h => nomatch h
theorem plbWalk : Statement .plbWalk := fun _ h => nomatch h
theorem translationWalk : Statement .translationWalk := fun _ h => nomatch h
theorem writeThroughDrain : Statement .writeThroughDrain := fun _ h => nomatch h
theorem waitTableRefusal : Statement .waitTableRefusal := fun _ h => nomatch h
theorem feclrComplete : Statement .feclrComplete := fun _ h => nomatch h
theorem jobLaunch : Statement .jobLaunch := fun _ h => nomatch h
theorem placementWaitExpiry : Statement .placementWaitExpiry := fun _ h => nomatch h
theorem jobComplete : Statement .jobComplete := fun _ h => nomatch h
theorem launchRecordRead : Statement .launchRecordRead := fun _ h => nomatch h
theorem submit : Statement .submit := fun _ h => nomatch h
theorem wqcfg : Statement .wqcfg := fun _ h => nomatch h
theorem queueOwnershipWrite : Statement .queueOwnershipWrite := fun _ h => nomatch h
theorem partlink : Statement .partlink := fun _ h => nomatch h
theorem notify : Statement .notify := fun _ h => nomatch h
theorem fqhead : Statement .fqhead := fun _ h => nomatch h
theorem faultPostArrival : Statement .faultPostArrival := fun _ h => nomatch h
theorem snapctl : Statement .snapctl := fun _ h => nomatch h
theorem lockInterface : Statement .lockInterface := fun _ h => nomatch h
theorem startInterface : Statement .startInterface := fun _ h => nomatch h
theorem stopInterface : Statement .stopInterface := fun _ h => nomatch h
theorem functionLevelReset : Statement .functionLevelReset := fun _ h => nomatch h
theorem tdispViolation : Statement .tdispViolation := fun _ h => nomatch h
theorem getMeasurements : Statement .getMeasurements := fun _ h => nomatch h
theorem hostAtomicop : Statement .hostAtomicop := fun _ h => nomatch h
theorem opticalFrameReceive : Statement .opticalFrameReceive := fun _ h => nomatch h
theorem opticalReplayTimeout : Statement .opticalReplayTimeout := fun _ h => nomatch h
theorem opticalPortUp : Statement .opticalPortUp := fun _ h => nomatch h
theorem layoutbell : Statement .layoutbell := fun _ h => nomatch h
theorem layoutReply : Statement .layoutReply := fun _ h => nomatch h
theorem commit : Statement .commit := fun _ h => nomatch h
theorem meshTick : Statement .meshTick := fun _ h => nomatch h
theorem busyClear : Statement .busyClear := fun _ h => nomatch h
theorem journalReconcile : Statement .journalReconcile := fun _ h => nomatch h
theorem retirementAppend : Statement .retirementAppend := fun _ h => nomatch h
theorem bootLogRead : Statement .bootLogRead := fun _ h => nomatch h
theorem watchdogExpiry : Statement .watchdogExpiry := fun _ h => nomatch h
theorem wdog : Statement .wdog := fun _ h => nomatch h
theorem firmwareImageLoad : Statement .firmwareImageLoad := fun _ h => nomatch h
theorem unexplainedStepDrop : Statement .unexplainedStepDrop := fun _ h => nomatch h
theorem thermalRepowerDeadline : Statement .thermalRepowerDeadline := fun _ h => nomatch h
theorem panelPowerLoss : Statement .panelPowerLoss := fun _ h => nomatch h
theorem hostMemoryRequest : Statement .hostMemoryRequest := fun _ h => nomatch h
theorem scrubberPass : Statement .scrubberPass := fun _ h => nomatch h
theorem mwaitTcmpInterrupt : Statement .mwaitTcmpInterrupt := fun _ h => nomatch h
theorem frameTableWrite : Statement .frameTableWrite := fun _ h => nomatch h

end Sys2Proof.Laws.Encoded
end

