-- ==== Sys2Proof/Laws/Power.lean ====
section
/-!
SUPPORT. The tree of grants gives each core at most one duty: its zones hold different chiplets, and its chiplets different
cores.
-/
namespace Sys2Proof.Machine

/-- The columns of a chiplet are 10 or 11. -/
theorem Layout.cols_cases (l : Layout) : l.cols = 10 ∨ l.cols = 11 := by
  unfold Layout.cols
  split
  · exact .inl rfl
  · exact .inr rfl

/-- The chiplet of a core that is listed for it. -/
theorem State.chip_of_mem_chipCores {s : State} {h n : Nat} (hm : n ∈ s.chipCores h) :
    n / s.gridCols / 12 * 20 + n % s.gridCols / s.layout.cols = h := by
  simp only [State.chipCores, List.mem_filter, List.mem_map, List.mem_range] at hm
  obtain ⟨⟨k, hk, rfl⟩, -⟩ := hm
  simp only [State.gridCols]
  rcases s.layout.cols_cases with c | c <;> rw [c] at hk ⊢ <;> omega

/-- A chiplet's cores are listed once each. -/
theorem State.chipCores_nodup (s : State) (h : Nat) : (s.chipCores h).Nodup := by
  refine List.Pairwise.filter _ (List.pairwise_map.mpr (List.pairwise_lt_range.imp ?_))
  intro x y lt e
  simp only [State.gridCols] at e
  rcases s.layout.cols_cases with c | c <;> rw [c] at e <;> omega

/-- The cores of the duties, zone by zone. -/
theorem State.budget_cores (s : State) :
    s.budget.map Prod.fst = (List.range 50).flatMap (fun z => (zoneChips z).flatMap s.chipCores) := by
  simp only [State.budget, List.map_flatMap, List.flatMap_map, List.map_map]
  simp [Function.comp_def]

/-- Each core has at most one duty. -/
theorem State.budget_nodup (s : State) : (s.budget.map Prod.fst).Nodup := by
  rw [State.budget_cores, List.Nodup, List.pairwise_flatMap]
  have chips : ∀ z, ((zoneChips z).flatMap s.chipCores).Nodup := by
    intro z
    rw [List.Nodup, List.pairwise_flatMap]
    refine ⟨fun h _ => s.chipCores_nodup h, (List.nodup_range.filter _).imp ?_⟩
    rintro h h' ne n hn _ hn' rfl
    exact ne ((State.chip_of_mem_chipCores hn).symm.trans (State.chip_of_mem_chipCores hn'))
  refine ⟨fun z _ => chips z, List.nodup_range.imp ?_⟩
  rintro z z' ne n hn _ hn' rfl
  obtain ⟨h, hz, hh⟩ := List.mem_flatMap.mp hn
  obtain ⟨h', hz', hh'⟩ := List.mem_flatMap.mp hn'
  obtain rfl := (State.chip_of_mem_chipCores hh).symm.trans (State.chip_of_mem_chipCores hh')
  simp only [zoneChips, List.mem_filter, beq_iff_eq] at hz hz'
  exact ne (hz.2.symm.trans hz'.2)

end Sys2Proof.Machine
end

