-- ==== Sys2Proof/Tests/Slice0.lean ====
section
/-!
SUPPORT. Tests: an ill-formed instruction for each check of WellFormed, words written out from the spec's encodings and
listings, single steps on small states with results taken from the spec's rules and examples, and, for each statement of
Certificates/Slice0/Obligations.lean that has hypotheses, states and operands that meet them (`test_meets_…`).
-/
open Sys2Proof Sys2Proof.Machine

namespace Sys2Proof.Tests

-- One theorem after another, so that the checks of many do not hold memory at once.
set_option Elab.async false

/-! ### Small states -/

/-- A user-mode thread of partition 0 on core 0, slot 0, with ADD g0, g0, g0 at its PC. -/
def base : State := State.reset.withFetchWord 32 3

/-- Its slot changed. -/
def withSlot (f : Slot → Slot) : State := base.modMe f

/-- Its registers g1, g2 and g3 set. -/
def regs (x y z : Dword) : State := withSlot (fun sl => ((sl.setG 1 x).setG 2 y).setG 3 z)

/-- What an outcome holds, where it is a next state. -/
def after {α : Type} (o : Host.Outcome State Fault Refusal) (f : State → α) : Option α :=
  match o with
  | .next t => some (f t)
  | .fault _ => none
  | .refused _ => none

/-- An answer is what its option says. -/
theorem ok_of {ε α : Type} {x : Except ε α} {a : α} (h : x.toOption = some a) : x = .ok a := by
  cases x with
  | ok b => exact congrArg Except.ok (Option.some.inj h)
  | error e => exact absurd h (by simp [Except.toOption])

/-- The error of an answer. -/
def errorOf {ε α : Type} : Except ε α → Option ε
  | .ok _ => none
  | .error e => some e

/-- An error is what its option says. -/
theorem error_of {ε α : Type} {x : Except ε α} {e : ε} (h : errorOf x = some e) : x = .error e := by
  cases x with
  | ok b => exact absurd h (by simp [errorOf])
  | error e' => exact congrArg Except.error (Option.some.inj h)

/-- What holds of its one element holds of a list's elements. -/
theorem forall_one {α : Type} {p : α → Prop} {a : α} (h : p a) : ∀ e, e ∈ [a] → p e :=
  fun _ he => List.mem_singleton.mp he ▸ h

/-- What holds of the four conditions of a term holds of each. -/
theorem all_four {p : Fin 4 → Prop} (h : p 0 ∧ p 1 ∧ p 2 ∧ p 3) (c : Fin 4) : p c := by
  have some_of_four : c = 0 ∨ c = 1 ∨ c = 2 ∨ c = 3 := by revert c; decide
  rcases some_of_four with rfl | rfl | rfl | rfl
  · exact h.1
  · exact h.2.1
  · exact h.2.2.1
  · exact h.2.2.2

/-- What is found true of each element of a list holds of its elements. -/
theorem each {α : Type} {l : List α} {p : α → Prop} [DecidablePred p] (h : l.all (fun e => decide (p e)) = true) :
    ∀ e, e ∈ l → p e :=
  fun e he => of_decide_eq_true (List.all_eq_true.mp h e he)

/-- An access that answers a value is a state beside that value. -/
theorem pair_ok {σ ε α : Type} : ∀ {x : σ × Except ε α}, x.2.toOption.isSome = true → ∃ s a, x = (s, .ok a)
  | (s, .ok a), _ => ⟨s, a, rfl⟩

/-- One that answers an error is a state beside that error. -/
theorem pair_error {σ ε α : Type} : ∀ {x : σ × Except ε α}, (errorOf x.2).isSome = true → ∃ s e, x = (s, .error e)
  | (s, .error e), _ => ⟨s, e, rfl⟩

/-! ### States that meet the statements' hypotheses: encoding and scalar instructions -/

theorem test_meets_DecodeOfEncodeIsTheInstruction :
    (Instr.add 31 0 31).wf = true ∧ encode (.add 31 0 31) = some [0x83, 0x0F, 0x3E, 0x00] ∧
    (Instr.compactForm (.cJ 0x7FF)).wf = true ∧ (encode (.compactForm (.cJ 0x7FF))).isSome = true := by decide

/-- An uncorrectable word of the shape record of slot 0 (R44, R158). -/
def badShape : State := { base with bad := [localAddr 0 (List.range 16) 0x1FFFC0] }

theorem test_meets_BitAndShapeOperationsGiveTheirResults :
    ((0 : BitVec 6).toNat + ((63 : BitVec 6).toNat + 1) ≤ 64 ∧ 64 < (1 : BitVec 6).toNat + ((63 : BitVec 6).toNat + 1)) ∧
    base.shareBanks base.curCore base.me.who = List.range 16 ∧
    base.badIn (localAddr 0 (List.range 16) 0x1FFFC0) 16 = none ∧
    (badShape.badIn (localAddr 0 (List.range 16) 0x1FFFC0) 16).isSome = true := by decide

/-- The PC at a given offset. -/
def atPc (pc : Dword) : State := withSlot (fun sl => { (sl.setG 1 1).setG 2 (BitVec.allOnes 64) with pc := pc })

theorem test_meets_BranchesGoWhereTheyCompare :
    (let s := atPc 0x1FFFC
     let x := s.getG 1
     let y := s.getG 2
     (s.slice s.curCore s.me.who).2 = 0x20000 ∧
     (s.me.pc + (1 : BitVec 12).signExtend 64 * 2).toNat < 0x20000 ∧
     0x20000 ≤ (s.me.pc + (2 : BitVec 12).signExtend 64 * 2).toNat ∧
     x ≠ y ∧ ¬(x = y) ∧ ¬x.toInt < y.toInt ∧ y.toInt ≤ x.toInt ∧ x.toNat < y.toNat ∧ ¬y.toNat ≤ x.toNat ∧
     y.toInt < x.toInt ∧ ¬y.toNat < x.toNat) ∧
    (0xC0011 % 128 = 0x11 ∧ 6 ≤ 0xC0011 / 2 ^ 17 % 8) := by decide

theorem test_meets_JumpsLinkAndTransfer :
    (let s := atPc 0x1FFFC
     (s.me.pc + (1 : BitVec 20).signExtend 64 * 2).toNat < (s.slice s.curCore s.me.who).2 ∧
     (s.slice s.curCore s.me.who).2 ≤ (s.me.pc + (2 : BitVec 20).signExtend 64 * 2).toNat ∧
     (s.getG 1 + (0 : BitVec 12).signExtend 64).getLsbD 0 = true ∧
     (s.getG 1 + (1 : BitVec 12).signExtend 64).getLsbD 0 = false ∧
     (s.getG 1 + (1 : BitVec 12).signExtend 64).toNat < (s.slice s.curCore s.me.who).2 ∧
     (s.getG 2 + (0xFFF : BitVec 12).signExtend 64).getLsbD 0 = false ∧
     (s.slice s.curCore s.me.who).2 ≤ (s.getG 2 + (0xFFF : BitVec 12).signExtend 64).toNat) := by decide

/-- Loop levels in use with the given counts, both ending at the PC 0x1FFFC. -/
def looping (n0 n1 : Word) : State :=
  (atPc 0x1FFFC).modMe (fun sl => { sl with loops :=
    { lcnt0 := n0, lbeg0 := 0x10, lend0 := 0x1FFFC, lcnt1 := n1, lbeg1 := 0x20, lend1 := 0x1FFFC } })

/-- Loop levels whose end is the last word of the slice and 4 bytes long. -/
def loopingLong (n0 n1 : Word) : State :=
  { looping n0 n1 with mem := Memory.set (looping n0 n1).mem (istoreAddr 0 0x1FFFC) 3 }

theorem test_meets_HardwareLoopsStartAndBreak :
    (let fin := fun (off : Nat) => ((looping 0 0).me.pc + BitVec.ofNat 64 (2 * off)).toNat
     (looping 1 1).me.loops.lcnt1 ≠ 0 ∧
     ((looping 0 0).me.loops.lcnt1 = 0 ∧ (looping 0 0).me.loops.lcnt0 = 0 ∧ 0x20000 ≤ fin 2 ∧ fin 1 < 0x20000) ∧
     ((looping 0 0).slice (looping 0 0).curCore (looping 0 0).me.who).2 = 0x20000 ∧
     ((looping 0 0).getG 0).setWidth 32 = (0 : Word) ∧ ((looping 0 0).getG 1).setWidth 32 ≠ (0 : Word) ∧
     ((0 : BitVec 16).setWidth 32 = (0 : Word) ∧ (1 : BitVec 16).setWidth 32 ≠ (0 : Word))) ∧
    ((looping 1 0).me.loops.lcnt1 = 0 ∧ (looping 1 0).me.loops.lcnt0 ≠ 0) ∧
    (let s := looping 1 1
     s.me.loops.lcnt1 ≠ 0 ∧
     (s.me.loops.lend1.setWidth 64 + BitVec.ofNat 64 (s.lenAt (s.me.loops.lend1.setWidth 64)) : Dword).toNat < 0x20000) ∧
    (let s := loopingLong 1 1
     0x20000 ≤ (s.me.loops.lend1.setWidth 64 + BitVec.ofNat 64 (s.lenAt (s.me.loops.lend1.setWidth 64)) : Dword).toNat) ∧
    (let s := loopingLong 1 0
     0x20000 ≤ (s.me.loops.lend0.setWidth 64 + BitVec.ofNat 64 (s.lenAt (s.me.loops.lend0.setWidth 64)) : Dword).toNat) := by
  decide

theorem test_meets_LoopEndActionFollowsItsRule :
    let a : Dword := 0x1FFFC
    let b : Dword := 0x1FFF8
    let l := fun n0 n1 => (looping n0 n1).me.loops
    ((l 1 1).lcnt1 ≠ 0 ∧ ¬b = (l 1 1).lend1.setWidth 64) ∧
    (1 < (l 0 2).lcnt1.toNat ∧ a = (l 0 2).lend1.setWidth 64) ∧
    ((l 0 1).lcnt1 = 1 ∧ (l 0 1).lcnt0 = 0) ∧
    ((l 2 1).lcnt1 = 1 ∧ 1 < (l 2 1).lcnt0.toNat ∧ a = (l 2 1).lend0.setWidth 64) ∧
    ((l 1 1).lcnt1 = 1 ∧ (l 1 1).lcnt0 = 1 ∧ a = (l 1 1).lend1.setWidth 64) ∧
    ((l 0 0).lcnt1 = 0 ∧ (l 0 0).lcnt0 = 0) ∧ ((l 1 0).lcnt1 = 0 ∧ ¬b = (l 1 0).lend0.setWidth 64) ∧
    ((l 2 0).lcnt1 = 0 ∧ 1 < (l 2 0).lcnt0.toNat ∧ a = (l 2 0).lend0.setWidth 64) ∧ (l 1 0).lcnt0 = 1 := by decide

/-! ### States that meet the statements' hypotheses: memory -/

/-- Address of offset `o` of the own share. -/
def own (o : Nat) : Nat := localAddr 0 (List.range 16) o

/-- Core 1 is in the name cache of core 0. -/
def named : State := (regs 0x10000200008 0x10000200009 0).modHere (fun c => { c with names := [(0, 1)] })

/-- A page of HBM in the PLB, mapped at 2^48, with every right. -/
def pageOf (place : Place) : PageInfo :=
  { place := place, rdU := true, wrU := true, exU := true, rdS := true, wrS := true, exS := true, rd := true, wr := true,
    ex := true, sa := false, vol := true, mir := false, fe := false, snap := false }

/-- The PLB entry of that page, a near-cache line of it, and the page's translation. -/
def paged : State :=
  let s := (regs 0x1000000000040 0 0).modHere (fun c =>
    { c with plb := [{ part := some 0, base := 2 ^ 48, size := 4096, info := pageOf (.hbm 0) }],
             near := [{ va := 2 ^ 48 + 64, vol := true, data := 0x1122334455667788 }] })
  { s with xlate := [(0, [{ part := some 0, base := 2 ^ 48, size := 4096, phys := 0, host := false }])] }

/-- 31 or 32 outstanding writes, and a name that is known. -/
def posting (n : Nat) : State := named.modMe (fun sl => { sl with outstanding := n })

theorem test_meets_LoadsReadTheirBytes :
    ((0x101 : Dword).toNat % 2 ≠ 0 ∧ (0x1FFFFC : Dword).toNat % 8 ≠ 0) ∧
    base.check base.acc .load 8 0x200000 = .error (.fault 0x13 0x200000) ∧
    base.check base.acc .load 8 0x1FFFF8 = .ok (.self (own 0x1FFFF8)) ∧ base.badIn (own 0x1FFFF8) 8 = none ∧
    (let s := { base with bad := [own 0x1FFFF8] }
     s.check s.acc .load 8 0x1FFFF8 = .ok (.self (own 0x1FFFF8)) ∧ s.badIn (own 0x1FFFF8) 8 = some (own 0x1FFFF8)) ∧
    named.check named.acc .load 8 (named.getG 1) = .ok (.store 1 (localAddr 1 (List.range 16) 8)) ∧
    (paged.check paged.acc .load 8 (paged.getG 1) = .ok (.cached (2 ^ 48 + 64) (pageOf (.hbm 0))) ∧
     paged.isGrid paged.curCore = true ∧
     paged.here.near.find? (fun x => x.va == lineBase (2 ^ 48 + 64)) =
       some { va := 2 ^ 48 + 64, vol := true, data := 0x1122334455667788 } ∧
     firstIn ({ va := 2 ^ 48 + 64, vol := true, data := 0x1122334455667788 } : NearLine).bad 0 8 = none ∧
     (firstIn ({ va := 2 ^ 48 + 64, vol := true, data := 0, bad := 0x80 } : NearLine).bad 0 8).isSome = true) := by
  refine ⟨?_, error_of (?_), ok_of (?_), ?_, ⟨ok_of (?_), ?_⟩, ok_of (?_), ok_of (?_), ?_, ?_, ?_, ?_⟩ <;> decide +kernel

theorem test_meets_StoresWriteTheirBytesOnly :
    (0x1FFFFC : Dword).toNat % 8 ≠ 0 ∧ base.check base.acc .write 8 0x200000 = .error (.fault 0x13 0x200000) ∧
    (base.check base.acc .write 8 0x1FFFF8 = .ok (.self (own 0x1FFFF8)) ∧ Memory.wf base.mem = true ∧ Untraced base ∧
     base.me.run = .running ∧ Sound base (own 0x1FFFF8) 8) ∧
    ((posting 31).check (posting 31).acc .write 8 ((posting 31).getG 1) =
       .ok (.store 1 (localAddr 1 (List.range 16) 8)) ∧ (posting 31).me.outstanding < 32) ∧
    ((posting 32).check (posting 32).acc .write 8 ((posting 32).getG 1) =
       .ok (.store 1 (localAddr 1 (List.range 16) 8)) ∧ 32 ≤ (posting 32).me.outstanding) := by
  refine ⟨?_, error_of (?_), ⟨ok_of (?_), ?_, by unfold Untraced; decide +kernel, ?_, by unfold Sound; decide +kernel⟩,
    ⟨ok_of (?_), ?_⟩, ok_of (?_), ?_⟩ <;> decide +kernel

/-- One lane of 64 bits enabled by k1, at the end of the own share or beyond it. -/
def oneLane (a : Dword) : State := withSlot (fun sl => (sl.setG 1 a).setK 1 0x80)

theorem test_meets_VectorLoadsFillTheEnabledLanes :
    (let s := oneLane 0x1FFFC8
     s.checkAll s.acc .load 8 (s.elements 1 (elemBits 3) (fun j => s.getG 1 + BitVec.ofNat 64 (8 * j))) =
       .error (.fault 0x13 0x200000)) ∧
    (let s := oneLane 0x1FFFC0
     let ts := [(7, (0x1FFFF8 : Dword), Target.self (own 0x1FFFF8))]
     s.checkAll s.acc .load 8 (s.elements 1 (elemBits 3) (fun j => s.getG 1 + BitVec.ofNat 64 (8 * j))) = .ok ts ∧
     (∀ e, e ∈ ts → ∃ p, e.2.2 = .self p ∧ s.badIn p 8 = none) ∧ (s.getK 1).getLsbD 0 = false) := by
  refine ⟨error_of (?_), ok_of (?_), forall_one ⟨own 0x1FFFF8, rfl, ?_⟩, ?_⟩ <;> decide +kernel

theorem test_meets_VectorStoresWriteTheEnabledLanesOnly :
    (let s := oneLane 0x1FFFC8
     s.checkAll s.acc .write 8 (s.elements 1 (elemBits 3) (fun j => s.getG 1 + BitVec.ofNat 64 (8 * j))) =
       .error (.fault 0x13 0x200000)) ∧
    (let s := oneLane 0x1FFFC0
     let ts := [(7, (0x1FFFF8 : Dword), Target.self (own 0x1FFFF8))]
     s.checkAll s.acc .write 8 (s.elements 1 (elemBits 3) (fun j => s.getG 1 + BitVec.ofNat 64 (8 * j))) = .ok ts ∧
     (∀ e, e ∈ ts → ∃ p, e.2.2 = .self p ∧ Sound s p 8) ∧ Memory.wf s.mem = true ∧ Untraced s ∧ s.me.run = .running) := by
  refine ⟨error_of (?_), ok_of (?_), forall_one ⟨own 0x1FFFF8, rfl, by unfold Sound; decide +kernel⟩, ?_,
    by unfold Untraced; decide +kernel, ?_⟩ <;> decide +kernel

/-- The word at offset 8 is full, at scope 1. -/
def fullWord : State := { regs 8 8 0 with full := [(own 8, 1)] }

theorem test_meets_FullEmptyWordsHandOver :
    (risingFrom none fullWord.full = true ∧ risingFrom none fullWord.scopes = true) ∧ (9 : Dword).toNat % 8 ≠ 0 ∧
    base.check base.acc .feRead 8 0x200000 = .error (.fault 0x13 0x200000) ∧
    base.check base.acc .feTake 8 0x200000 = .error (.fault 0x13 0x200000) ∧
    base.check base.acc .feWrite 8 0x200000 = .error (.fault 0x13 0x200000) ∧
    (fullWord.check fullWord.acc .feRead 8 8 = .ok (.self (own 8)) ∧
     fullWord.check fullWord.acc .feTake 8 8 = .ok (.self (own 8)) ∧
     fullWord.check fullWord.acc .feWrite 8 8 = .ok (.self (own 8))) ∧
    (fullWord.isFull (own 8) = true ∧ fullWord.badIn (own 8) 8 = none ∧
     { fullWord with bad := [own 8] }.badIn (own 8) 8 = some (own 8)) ∧ base.isFull (own 8) = false ∧
    (posting 1).me.outstanding ≠ 0 ∧
    (Drained base 1 ∧ Memory.wf base.mem = true ∧ Untraced base ∧ base.me.run = .running ∧ Sound base (own 8) 8 ∧
     ∀ x, x ∈ (base.core (localCore (own 8))).waits → x.word ≠ own 8) ∧
    ((8 : Dword).toNat % 8 = 0 ∧ (64 : Dword).toNat % 8 = 0 ∧ (64 : Dword).toNat ≤ 64 ∧
     fullWord.clearRange 8 8 = .ok (0, [own 8]) ∧ base.clearRange 0x1FFFF8 16 = .error (.fault 0x14 0x200000)) := by
  refine ⟨?_, ?_, error_of (?_), error_of (?_), error_of (?_), ⟨ok_of (?_), ok_of (?_), ok_of (?_)⟩, ?_, ?_, ?_,
    ⟨by unfold Drained; decide +kernel, ?_, by unfold Untraced; decide +kernel, ?_, by unfold Sound; decide +kernel,
    ?_⟩, ?_, ?_, ?_, ok_of (?_), error_of (?_)⟩ <;> decide +kernel

/-- A store of slot 0 in the write-through buffer. -/
def bufferedStore : State :=
  base.modHere (fun c => { c with buffer :=
    [{ slot := 0, part := 0, va := 2 ^ 48 + 64, place := .hbm 0, vol := true, mask := 0xFF, data := 7 }] })

/-- The page of `paged`, not volatile. -/
def steady : State :=
  paged.modHere (fun c => { c with plb := [{ part := some 0, base := 2 ^ 48, size := 4096,
                                             info := { pageOf (.hbm 0) with vol := false } }],
                                   near := [{ va := 2 ^ 48 + 64, vol := false, data := 0x1122334455667788 }] })

theorem test_meets_OrderedAccessesFencesAndCacheMaintenance_stops :
    (0x1FFFFC : Dword).toNat % 8 ≠ 0 ∧ base.check base.acc .load 8 0x200000 = .error (.fault 0x13 0x200000) ∧
    base.check base.acc .read 8 0x200000 = .error (.fault 0x13 0x200000) ∧
    base.check base.acc .write 8 0x200000 = .error (.fault 0x13 0x200000) ∧
    (let s := { base with bad := [own 0x1FFFF8] }
     s.check s.acc .load 8 0x1FFFF8 = .ok (.self (own 0x1FFFF8)) ∧ s.badIn (own 0x1FFFF8) 8 = some (own 0x1FFFF8)) ∧
    ((posting 1).me.outstanding ≠ 0 ∧ (posting 1).check (posting 1).acc .write 8 0x1FFFF8 = .ok (.self (own 0x1FFFF8))) ∧
    (bufferedStore.me.outstanding = 0 ∧ 2 ≤ (2 : BitVec 3).toNat ∧
     (∃ e, e ∈ bufferedStore.here.buffer ∧ e.slot = bufferedStore.curSlot) ∧
     bufferedStore.check bufferedStore.acc .write 8 0x1FFFF8 = .ok (.self (own 0x1FFFF8))) := by
  refine ⟨?_, error_of (?_), error_of (?_), error_of (?_), ⟨ok_of (?_), ?_⟩, ⟨?_, ok_of (?_)⟩, ?_, ?_,
    ⟨_, List.mem_singleton.mpr rfl, ?_⟩, ok_of (?_)⟩ <;> decide +kernel

theorem test_meets_OrderedAccessesFencesAndCacheMaintenance_cached :
    (2 ≤ (2 : BitVec 3).toNat ∧ steady.isGrid steady.curCore = true) ∧
    steady.check steady.acc .read 8 (steady.getG 1 + (0 : BitVec 10).signExtend 64 * BitVec.ofNat 64 8) =
      .ok (.cached (2 ^ 48 + 64) { pageOf (.hbm 0) with vol := false }) ∧
    after (exec (.ldaq 4 1 2 1 0) steady) (fun t => t.me.run) = some (.waiting .rejoin) := by
  refine ⟨?_, ok_of (?_), ?_⟩ <;> decide +kernel

theorem test_meets_OrderedAccessesFencesAndCacheMaintenance :
    (base.check base.acc .load 8 0x1FFFF8 = .ok (.self (own 0x1FFFF8)) ∧
     base.check base.acc .read 8 0x1FFFF8 = .ok (.self (own 0x1FFFF8)) ∧ base.badIn (own 0x1FFFF8) 8 = none) ∧
    (base.check base.acc .write 8 0x1FFFF8 = .ok (.self (own 0x1FFFF8)) ∧ (∀ sc, sc ∈ [0, 1, 2, 3, 4] → Drained base sc) ∧
     Memory.wf base.mem = true ∧ Untraced base ∧ base.me.run = .running ∧ Sound base (own 0x1FFFF8) 8) ∧
    (2 ≤ (2 : BitVec 3).toNat ∧ base.isGrid base.curCore = true ∧ (posting 1).me.outstanding ≠ 0) ∧
    ((0xFFFFFFFFFFFF : Dword).toNat < 2 ^ 48 ∧ 2 ^ 56 ≤ (0x100000000000000 : Dword).toNat) ∧
    base.lineToDrop 0x200000 = .error (.fault 0x13 0x200000) ∧ base.lineToDrop 0x1FFFFF = .ok none ∧
    paged.lineToDrop (paged.getG 1) = .ok (some (2 ^ 48 + 64)) ∧
    (let s := { paged with curCore := 0xF000, cores := insertNat 0xF000 paged.here paged.cores }
     s.lineToDrop (s.getG 1) = .ok (some (2 ^ 48 + 64)) ∧ s.isGrid s.curCore = false) := by
  refine ⟨⟨ok_of (?_), ok_of (?_), ?_⟩, ⟨ok_of (?_), by unfold Drained; decide +kernel, ?_,
    by unfold Untraced; decide +kernel, ?_, by unfold Sound; decide +kernel⟩, ?_, ?_, error_of (?_), ok_of (?_), ok_of
    (?_), ok_of (?_), ?_⟩ <;> decide +kernel

theorem test_meets_AtomicsExchangeOldForNew :
    (Memory.wf base.mem = true ∧ Untraced base ∧ base.me.run = .running ∧ Drained base 4) ∧
    base.atomicTarget .add 8 0x200000 = .error (.fault 0x13 0x200000) ∧
    (base.atomicTarget .cas 8 0x1FFFF8 = .ok (.self (own 0x1FFFF8)) ∧ base.badIn (own 0x1FFFF8) 8 = none ∧
     Sound base (own 0x1FFFF8) 8) ∧
    (let s := { base with bad := [own 0x1FFFF8] }
     s.atomicTarget .faddF32 4 0x1FFFFC = .ok (.self (own 0x1FFFFC)) ∧
     s.badIn (own 0x1FFFFC) 4 = some (own 0x1FFFFC) ∧ (1 : BitVec 2).getLsbD 1 = false) := by
  refine ⟨⟨?_, by unfold Untraced; decide +kernel, ?_, by unfold Drained; decide +kernel⟩, error_of (?_), ⟨ok_of (?_),
    ?_, by unfold Sound; decide +kernel⟩, ok_of (?_), ?_⟩ <;> decide +kernel

/-- A RED on its way from core 1 to the word at offset 8 of core 0. -/
def redOf (addr : Nat) : RedMsg :=
  { core := 1, slot := 0, part := 0, node := .core 0, addr := addr, va := 8, bytes := 8, op := .add, operand := 1 }

/-- A slot whose AMO the host performs. -/
def hostAmo (failed : Bool) : State :=
  { withSlot (fun sl => { sl with run := .waiting (.hostAtomic 4 8 .add hostBase 0 1 0 none) })
    with arg := .slotFlag 0 0 failed }

theorem test_meets_ReductionsAreSentAndAtomicsPerformed :
    Drained base 4 ∧ base.atomicTarget .add 8 0x200000 = .error (.fault 0x13 0x200000) ∧
    ((posting 31).atomicTarget .add 8 8 = .ok (.self (own 8)) ∧ (posting 31).me.outstanding < 32 ∧
     (posting 31).outRoom 0 0 = true) ∧
    ((posting 32).atomicTarget .add 8 8 = .ok (.self (own 8)) ∧ 32 ≤ (posting 32).me.outstanding) ∧
    (let s := { base with arg := .red (redOf (own 8)) }
     Memory.wf s.mem = true ∧ Untraced s ∧ (redOf (own 8)).node = .core 0 ∧ (s.core 0).isolated = false ∧
     s.badIn (own 8) 8 = none ∧ Sound s (own 8) 8 ∧ amoResult .add 8 (s.peek (own 8) 8) 1 0 = some 1 ∧
     ((s.modCore 0 (fun c => { c with isolated := true })).core 0).isolated = true ∧
     ({ s with bad := [own 8] }.badIn (own 8) 8).isSome = true) ∧
    (((hostAmo true).slot 0 0).run = .waiting (.hostAtomic 4 8 .add hostBase 0 1 0 none) ∧
     (hostAmo false).badIn hostBase 8 = none ∧ Sound (hostAmo false) hostBase 8) := by
  refine ⟨by unfold Drained; decide +kernel, error_of (?_), ⟨ok_of (?_), ?_, ?_⟩, ⟨ok_of (?_), ?_⟩, ⟨?_,
    by unfold Untraced; decide +kernel, ?_, ?_, ?_, by unfold Sound; decide +kernel, ?_, ?_, ?_⟩, ?_, ?_,
    by unfold Sound; decide +kernel⟩ <;> decide +kernel

/-- Partition 0 owns one bank. -/
def oneBank : State :=
  { base with layout := { base.layout with parts := base.layout.parts.map (fun e => (e.1, { e.2 with banks := 1 })) } }

/-- Partition 0 owns no class below 29. -/
def oneOfClasses : State :=
  { base with layout := { base.layout with parts := base.layout.parts.map (fun e => (e.1, { e.2 with classes := 0 })) } }

/-- Monitor 3 armed, and triggered or not. -/
def monitored (triggered : Bool) : State :=
  withSlot (fun sl => { sl with mons := sl.mons.set 3 { armed := true, triggered := triggered, line := 1 } })

/-- A slot that waits at MWAIT until cycle `dl`, or until TCMP. -/
def atMwait (dl tcmp : Nat) : State :=
  { (monitored false).modMe (fun sl => { sl with run := .waiting (.mwait 4 (some dl)),
                                                 cnt := { sl.cnt with tcmp := BitVec.ofNat 64 tcmp } })
    with arg := .slot 0 0 }

theorem test_meets_MonitorsAreArmedAndAwaited :
    (0x200000 ≤ (0x200000 : Dword).toNat ∧
     ((0x1FFFFF : Dword).toNat < 0x200000 ∧ base.inShare base.curCore base.me.who 0x1FFFFF 1 = true) ∧
     ((0x20000 : Dword).toNat < 0x200000 ∧ oneBank.inShare oneBank.curCore oneBank.me.who 0x20000 1 = false)) ∧
    Untraced base ∧ (∀ m, (base.me.mons.get m).armed = false) ∧
    ((monitored true).me.mons.get 3).armed = true ∧ ((monitored true).me.mons.get 3).triggered = true ∧
    ((∀ m, ((monitored false).me.mons.get m).triggered = false) ∧ (monitored false).interrupted = false ∧
     ((monitored false).modMe (fun sl => { sl with parked := true })).interrupted = true) ∧
    ((atMwait 0 0).slot 0 0).run = .waiting (.mwait 4 (some 0)) ∧ 0 ≤ ((atMwait 0 0).core 0).t ∧
    ((atMwait 1 1).core 0).t < 1 ∧ ((atMwait 0 0).slot 0 0).pastTcmp (atMwait 0 0).ptime = true ∧
    ((atMwait 0 1).slot 0 0).pastTcmp (atMwait 0 1).ptime = false := by
  refine ⟨?_, by unfold Untraced; decide +kernel, ?_, ?_, ?_, ?_, ?_, ?_, ?_, ?_, ?_⟩ <;> decide +kernel

/-- A job with slots 0 and 1 only. -/
def twoSlots : State := { base with jobs := base.jobs.map (fun e => (e.1, { e.2 with slotMask := 3 })) }

/-- Partition 0 owns 15 slots. -/
def fewSlots : State :=
  { base with layout := { base.layout with parts := base.layout.parts.map (fun e => (e.1, { e.2 with slots := 0x7FFF })) } }

/-- Barrier 1 of core 0 with one of two arrivals, slot 1 waiting at it. -/
def oneArrived : State :=
  (twoSlots.modHere (fun c => { c with bars := c.bars.set 1 (some { expected := 2, arrivals := 1 }) })).modSlot 0 1
    (fun sl => { sl with run := .waiting (.bar 1), job := some 0 })

theorem test_meets_BarriersCollectTheirArrivals :
    twoSlots.ownsCounter 4 = false ∧ twoSlots.ownsCounter 3 = true ∧ base.ownsCounter 31 = true ∧
    base.partLive = 16 ∧
    (let u := (oneArrived.here.bars.get 1).getD { expected := 2, arrivals := 0 }
     u.expected = 2 ∧ u.arrivals + 1 = 2 ∧ u.expected ≠ 3 ∧ oneArrived.me.outstanding = 0 ∧
     oneArrived.me.deferred = none ∧ oneArrived.me.run = .running ∧ (oneArrived.slot 0 1).atBar 1 = true ∧
     oneArrived.here.bars.get 1 ≠ none) ∧
    (base.here.bars.get 1 = none ∧ ((base.here.bars.get 1).getD { expected := 2, arrivals := 0 }).arrivals + 1 ≠ 2) ∧
    fewSlots.partLive < 16 := by decide +kernel

/-- Slot 1 waits for counter 1 to reach 5, until cycle `dl`. -/
def atCwait (dl : Nat) : State :=
  { (regs 5 1 0).modSlot 0 1 (fun sl => { sl with run := .waiting (.cwait 4 1 5 (some dl)) }) with arg := .slot 0 1 }

theorem test_meets_CountersCountAndAreAwaited :
    Untraced (atCwait 1) ∧ twoSlots.ownsCounter 4 = false ∧ (atCwait 1).ownsCounter 1 = true ∧
    (let s := atCwait 1
     let v := s.here.c.get 1
     let thr : Word := (s.getG 1).setWidth 32
     (v - thr).toInt < 0 ∧ 0 ≤ (v - v).toInt ∧ (s.getG 3).setWidth 32 = (0 : Word) ∧ (s.getG 2).setWidth 32 ≠ (0 : Word) ∧
     s.me.outstanding = 0 ∧ s.me.deferred = none ∧ s.me.run = .running ∧
     (s.slot s.curCore 1).run = .waiting (.cwait 4 1 5 (some 1)) ∧ 0 ≤ (thr - 5).toInt) ∧
    (((atCwait 0).slot 0 1).run = .waiting (.cwait 4 1 5 (some 0)) ∧ 0 ≤ ((atCwait 0).core 0).t ∧
     ((atCwait 1).core 0).t < 1) := by
  refine ⟨by unfold Untraced; decide +kernel, ?_, ?_, ?_, ?_⟩ <;> decide +kernel

/-! ### States that meet the statements' hypotheses: messages -/

/-- A message of core 1 for core 0, of class 5 and partition 0, with 8 bytes. -/
def msg8 : Msg :=
  { dest := 0, cls := 5, part := 0, source := 1, kind := 0, sslot := 0, seq := 0, len := 8, retry := false, aux := 0,
    payload := 0x1122334455667788 }

/-- Core 1 named in g1, the last 256 bytes of the share in g2, 256 in g3; `k` messages in the outgoing buffer. -/
def sending (k : Nat) : State :=
  (regs 1 0x1FFF00 256).modHere (fun c => { c with names := [(0, 1)], sent := List.replicate k msg8 })

theorem test_meets_SendsLeaveWithTheirPayload :
    (29 ≤ (29 : BitVec 5).toNat ∧ base.me.st.mode ≠ .management) ∧ (28 : BitVec 5).toNat < 29 ∧
    base.resolveName base.acc 0x400000 = .error (.fault 0x30 0x400000) ∧
    (sending 0).resolveName (sending 0).acc ((sending 0).getG 1) = .ok 1 ∧
    (256 < (257 : Dword).toNat ∧ ((sending 0).getG 3).toNat ≤ 256 ∧ ((sending 0).getG 3).getLsbD 63 = false) ∧
    base.selfSpan 0x200000 8 8 = .error (.fault 0x13 0x200000) ∧
    ((sending 0).selfSpan ((sending 0).getG 2) 8 256 = .ok () ∧ (sending 0).selfBad 0x1FFF00 256 = none) ∧
    ((sending 15).ownPanel (sending 15).curCore 1 = true ∧ (sending 15).channelFor 0 0 1 5 = none ∧
     (sending 15).outRoom 0 0 = true ∧ (sending 16).outRoom 0 0 = false) := by
  refine ⟨?_, by decide, error_of (?_), ok_of (?_), ?_, error_of (?_), ⟨ok_of (?_), ?_⟩, ?_⟩ <;> decide +kernel

theorem test_meets_ReductionsAreSentAndAtomicsPerformed_room :
    (sending 16).atomicTarget .add 8 8 = .ok (.self (own 8)) ∧ (sending 16).me.outstanding < 32 ∧
    (sending 16).outRoom 0 0 = false := by
  refine ⟨ok_of (?_), ?_, ?_⟩ <;> decide +kernel

theorem test_meets_SendsLeaveWithTheirPayload_name :
    base.selfSpan 0x1FFF00 8 256 = .ok () ∧ base.resolveName base.acc 0x400000 = .error (.fault 0x30 0x400000) :=
  ⟨ok_of (by decide +kernel), error_of (by decide +kernel)⟩

/-- Channel record 63 of core 0 for core 1 and class 5, changed, and `k` messages in the outgoing buffer. -/
def flowing (f : Channel → Channel) (k : Nat) : State :=
  let ch := f { Channel.reset with valid := true, dest := 1, cls := 5, k := 16 }
  (sending k).modHere (fun c => { c with channels := c.channels.set 63 ch })

/-- The record is a message's at a limit of `k`, sent `x` bytes ahead of its returns, broken or not. -/
def limited (k x : Word) (broken : Bool) (c : Channel) : Channel := { c with k := k, s := x, broken := broken }

/-- Slot 1 waits for it too. -/
def inTurn : State :=
  (flowing (fun c => { c with waiters := [1] }) 0).modSlot 0 1 (fun sl => { sl with run := .waiting (.channel 63 16) })

theorem test_meets_SendsLeaveWithTheirPayload_flow :
    ((flowing id 0).ownPanel 0 1 = true ∧ (flowing id 0).channelFor 0 0 1 5 = some 63) ∧
    (let c := (flowing (limited 15 0 false) 0).chan 0 63
     c.k.toNat < 16) ∧
    (let c := (flowing (limited 16 0 true) 0).chan 0 63
     16 ≤ c.k.toNat ∧ c.broken = true) ∧
    (let c := (flowing (limited 16 1 false) 0).chan 0 63
     c.broken = false ∧ c.catching = none ∧ c.k.toNat < (c.s - c.c).toNat + 16) ∧
    (inTurn.line 0 63 = [1] ∧ ¬(inTurn.line 0 63).head? = some inTurn.curSlot ∧ (inTurn.chan 0 63).broken = false) ∧
    (let s := flowing id 15
     let c := s.chan 0 63
     16 ≤ c.k.toNat ∧ c.broken = false ∧ s.line 0 63 = [] ∧ c.resync = false ∧ c.catching = none ∧
     (c.s - c.c).toNat + 16 ≤ c.k.toNat ∧ s.myJob.map Job.recov = some false ∧ s.outRoom 0 0 = true ∧
     (flowing id 16).outRoom 0 0 = false) := by decide +kernel

/-- A raw message in the share with its place in g1 and bit 63 in g2; class 5 in a mode. -/
def replaying (at_ : Nat) (mode : BitVec 3) (m : Msg) : State :=
  let s := (regs (BitVec.ofNat 64 at_) 0x8000000000000000 0).modHere (fun c =>
    { c with classes := c.classes.set 5 { ClassEntry.reset with mode := mode, base := 0x1FFF00 } })
  let bs := bytesOf 64 (msgHeader m).toNat ++ payloadBytes m
  { s with mem := bs.zipIdx.foldl (fun a b => Memory.set a (own (at_ + b.2)) b.1) s.mem }

/-- Its header. -/
def replayed (s : State) : Msg := msgOfHeader (BitVec.ofNat 512 (ofBytes (s.selfBytes (s.getG 1).toNat 64))) 0

/-- The first 64 bytes can be read. -/
def headerRead (s : State) : Bool :=
  (s.selfSpan (s.getG 1) 8 64).toOption.isSome && (s.selfBad (s.getG 1).toNat 64).isNone

/-- The header is one for the own core and partition. -/
def headerGood (s : State) : Bool :=
  (replayed s).part == s.me.st.partition && (replayed s).dest == s.nameOf s.curCore && (replayed s).kind == 0 &&
  decide ((replayed s).len ≤ 256)

theorem test_meets_SendsLeaveWithTheirPayload_raw :
    base.selfSpan 0x200000 8 64 = .error (.fault 0x13 0x200000) ∧
    (let s := replaying 0x1FFE00 1 msg8
     (s.getG 2).getLsbD 63 = true ∧ headerRead s = true ∧ headerGood s = true ∧ (replayed s).len = 8 ∧
     s.selfBad ((s.getG 1).toNat + 64) 8 = none ∧ s.here.isolated = false ∧ s.here.refusing = [] ∧ s.here.held = [] ∧
     s.here.handing 0 = false ∧ s.ownsClass (replayed s).part 0 (replayed s).cls.toNat = true) ∧
    (replaying 0x1FFE00 1 msg8).selfSpan 0x1FFE00 8 (64 + 8) = .ok () ∧
    (∀ m, m ∈ [{ msg8 with dest := 1 }, { msg8 with part := 1 }, { msg8 with kind := 1 }, { msg8 with len := 257 }] →
      headerRead (replaying 0x1FFE00 1 m) = true ∧ headerGood (replaying 0x1FFE00 1 m) = false) ∧
    headerGood (replaying 0x1FFE00 1 { msg8 with len := 256 }) = true ∧
    ((headerRead (replaying 0x1FFFC0 1 msg8) && headerGood (replaying 0x1FFFC0 1 msg8)) = true ∧
     errorOf ((replaying 0x1FFFC0 1 msg8).selfSpan 0x1FFFC0 8 (64 + 8)) = some (.fault 0x14 0x1FFFC0)) := by
  refine ⟨error_of (?_), ?_, ok_of (?_), each (?_), ?_, ?_⟩ <;> decide +kernel

theorem test_meets_SendsLeaveWithTheirPayload_raw_lands :
    Untraced (replaying 0x1FFE00 1 msg8) ∧
    { replaying 0x1FFE00 1 msg8 with layout := oneOfClasses.layout }.ownsClass 0 0 5 = false ∧
    ((replaying 0x1FFE00 0 msg8).cls 0 5).mode = 0 ∧
    (let s := replaying 0x1FFE00 1 msg8
     let e := s.cls 0 5
     e.mode = 1 ∧ e.flow = false ∧ s.me.run = .running ∧ Memory.wf s.mem = true ∧
     s.inShare 0 (s.homeWho 0 0) e.base.toNat 256 = true ∧ e.base.toNat % 8 = 0 ∧
     ∀ j, j < 256 → s.badIn (s.sharePhys 0 (s.homeWho 0 0) (e.base.toNat + j)) 1 = none) := by
  refine ⟨by unfold Untraced; decide +kernel, ?_, ?_, ?_⟩ <;> decide +kernel

/-- Slot 0 is the overflow slot; a buffer at the end of the share in g1; the messages are held. -/
def receiving (hs : List HeldMsg) : State :=
  (regs 0x1FFEC0 0 0).modHere (fun c => { c with rows := [(0, { PartRow.reset with ovfslot := 0x10 })], held := hs })

theorem test_meets_MrecvTakesTheOldestHeldMessage :
    base.overflowSlot 0 0 = none ∧ (receiving []).overflowSlot 0 0 = some (receiving []).curSlot ∧
    ((0x1FFEE0 : Dword).toNat % 64 ≠ 0 ∧ ((receiving []).getG 1).toNat % 64 = 0) ∧
    (receiving []).selfSpan 0x1FFF00 64 320 = .error (.fault 0x14 0x1FFF00) ∧
    ((receiving []).selfSpan ((receiving []).getG 1) 64 320 = .ok () ∧
     (receiving []).here.held.find? (fun h => h.msg.part == 0 && !((receiving []).cls 0 h.msg.cls).flow) = none) ∧
    (let h : HeldMsg := { msg := msg8, since := 0 }
     let s := receiving [h]
     s.here.held.find? (fun h => h.msg.part == 0 && !(s.cls 0 h.msg.cls).flow) = some h ∧ h.msg.len ≤ 256 ∧
     Memory.wf s.mem = true ∧ s.me.run = .running ∧ s.selfBad 0x1FFEC0 320 = none) ∧ Untraced (receiving []) := by
  refine ⟨?_, ?_, ?_, error_of (?_), ⟨ok_of (?_), ?_⟩, ?_, by unfold Untraced; decide +kernel⟩ <;> decide +kernel

/-- Slot 0 waits for the name of a core. -/
def naming (target : Nat) : State :=
  { withSlot (fun sl => { sl with run := .waiting (.nameWalk target 7) }) with arg := .slotTarget 0 0 target }

theorem test_meets_NamesAreLookedUpAndDropped :
    (2 ^ 16 ≤ (0x10000 : Dword).toNat ∧ (0xFFFF : Dword).toNat < 2 ^ 16 ∧ base.nameKnown base.me.who 0xFFFF = false) ∧
    base.nameKnown base.me.who 0 = true ∧ ((naming 5).slot 0 0).run = .waiting (.nameWalk 5 7) ∧
    (naming 5).nameKnown ((naming 5).slot 0 0).who 5 = true ∧
    (naming 0xFFFF).nameKnown ((naming 0xFFFF).slot 0 0).who 0xFFFF = false := by decide +kernel

/-- Queue register 0 in a mode with `k` entries, and slot 1 waiting to read it, or not. -/
def queued (mode : BitVec 2) (k : Nat) (reader : Bool) : State :=
  let s := (twoSlots.modHere (fun c => { c with names := [(0, 1)] })).modHere (fun c =>
    { c with q := c.q.set 0 { QueueReg.reset with dest := 1, cls := 5, mode := mode, entries := List.replicate k 9,
                                                  readers := if reader then [1] else [] } })
  if reader then s.modSlot 0 1 (fun sl => { sl with run := .waiting (.queueRead 0 false 3) }) else s

theorem test_meets_QueueRegistersKeepTheirOrder :
    twoSlots.ownsQueue 1 = false ∧ (queued 1 0 false).ownsQueue 0 = true ∧ ((queued 0 0 false).here.q.get 0).mode = 0 ∧
    (((queued 2 1 false).here.q.get 0).mode = 2 ∧ ((queued 2 1 false).here.q.get 0).entries = 9 :: []) ∧
    (let r := (queued 1 8 false).here.q.get 0
     r.mode = 1 ∧ r.readers = [] ∧ r.writers = [] ∧ 8 ≤ r.entries.length ∧ r.entries ≠ []) ∧
    (let r := (queued 1 7 false).here.q.get 0
     r.mode = 1 ∧ r.entries.length < 8 ∧ r.writers = []) ∧ ((queued 1 0 false).here.q.get 0).entries = [] ∧
    (let s := queued 1 0 true
     let r := s.here.q.get 0
     r.mode = 1 ∧ r.entries = [] ∧ r.readers = [1] ∧ r.writers = [] ∧ (1 : SlotNo) ≠ s.curSlot ∧
     (s.slot s.curCore 1).run = .waiting (.queueRead 0 false 3)) ∧
    (((queued 3 0 false).here.q.get 0).mode = 3 ∧ ((queued 3 0 false).here.q.get 0).cls.toNat < 29) ∧
    (queued 3 0 false).resolveName (queued 3 0 false).acc
      (BitVec.ofNat 64 ((queued 3 0 false).here.panelId.toNat * 2 ^ 16 + ((queued 3 0 false).here.q.get 0).dest.toNat)) =
      .ok 1 := by
  refine ⟨?_, ?_, ?_, ?_, ?_, ?_, ?_, ?_, ?_, ok_of (?_)⟩ <;> decide +kernel

/-- A 32-byte record at the end of the share, its place in g1. -/
def recorded (bs : List (Nat × Byte)) : State :=
  let s := regs 0x1FFFE0 0 0
  { s with mem := bs.foldl (fun m b => Memory.set m (own (0x1FFFE0 + b.1)) b.2) s.mem }

/-- The record as a number. -/
def recordOf (s : State) : Nat := ofBytes (s.selfBytes 0x1FFFE0 32)

/-- Class 5 a ring with 16 bytes, flow-tracked or not; 16 in g1; channel record 63 for core 1. -/
def ringed (flow : Bool) : State :=
  (regs 16 63 17).modHere (fun c =>
    { c with classes := c.classes.set 5 { ClassEntry.reset with mode := 2, head := 16, flow := flow, source := 1 },
             channels := c.channels.set 63 { Channel.reset with valid := true, dest := 1, k := 64 } })

theorem test_meets_ClassesAndChannelsAreSetUp :
    (29 ≤ (29 : BitVec 5).toNat ∧ base.me.st.mode ≠ .management ∧ (28 : BitVec 5).toNat < 29 ∧
     (0x1FFFF0 : Dword).toNat % 32 ≠ 0) ∧
    (let s := recorded [(0, 1)]
     let r := recordOf s
     s.selfSpan (s.getG 1) 32 32 = .ok () ∧ s.selfBad (s.getG 1).toNat 32 = none ∧ r / 2 ^ 248 = 0 ∧
     s.ownsClass s.me.st.partition 0 5 = true ∧ classRecordOk r = true ∧
     (classOfRecord r).inShare (s.shareSize 0 s.me.who) = true ∧ (r.testBit 10 = false ∧ r % 8 ≠ 3)) ∧
    (let s := recorded [(0, 3), (1, 0x1C), (2, 1)]
     let r := recordOf s
     classRecordOk r = true ∧ (r.testBit 10 = true ∧ s.ownsCounter (r / 2 ^ 11 % 32) = true) ∧
     (r % 8 = 3 ∧ s.ownsQueue (r / 2 ^ 16 % 8) = true)) ∧
    classRecordOk (recordOf (recorded [(0, 5)])) = false ∧
    (let s := recorded [(0, 1), (16, 8), (31, 1)]
     let r := recordOf s
     r / 2 ^ 248 = 1 ∧ r / 2 ^ 238 % 2 ^ 10 = 0 ∧ r / 2 ^ 224 % 2 ^ 8 = 0 ∧ r / 2 ^ 4 % 2 ^ 65 = 0 ∧ r.testBit 1 = false ∧
     8 ≤ r / 2 ^ 128 % 2 ^ 32 ∧ r / 2 ^ 128 % 2 ^ 32 ≤ 2 ^ 20 ∧ s.channelFor 0 0 (bitsOf r 106 22) (bitsOf r 101 5) = none) ∧
    recordOf (recorded [(0, 1), (16, 7), (31, 1)]) / 2 ^ 128 % 2 ^ 32 < 8 ∧
    (oneOfClasses.ownsClass 0 0 5 = false ∧ (ringed false).ownsClass 0 0 5 = true) ∧
    (let s := ringed true
     let e := s.cls 0 5
     let x : Word := (s.getG 1).setWidth 32
     e.mode = 2 ∧ (e.head - e.tail).toNat < ((s.getG 3).setWidth 32 : Word).toNat ∧ x.toNat ≤ (e.head - e.tail).toNat ∧
     s.me.outstanding = 0 ∧ s.me.deferred = none ∧ e.flow = true ∧ s.ownPanel 0 e.source = true ∧ e.head = e.tail + x) ∧
    ((ringed false).cls 0 5).flow = false ∧
    (let s := ringed false
     let c := s.chan 0 ((s.getG 2).setWidth 6)
     63 < (64 : Dword).toNat ∧ (s.getG 2).toNat ≤ 63 ∧ c.valid = true ∧ c.part = s.me.st.partition ∧
     s.ownPanel 0 c.dest = true) := by
  refine ⟨?_, ⟨ok_of (?_), ?_⟩, ?_, ?_, ?_, ?_, ?_, ?_, ?_, ?_⟩ <;> decide +kernel

/-- A message of class 5 arrives at core 0, whose class 5 is in a mode. -/
def arriving (mode : BitVec 3) : State :=
  { base.modHere (fun c => { c with classes := c.classes.set 5 { ClassEntry.reset with mode := mode, base := 0x1FFF00 } })
    with arg := .msg msg8 }

theorem test_meets_ArrivalsAreDeposited :
    (Memory.wf (arriving 1).mem = true ∧ nameCore msg8.dest = 0) ∧ Untraced (arriving 1) ∧
    ((arriving 1).modHere (fun c => { c with isolated := true })).here.isolated = true ∧
    ((arriving 1).here.isolated = false ∧ (arriving 1).here.refusing = [] ∧ (arriving 1).here.held = []) ∧
    oneOfClasses.ownsClass msg8.part 0 msg8.cls.toNat = false ∧
    (let s := arriving 1
     let e := s.cls 0 msg8.cls
     s.ownsClass msg8.part 0 msg8.cls.toNat = true ∧ s.here.handing msg8.part = false ∧ e.flow = false ∧ e.mode = 1 ∧
     e.fe = false ∧ msg8.len ≤ 256 ∧ s.inShare 0 (s.homeWho 0 msg8.part) e.base.toNat 256 = true ∧ e.base.toNat % 8 = 0 ∧
     ∀ j, j < 256 → s.badIn (s.sharePhys 0 (s.homeWho 0 msg8.part) (e.base.toNat + j)) 1 = none) ∧
    ((arriving 0).cls 0 msg8.cls).mode = 0 ∧
    (let h : HeldMsg := { msg := msg8, since := 0 }
     let s := { (arriving 1).modHere (fun c => { c with held := [h] }) with arg := .coreClass 0 5 }
     s.here.held = [h] ∧ (s.cls 0 5).mode = 1) := by
  refine ⟨?_, by unfold Untraced; decide +kernel, ?_, ?_, ?_, ?_, ?_, ?_⟩ <;> decide +kernel

/-- Its class a ring of 256 bytes that wraps records or not, with a head and a tail. -/
def ringing (wrap : Bool) (head tail : Word) (m : Msg) : State :=
  let e := { (arriving 2).here.classes.get 5 with wrap := wrap, head := head, tail := tail }
  { (arriving 2).modHere (fun c => { c with classes := c.classes.set 5 e }) with arg := .msg m }

/-- `k` messages of the class held already, slot 0 the overflow slot. -/
def heldUp (k : Nat) : State :=
  (arriving 1).modHere (fun c => { c with held := List.replicate k { msg := msg8, since := 0 },
                                          rows := [(0, { PartRow.reset with ovfslot := 0x10 })] })

theorem test_meets_ArrivalsAreDeposited_rings :
    (∀ s, s ∈ [ringing false 0 0 msg8, ringing true 248 248 msg8, ringing true 248 8 msg8] →
      (s.cls 0 5).mode = 2 ∧ (s.cls 0 5).fe = false ∧ (s.cls 0 5).flow = false ∧ (s.cls 0 5).head.toNat % 256 % 8 = 0 ∧
      s.inShare 0 (s.homeWho 0 0) (s.cls 0 5).base.toNat (s.cls 0 5).ringSize = true ∧ s.bad = []) ∧
    (bytesOf 8 (recordHeader msg8 false).toNat ++ payloadBytes msg8).length = 16 ∧
    (16 ≤ ((ringing false 0 0 msg8).cls 0 5).free ∧ 8 + 16 ≤ ((ringing true 248 248 msg8).cls 0 5).free ∧
     ((ringing true 248 8 msg8).cls 0 5).free < 8 + 16) ∧
    256 < (bytesOf 8 (recordHeader msg8 false).toNat ++ payloadBytes { msg8 with len := 256 }).length := by
  refine ⟨each (?_), ?_, ?_, ?_⟩ <;> decide +kernel

theorem test_meets_ArrivalsAreDeposited_held :
    ((arriving 1).modHere (fun c => { c with refusing := [(0, 1)] })).here.refusing = [(msg8.part, msg8.source)] ∧
    ((arriving 1).ownPanel 0 msg8.source = true ∧ msg8.retry = false ∧ (arriving 1).here.waits = []) ∧
    (((heldUp 1).here.heldOf 0).length + 1 < (heldUp 1).allotment 0 ∧
     ((heldUp 15).here.heldOf 0).length + 1 = (heldUp 15).allotment 0 ∧
     (heldUp 15).overflowSlot 0 0 = some 0 ∧ ((heldUp 15).slot 0 0).run = .running ∧
     ((heldUp 15).slot 0 0).st.ovf = false ∧ ((heldUp 15).slot 0 0).pending = [] ∧
     (heldUp 16).allotment 0 ≤ ((heldUp 16).here.heldOf 0).length) ∧
    (let s := (arriving 3).modHere (fun c => { c with q := c.q.set 0 { c.q.get 0 with mode := 3 } })
     let q := s.queue 0 (s.cls 0 5).queue
     (s.cls 0 5).mode = 3 ∧ q.mode = 3 ∧ q.readers = [] ∧ q.writers = [] ∧
     q.entries.length + (payloadDwords msg8).length ≤ 8) := by
  decide +kernel

/-- Core 0 retains a message to be sent again at time `at_`. -/
def retaining (at_ : Nat) : State :=
  { base.modHere (fun c => { c with retained := [(at_, { msg8 with dest := 1 })] }) with arg := .corePartDest 0 0 1 }

/-- A message of core 0 is held past HOLD, with an overflow slot or without. -/
def holding (slot : BitVec 5) : State :=
  { (receiving [{ msg := msg8, since := 0 }]).modHere (fun c => { c with hold := 1, rows :=
      [(0, { PartRow.reset with ovfslot := slot })] }) with arg := .corePart 0 0, ptime := 2 }

theorem test_meets_RefusedMessagesAreResent :
    (let mine := fun (r : Nat × Msg) => r.2.part == 0 && r.2.dest == 1
     (retaining 0).here.retained.filter mine = (0, { msg8 with dest := 1 }) :: [] ∧ 0 ≤ (retaining 0).ptime ∧
     (retaining 0).refusalUnderWay 0 0 1 = false ∧ (retaining 1).ptime < 1) ∧
    ((holding 0x10).overdue 0 0 = [{ msg := msg8, since := 0 }] ∧ (holding 0x10).overflowSlot 0 0 = some 0 ∧
     ((holding 0x10).slot 0 0).run = .running ∧ ((holding 0x10).slot 0 0).st.ovf = false ∧
     ((holding 0x10).slot 0 0).pending = []) ∧
    ((holding 0).overdue 0 0 = [{ msg := msg8, since := 0 }] ∧ (holding 0).overflowSlot 0 0 = none) := by decide +kernel

/-- Channel record 63 of core 0 for core 1 and class 5, slot 0 waiting at CHSYNC for it until time `dl`, and a message of its
receiver. -/
def syncing (dl : Nat) : State :=
  let ch : Channel := { Channel.reset with valid := true, dest := 1, cls := 5, k := 64, s := 16, waiters := [0] }
  let s := (base.modHere (fun c => { c with channels := c.channels.set 63 ch })).modMe
    (fun sl => { sl with run := .waiting (.chsync 4 63 dl) })
  { s with arg := .msg msg8, ptime := 64000 }

/-- Slot 0 waits for its capacity instead. -/
def lined : State := (syncing 0).modMe (fun sl => { sl with run := .waiting (.channel 63 16) })

theorem test_meets_ChannelsAreReturnedAndSynced_arrivals :
    ((base.modHere (fun c => { c with isolated := true })).core (nameCore msg8.dest)).isolated = true ∧
    ((oneOfClasses.core (nameCore msg8.dest)).isolated = false ∧
     oneOfClasses.ownsClass msg8.part (nameCore msg8.dest) msg8.cls.toNat = false) ∧
    ((syncing 0).core (nameCore msg8.dest)).isolated = false ∧
    (syncing 0).ownsClass msg8.part (nameCore msg8.dest) msg8.cls.toNat = true := by decide +kernel

theorem test_meets_ChannelsAreReturnedAndSynced :
    ((syncing 0).channelOf (nameCore msg8.dest) msg8 = some 63 ∧ ((syncing 0).chan 0 63).resync = false ∧
     (syncing 0).syncWaiter 0 63 = some (0, 4)) ∧
    (let s := { ringed true with arg := .msg msg8 }
     s.here.isolated = false ∧ s.ownsClass msg8.part 0 msg8.cls.toNat = true ∧ s.ownPanel 0 msg8.source = true ∧
     (s.cls 0 msg8.cls).flow = true ∧ (s.cls 0 msg8.cls).source = msg8.source ∧ s.here.held = []) ∧
    (let c := (syncing 0).chan 0 63
     c.valid = true ∧ (lined.line 0 63 = [0] ∧ (lined.chan 0 63).valid = true) ∧ c.lastReturn + (if c.probe = 0 then 64 else c.probe.toNat) * 1000 ≤ (syncing 0).ptime ∧
     (syncing 0).ownPanel 0 c.dest = true ∧ (base.chan 0 63).valid = false) ∧
    (((syncing 64001).slot 0 0).run = .waiting (.chsync 4 63 64001) ∧ (syncing 64001).ptime < 64001 ∧
     64000 ≤ (syncing 64000).ptime) ∧
    (syncing 0).channelFor (nameCore { msg8 with source := 0, dest := 1 }.source) 0 1 5 = some 63 := by decide +kernel

/-! ### States that meet the statements' hypotheses: benches and vectors -/

/-- Core 0 executes, and its slot 0 and that of core 1 belong to one job; core 1 in a given run state. -/
def pair (me : Nat) (r0 r1 : Run) : State :=
  let s := (base.modSlot 0 0 (fun sl => { sl with run := r0 })).modSlot 1 0
    (fun sl => { sl with run := r1, job := some 0 })
  { s with curCore := me }

/-- Core 0 leads a bench of two in its slot 0, or core 1 follows in it. -/
def benched (pos : Nat) : State :=
  (pair pos .running .running).modMe
    (fun sl => { sl with bench := some { leader := 0, span := 2, pos := pos, done := 0 } })

theorem test_meets_BenchesFormExchangeAndSplit :
    ({ base with curCore := 0xF000 }.onEdge = true ∧ encodeWord (.bench 1) = some 0xA17) ∧
    ((benched 0).onEdge = false ∧ (benched 0).me.bench ≠ none) ∧
    (let s := pair 0 .running .off
     s.onEdge = false ∧ s.me.bench = none ∧ s.benchFits 0 0 2 = true ∧ s.nearestLeader 0 0 2 = none ∧ (1 : BitVec 3) ≠ 0 ∧
     (s.slot 1 0).wait? = none) ∧
    { pair 0 .running .off with curCore := 10 }.benchFits 10 0 2 = false ∧
    (let s := pair 0 .running (.waiting (.benchF 2 1 none))
     (s.slot 1 0).job = s.me.job ∧ (s.slot 1 0).run = .waiting (.benchF 2 1 none) ∧ (s.core 1).t < 1) ∧
    (let s := pair 1 (.waiting (.bench 2 9)) .running
     s.nearestLeader 1 0 2 = some 0 ∧ ∀ j, j < 2 - 1 → 0 + 1 + j = s.curCore) ∧
    (let s := pair 1 (.waiting (.bench 3 9)) .running
     s.nearestLeader 1 0 3 = some 0 ∧ 1 < 3 - 1 ∧ 0 + 1 + 1 ≠ s.curCore ∧ s.joined (0 + 1 + 1) 0 0 3 = false) ∧
    ((benched 0).me.bench = some { leader := 0, span := 2, pos := 0, done := 0 } ∧ (benched 0).curCore = 0 ∧
     (benched 1).me.bench = some { leader := 0, span := 2, pos := 1, done := 0 } ∧ (benched 1).onEdge = false) ∧
    (let s := { pair 0 (.waiting (.bench 2 0)) (.waiting (.benchF 2 0 none)) with arg := .slot 0 0 }
     (s.slot 0 0).run = .waiting (.bench 2 0) ∧ 0 ≤ (s.core 0).t ∧ s.joined 1 0 0 2 = false ∧
     (s.slot 1 0).run = .waiting (.benchF 2 0 none) ∧ 0 ≤ (s.core 1).t ∧ (s.core 0).t < 1) := by decide +kernel

/-- The slot of core `n` in the bench has a pending cause. -/
def caused (n pos : Nat) : State := (benched pos).modSlot n 0 (fun sl => { sl with pending := [(0x2A, 0)] })

theorem test_meets_BenchesFormExchangeAndSplit_exchange :
    let clear := fun (s : State) (j : Nat) => (s.slot j 0).taking.isNone && (s.slot j 0).nextCause.isNone
    (clear (benched 1) 0 = true ∧ 0 < 1 ∧ 1 < 2) ∧
    (clear (benched 0) 0 = true ∧ clear (benched 0) 1 = true ∧ clear (caused 1 0) 0 = true ∧ clear (caused 1 0) 1 = false) ∧
    (clear (caused 0 1) 1 = true ∧ clear (caused 0 1) 0 = false) := by decide +kernel

theorem test_meets_VectorArithmeticFillsEnabledLanes :
    (7 : BitVec 5).toNat ≤ 7 ∧ 8 ≤ (8 : BitVec 5).toNat ∧ (10 : BitVec 5).toNat ≤ 10 ∧ (3 : BitVec 5).toNat ≤ 3 ∧
    ((9 : BitVec 5) = 8 ∨ (9 : BitVec 5) = 9) := by decide

theorem test_meets_FloatArithmeticRoundsTheExactResult :
    let f := fmtF32
    let d := f.decode
    f ∈ [fmtF32, fmtF16, fmtBF16, fmtE5M2, fmtE4M3, fmtE3M4, fmtE3M2, fmtE2M3, fmtE2M1] ∧
    0xFFFFFFFF < 2 ^ (1 + f.ebits + f.mbits) ∧ d 0x7F7FFFFF = .fin false 0xFFFFFF 104 ∧
    ((d 0x7F800001).isNan = true ∧ (d 0x7F800001).isSig = true) ∧ d 0x7F800000 = .inf false ∧ d 0xFF800000 = .inf true ∧
    d 0 = .fin false 0 (-149) ∧ d 1 = .fin false (0 + 1) (-149) ∧ d 0x80000001 = .fin true 1 (-149) := by decide +kernel

theorem test_meets_VectorBitsMovesAndPermutations : (10 : BitVec 5).toNat ≤ 10 := by decide

theorem test_meets_VectorComparesConvertsAndReduces :
    ((10 : BitVec 5).toNat ≤ 10 ∧ (6 : BitVec 5).toNat ≤ 6 ∧ 8 ≤ (10 : BitVec 5).toNat ∧ (5 : BitVec 5) ≠ 6) ∧
    (Instr.vcvt 1 2 0 0 0 10 4).wf = true ∧ (Instr.vcvt 1 2 5 1 7 12 10).wf = true ∧ (Instr.vred 1 2 0 4 5).wf = true ∧
    (Instr.vred 1 2 0 10 2).wf = true ∧ (7 : BitVec 5).toNat ≤ 7 ∧
    ((List.range (512 / widthOf 10)).filter (fun j => (base.getK 0).getLsbD j)).map (fun j => lane 32 j (base.getV 2)) ≠ [] ∧
    ((List.range (512 / widthOf 10)).filter (fun j => (base.getK 1).getLsbD j)).map (fun j => lane 32 j (base.getV 2)) = [] :=
  by decide +kernel

/-- Slot 0 waits for a special function. -/
def atSfu (bad : Bool) : State :=
  let s := withSlot (fun sl => { sl with run := .waiting (.sfu { op := .rcp, d := 1, src := 0, mask := 1, ty := 10 }) })
  { s.modHere (fun c => { c with sfuPort := [0] }) with arg := .slotFlag 0 0 bad }

theorem test_meets_SpecialFunctionsAreSentAndReturn :
    base.isGrid base.curCore = true ∧
    ({ base with curCore := 0xF000 }.isGrid 0xF000 = false ∧ (encodeWord (.vrcp 1 2 0 10)).isSome = true) ∧
    (∀ bad, ((atSfu bad).slot 0 0).run = .waiting (.sfu { op := .rcp, d := 1, src := 0, mask := 1, ty := 10 }) ∧
      ((atSfu bad).core 0).isolated = false ∧ ((atSfu bad).slot 0 0).ilen = 4 ∧ (atSfu bad).sfuNext 0 0 = true) ∧
    8 ≤ (8 : BitVec 5).toNat ∧ (10 : BitVec 5).toNat ≤ 10 := by decide +kernel

/-! ### States that meet the statements' hypotheses: the matrix unit -/

/-- A command of slot 0 with a record, at a row. -/
def matCmd (r : BitVec 512) (row : Nat) (started done : Bool) : MatCmd :=
  { id := 0, record := r, slot := 0, mode := .user, part := 0, seed := 0, draw := 0, fired := false, started := started,
    kstep := 0, row := row, done := done }

/-- Queue 0 of core 0 with its commands, row 1 mapped to core 0. -/
def matrixing (es : List MatCmd) (state : BitVec 2) : State :=
  let s := twoSlots.modMat 0 0 (fun m => { m with entries := es, state := state, map := m.map.set 1 (some 0) })
  { s with arg := .matrixQueue 0 0 }

/-- A record at the start of the share, its place in g0. -/
def matRecord (bs : List (Nat × Byte)) : State :=
  { twoSlots with mem := bs.foldl (fun m b => Memory.set m (own b.1) b.2) twoSlots.mem }

/-- That record as a number. -/
def recordAt (s : State) : BitVec 512 := BitVec.ofNat 512 (s.peek (own 0) 64)

theorem test_meets_MatrixInstructionsManageQueuesAndTiles :
    ({ base with curCore := 0xF000 }.isGrid 0xF000 = false ∧ base.isGrid 0 = true ∧ base.ownsMatQueue 0 0 0 = true ∧
     base.ownsTile 0 0 31 = true ∧ base.ownsMatQueue 1 0 0 = false ∧ base.ownsTile 1 0 0 = false) ∧
    ((0x1FFFE0 : Dword).toNat % 64 ≠ 0 ∧ (0x200000 : Dword).toNat % 64 = 0 ∧
     oneBank.inShare 0 oneBank.me.who 0x20000 64 = false ∧ base.inShare 0 base.me.who 0 64 = true ∧
     base.badIn (own 0) 64 = none ∧ own 0 = base.sharePhys 0 base.me.who 0 ∧
     base.ownPosted 0 0 true (some (own 0)) 0 64 = false) ∧
    (let r := recordAt (matRecord [(0, 3), (4, 0xF0), (5, 1)])
     recField r 40 40 = 1 ∧ twoSlots.ownsTerm (recField r 39 36) = false) ∧
    (recField (recordAt (matRecord [])) 40 40 ≠ 1 ∧ recordValid (recordAt (matRecord [])) (base.matSplit 0) 0 = false) ∧
    (let s := matRecord [(0, 3), (5, 8), (7, 0x20)]
     let r := recordAt s
     recordValid r (s.matSplit 0) 0 = true ∧ recField r 40 40 ≠ 1 ∧ recField r 61 61 = 1 ∧
     s.ownsCounter (recField r 45 41) = false) ∧
    (let s := matRecord [(0, 3), (5, 7), (7, 0x20)]
     let r := recordAt s
     recordValid r (s.matSplit 0) 0 = true ∧ recField r 40 40 = 1 ∧ s.ownsTerm (recField r 39 36) = true ∧
     recField r 61 61 = 1 ∧ s.ownsCounter (recField r 45 41) = true ∧ s.me.outstanding = 0 ∧ s.me.deferred = none ∧
     (s.mat 0 0).live.length < 2 ∧ s.me.run = .running) ∧
    (let s := matrixing [matCmd 3 0 false false, matCmd 3 0 false false] 2
     2 ≤ (s.mat 0 0).live.length ∧ (s.mat 0 0).live.length ≤ 15 ∧ (s.mat 0 0).state = 2 ∧ s.matQuiet 0 0 = true ∧
     (s.mat 0 0).live ≠ [] ∧ s.tileUsers 0 0 true = [0, 0] ∧ s.tileUsers 0 0 false = [0, 0]) ∧
    ((matrixing [matCmd 3 0 false true] 0).matQuiet 0 0 = false ∧ ((matrixing [] 1).mat 0 0).state.toNat < 2 ∧
     ((matrixing [] 0).mat 0 0).live = [] ∧ (matrixing [] 0).tileUsers 0 0 true = [] ∧
     (matrixing [] 0).tileUsers 0 0 false = []) ∧
    (16 ≤ (16 : Dword).toNat ∧ (15 : Dword).toNat < 16 ∧ 2 ^ 17 ≤ (0x20000 : Dword).toNat ∧ (0x1FFFF : Dword).toNat < 2 ^ 17) ∧
    (1 ∈ (base.modHere (fun c => { c with badTiles := [1] })).here.badTiles ∧ 1 ∉ base.here.badTiles) := by decide +kernel

/-- A RED of slot 0 to the last word of the record is on its way. -/
def posted : State :=
  let m : RedMsg := { core := 0, slot := 0, part := 0, node := .core 0, addr := own 56, va := 56, bytes := 8, op := .add,
                      operand := 1 }
  { base with due := [{ path := some (true, 0, 0), ev := { kind := .redArrival, arg := .red m } }] }

theorem test_meets_MatrixInstructionsManageQueuesAndTiles_posted :
    posted.ownPosted 0 0 true (some (own 0)) 0 64 = true ∧ posted.inShare 0 posted.me.who 0 64 = true ∧
    posted.bankReady 0 posted.me.who 0 64 = .ok () ∧ base.bankReady 0 base.me.who 0 64 = .ok () :=
  ⟨by decide +kernel, by decide +kernel, ok_of (by decide +kernel), ok_of (by decide +kernel)⟩

/-- Records: LDACC and STACC of F32 rows near the end of the share, STSPR of F32 rows, MMA of F32 operands. -/
def ldacc : BitVec 512 := BitVec.ofNat 512 (4 + 0x1FFC00 * 2 ^ 64 + 0x40 * 2 ^ 128)
def stacc : BitVec 512 := BitVec.ofNat 512 (5 + 2 ^ 52 + 0x1FFC00 * 2 ^ 64 + 0x40 * 2 ^ 128)
def stspr : BitVec 512 := BitVec.ofNat 512 (6 + 2 ^ 50 + 2 ^ 52 + 5 * 2 ^ 55 + 0x1FFC00 * 2 ^ 64 + 0x40 * 2 ^ 128)
def mma : BitVec 512 := 1
/-- MMA whose operand A lies outside the share. -/
def mmaBad : BitVec 512 := BitVec.ofNat 512 (1 + 0x200000 * 2 ^ 64)

/-- A head command that the array works on. -/
def stepping (r : BitVec 512) (row : Nat) : State := matrixing [matCmd r row true false] 1

/-- A row of STSPR arriving at core 0. -/
def rowMsg : Msg := { msg8 with kind := 9, aux := 0x1FFFF8 }

theorem test_meets_MatrixCommandsRunAndSumExactly : Untraced (stepping 3 0) := by unfold Untraced; decide +kernel

theorem test_meets_MatrixCommandsRunAndSumExactly_started :
    (let s := { matrixing [matCmd 3 0 false false] 1 with arg := .core 0 }
     s.arrayNext 0 = some 0 ∧ (s.mat 0 0).headCmd = some (matCmd 3 0 false false) ∧ base.arrayNext 0 = none) ∧
    (matCmd 3 0 false false).started = false := by decide +kernel

/-- Row 1 of the record's command can be worked on. -/
def workable (r : BitVec 512) : Bool :=
  let s := stepping r 1
  (s.mat 0 0).headCmd = some (matCmd r 1 true false) && s.here.aborting 0 == false &&
  s.stepReady 0 0 (matCmd r 1 true false) && decide (matTile r ∉ s.here.badTiles)

theorem test_meets_MatrixCommandsRunAndSumExactly_steps :
    (workable 3 && workable ldacc && workable stacc && workable stspr && workable mma && workable mmaBad) = true ∧
    (matOp 3 = 3 ∧ matOp ldacc = 4 ∧ matOp stacc = 5 ∧ matOp stspr = 6 ∧ matOp mma = 1 ∧ recField stacc 50 50 = 0) ∧
    ((stepping ldacc 15).engineRead (engineAcc 0 0 .user) .read (memRowAddr ldacc 15) (rowBytes 0)).2.toOption.isSome = true ∧
    ((stepping stacc 15).checkPieces (engineAcc 0 0 .user) .write (linePieces (memRowAddr stacc 15)
      (rowToMemory (matCmd stacc 15 true false) 0 15).1.length)).2.toOption.isSome = true ∧
    (((stepping stspr 1).mat 0 0).destinations.find? (fun x => x.1 == 1)).isSome = true := by decide +kernel

theorem test_meets_MatrixCommandsRunAndSumExactly_owed :
    (matCmd stspr 1 true false).owed = none ∧
    (let e := { matCmd stspr 1 true false with owed := some 0 }
     let s := matrixing [e] 1
     (s.mat 0 0).headCmd = some e ∧ s.here.aborting 0 = false ∧ s.stepReady 0 0 e = true) ∧
    ∀ y, y ∈ ((stepping stspr 1).mat 0 0).destinations → y.2 = 0 → y.1 ≤ 1 := by
  refine ⟨?_, ?_, each (?_)⟩ <;> decide +kernel

theorem test_meets_MatrixCommandsRunAndSumExactly_rows :
    ((stepping mma 0).readRows (engineAcc 0 0 .user) (operandA mma) (operandB mma) (stepK mma) 0
      (List.range 16)).2.toOption.isSome = true ∧
    (errorOf ((stepping mmaBad 0).readRows (engineAcc 0 0 .user) (operandA mmaBad) (operandB mmaBad) (stepK mmaBad) 0
      (List.range 16)).2).isSome = true := by decide +kernel

theorem test_meets_MatrixCommandsRunAndSumExactly_completes :
    ((matrixing [matCmd 3 0 false true] 0).completable 0 0 = some (matCmd 3 0 false true) ∧
     recField (BitVec.ofNat 512 (2 ^ 61) : BitVec 512) 61 61 = 1) ∧
    (let s := { base with arg := .msg rowMsg }
     s.here.isolated = false ∧ s.here.waits = [] ∧ Memory.wf s.mem = true ∧ risingFrom none s.full = true ∧
     rowMsg.len ≤ 256 ∧ rowMsg.len % 8 = 0 ∧ rowMsg.aux.toNat % 2 ^ 32 % 8 = 0 ∧
     s.inShare 0 (s.homeWho 0 rowMsg.part) (rowMsg.aux.toNat % 2 ^ 32) rowMsg.len = true ∧
     ∀ j, j < rowMsg.len → s.badIn (s.sharePhys 0 (s.homeWho 0 rowMsg.part) (rowMsg.aux.toNat % 2 ^ 32 + j)) 1 = none) := by
  decide +kernel

theorem test_meets_MatrixCommandsRunAndSumExactly_sums :
    let rows : List (List FVal) := List.replicate 16 [.fin false 3 0]
    rows.getD 15 [] ≠ [] ∧ (rows.getD 15 []).length ≤ 1 ∧ (rows.getD 0 []).length = (rows.getD 15 []).length ∧
    (fmtF32.decode 0).isNan = false ∧ (fmtF32.decode 0x7FC00000).isNan = true ∧
    (sumOf [(FVal.mul (.fin false 3 0) (.fin false 3 0)).1] false).1.isNan = false := by decide +kernel

/-! ### States that meet the statements' hypotheses: copies, terms, collectives and work lists -/

/-- A copy command of slot 0. -/
def copyOf (kind : CopyKind) (src dst : Dword) (len : Nat) (fe : Bool) : CopyCmd :=
  { kind := kind, src := src, dst := dst, rowBytes := len, rows := 1, sstride := 0, dstride := 0, fe := fe, counter := some 3,
    term := none, slot := 0, mode := .user, part := 0, fired := false, released := false, prog := 0 }

/-- Core 0 with commands in its copy engine. -/
def copying (cs : List CopyCmd) : State := { base.modHere (fun c => { c with copies := cs }) with arg := .core 0 }

theorem test_meets_CopyCommandsAreCheckedAndEnqueued :
    (twoSlots.ownsCounter 4 = false ∧ twoSlots.ownsCounter 3 = true) ∧
    (2 ^ 24 ≤ (0x1000000 : Dword).toNat ∧ (0xFFFFFF : Dword).toNat < 2 ^ 24) ∧
    ((4 : Dword).toNat % 8 ≠ 0 ∧ (8 : Dword).toNat % 8 = 0) ∧
    (base.checkRows (copyOf .bytes 0x1FFFF8 0 9 false) true 1 0 = .error (.fault 0x13 0x200000) ∧
     base.checkRows (copyOf .bytes 0x1FFFF8 0 8 false) true 1 0 = .ok () ∧
     paged.checkTracking (copyOf .bytes 0 0x1000000000000 8 true) = .error (.fault 0x17 0x1000000000000) ∧
     base.checkTracking (copyOf .bytes 0x1FFFF8 0 8 true) = .ok ()) ∧
    (base.me.outstanding = 0 ∧ base.me.deferred = none ∧ (copying [copyOf .bytes 0 8 8 false]).here.copies.length < 2 ∧
     2 ≤ (copying [copyOf .bytes 0 8 8 false, copyOf .bytes 0 8 8 false]).here.copies.length) ∧
    (twoSlots.ownsQueue 1 = false ∧ (queued 1 0 false).ownsQueue 0 = true ∧ ((queued 1 0 false).queue 0 0).mode ≠ 2 ∧
     ((queued 2 0 false).queue 0 0).mode = 2) ∧
    ((0x1FFFF8 : Dword).toNat + 8 ≤ base.shareSize 0 base.me.who) ∧
    base.selfRecord 64 0x60 0x200000 = .error (.fault 0x60 0x200000) := by
  refine ⟨?_, by decide, by decide, ⟨error_of (?_), ok_of (?_), error_of (?_), ok_of (?_)⟩, ?_, ?_, ?_, error_of (?_)⟩
    <;> decide +kernel

/-- A record at the start of the share, as a number. -/
def numberAt (s : State) (n : Nat) : Nat := s.peek (own 0) n

theorem test_meets_CopyCommandsAreCheckedAndEnqueued_rows :
    (let s := matRecord [(8, 64), (16, 8), (22, 1), (32, 0xF1)]
     s.selfRecord 64 0x60 0 = .ok (numberAt s 64)) ∧
    (let s := matRecord [(8, 64), (16, 8), (22, 1), (32, 0xF1)]
     (numberAt s 64).testBit 256 = true ∧ s.ownsTerm (bitsOf (numberAt s 64) 260 4 : BitVec 4).toNat = false) ∧
    (let s := matRecord [(8, 64), (16, 8), (22, 1), (32, 0x11)]
     (numberAt s 64).testBit 256 = true ∧ s.ownsTerm (bitsOf (numberAt s 64) 260 4 : BitVec 4).toNat = true ∧
     desc2Valid (numberAt s 64) true = true) ∧
    desc2Valid (numberAt (matRecord [(8, 64), (16, 8)]) 64) true = false := by
  refine ⟨ok_of (?_), ?_, ?_, ?_⟩ <;> decide +kernel

/-- A copy of 8 bytes whose destination overlaps its source by 7. -/
def overlap : State := copying [copyOf .bytes 0x1FFF00 0x1FFF01 8 false]
def overlapChecked : State := (overlap.engineCheck (engineAcc 0 0 .user) .write 8 0x1FFF01).1
def overlapRead : State := (overlapChecked.engineRead (engineAcc 0 0 .user) .read 0x1FFF00 8).1

theorem test_meets_CopiesMoveTheirBytes :
    (0 < 1 ∧ 2 < ([1, 2, 3] : List Byte).length) ∧ Untraced overlap ∧ base.pieceReady 0 = none ∧
    (overlap.pieceReady 0 = some (copyOf .bytes 0x1FFF00 0x1FFF01 8 false) ∧
     (copyOf .bytes 0x1FFF00 0x1FFF01 8 false).piece = (0x1FFF00, 0x1FFF01, 8) ∧
     (overlap.engineCheck (engineAcc 0 0 .user) .write 8 0x1FFF01).2.toOption = some (.self (own 0x1FFF01)) ∧
     (overlapChecked.engineRead (engineAcc 0 0 .user) .read 0x1FFF00 8).2.toOption = some [0, 0, 0, 0, 0, 0, 0, 0] ∧
     (overlapRead.engineCheck (engineAcc 0 0 .user) .read 1 0x1FFF00).2.toOption = some (.self (own 0x1FFF00)) ∧
     Memory.wf overlapRead.mem = true ∧ (overlapRead.core 0).copies ≠ []) ∧
    Untraced overlapRead ∧ Sound overlapRead (own 0x1FFF01) 8 ∧
    (let s := copying [copyOf .bytes 0 0x200000 8 false]
     s.pieceReady 0 = some (copyOf .bytes 0 0x200000 8 false) ∧
     errorOf (s.engineCheck (engineAcc 0 0 .user) .write 8 0x200000).2 = some (0x13, 0x200000)) ∧
    (let c := copyOf (.stream 0) 0x1FFFF8 0 8 false
     let s := { (queued 2 7 false).modHere (fun k => { k with copies := [c] }) with arg := .core 0 }
     s.pieceReady 0 = some c ∧
     (s.engineRead (engineAcc 0 0 .user) .read 0x1FFFF8 8).2.toOption = some [0, 0, 0, 0, 0, 0, 0, 0] ∧
     (s.queue 0 0).readers = [] ∧ (s.queue 0 0).writers = []) ∧
    (base.copyDone 0 = none ∧
     (copying [{ copyOf .bytes 0 8 8 false with prog := 8 }]).copyDone 0 = some { copyOf .bytes 0 8 8 false with prog := 8 }) ∧
    (let s := { queued 2 7 false with arg := .queueVal 0 0 1 }
     (s.queue 0 0).readers = [] ∧ (s.queue 0 0).writers = [] ∧ (s.core 0).copies = [] ∧
     (bitsOf 1 0 2 : BitVec 2) ≠ (s.queue 0 0).mode ∧ (bitsOf 2 0 2 : BitVec 2) = (s.queue 0 0).mode) := by
  refine ⟨by decide, by unfold Untraced; decide +kernel, ?_, ?_, by unfold Untraced; decide +kernel,
    by unfold Sound; decide +kernel, ?_, ?_, ?_, ?_⟩ <;> decide +kernel

/-- Term 7 of core 0 counts in counter 2 and waits for counter 1 to reach a threshold, once or again and again. -/
def awaiting (thr : Word) (oneshot : Bool) : State :=
  let none4 : Vector TermCond 4 := Vector.replicate 4 { en := false, cnt := 0, thr := 0 }
  let y : Term := { valid := true, oneshot := oneshot, outen := true, outcnt := 2, incr := 1,
                    conds := none4.set 3 { en := true, cnt := 1, thr := thr } }
  let c1 := { copyOf .bytes 0 8 8 false with term := some 7 }
  { base.modHere (fun c => { c with terms := c.terms.set 7 y, copies := [c1] }) with arg := .term 0 7 }

theorem test_meets_TermsFireAndReleaseCommands :
    (twoSlots.ownsTerm 2 = false ∧ base.ownsTerm 15 = true) ∧
    base.selfRecord 32 0x60 0x200000 = .error (.fault 0x60 0x200000) ∧
    (let s := matRecord [(28, 3)]
     s.selfRecord 32 0x60 0 = .ok (numberAt s 32)) ∧
    ((matRecord [(28, 3)]).termRecordOk (numberAt (matRecord [(28, 3)]) 32) = true ∧
     (matRecord [(4, 0x20), (28, 1)]).termRecordOk (numberAt (matRecord [(4, 0x20), (28, 1)]) 32) = false) ∧
    Untraced (awaiting 0 true) ∧
    (∀ o, (let s := awaiting 0 o
           let y := s.term 0 7
           y.valid = true ∧ (y.conds.get 3).en = true ∧ y.outen = true ∧ y.oneshot = o ∧ s.me.run = .running ∧
           ∀ k, (y.conds.get k).en = true →
             0 ≤ ((s.core 0).c.get (y.conds.get k).cnt.toFin - (y.conds.get k).thr).toInt)) ∧
    (let s := awaiting 1 false
     ¬∀ k, ((s.term 0 7).conds.get k).en = true →
       0 ≤ ((s.core 0).c.get ((s.term 0 7).conds.get k).cnt.toFin - ((s.term 0 7).conds.get k).thr).toInt) := by
  refine ⟨by decide +kernel, error_of (by decide +kernel), ok_of (by decide +kernel), by decide +kernel,
    by unfold Untraced; decide +kernel, fun o => ?_,
    fun h => absurd (h 3 (by decide +kernel)) (by decide +kernel)⟩
  cases o <;>
    refine ⟨?_, ?_, ?_, ?_, ?_, all_four ⟨?_, ?_, ?_, ?_⟩⟩ <;> decide +kernel

/-- A firing of the cycle before counts in counter 31. -/
def counting : State := base.modHere (fun c => { c with outs := [31] })

theorem test_meets_TermsFireAndReleaseCommands_counts :
    Untraced counting ∧ counting.firing 0 = [] ∧ (counting.core 0).outs = [31] :=
  ⟨by unfold Untraced; decide +kernel, by decide +kernel, by decide +kernel⟩

/-- A descriptor of `n` F32 elements from the start of the share to offset 64. -/
def collRecord (n : Nat) : BitVec 512 := BitVec.ofNat 512 (64 * 2 ^ 64 + n * 2 ^ 128)

/-- Its command, on port gp1. -/
def collCmd (n : Nat) : CollCmd :=
  { desc := collRecord n, op := 0, port := 1, slot := 0, job := 0, group := 2, use := 1, fired := false }

/-- Job 0 with group 2 of cores 0 and 1 at gp1 of both, its root at core 0; core 1 is in the name cache. -/
def grouped : State :=
  let ps : Ports := { job := 0, port := (Vector.replicate 4 none).set 1 (some 2), arrived := Vector.replicate 4 0,
                      completed := Vector.replicate 4 0, rbar := false, collUses := Vector.replicate 4 0 }
  let s := (named.modHere (fun c => { c with ports := [ps] })).modCore 1 (fun c => { c with ports := [ps] })
  let tree : Tree := { root := 0, weight := 1, depth := 1, parent := [(1, 0)] }
  let g : Group := { part := 0, index := 2, job := 0, seq := 1, members := [0, 1], trees := [tree] }
  let js : List (Nat × Job) := s.jobs.map (fun e => (e.1, { e.2 with cols := 2 }))
  { s with groups := [g], jobs := js }

/-- Its jobs changed. -/
def jobbed (f : Job → Job) (s : State) : State := { s with jobs := s.jobs.map (fun e => (e.1, f e.2)) }

/-- Both cores have contributed, with `n` and 16 elements. -/
def contributed (n : Nat) (parts : List (Nat × Nat × VReg)) : State :=
  { (grouped.modCore 0 (fun c => { c with colls := [collCmd n] })).modCore 1 (fun c => { c with colls := [collCmd 16] }) with
    collUses := [{ key := (collCmd 16).key, parts := parts, completed := [], dead := false }] }

theorem test_meets_CollectivesCombineAndComplete :
    ({ base with curCore := 0xF000 }.isGrid 0xF000 = false ∧ (encodeWord (.coll 1 0 1)).isSome = true ∧
     grouped.isGrid 0 = true) ∧
    grouped.selfRecord 64 0x64 0x200000 = .error (.fault 0x64 0x200000) ∧ grouped.selfRecord 64 0x64 0 = .ok 0 ∧
    (grouped.portGroup 0 grouped.me.job 0 = none ∧ grouped.me.job = some 0 ∧
     grouped.portGroup 0 grouped.me.job 1 = some 2 ∧ (grouped.groupOfJob 0 2).isSome = true) ∧
    (twoSlots.ownsTerm (recField (BitVec.ofNat 512 (2 ^ 187 + 2 ^ 191) : BitVec 512) 191 188) = false) ∧
    (grouped.collValid (collRecord 0) 0 2 0 = false ∧ grouped.collValid (collRecord 16) 0 2 0 = true ∧
     (collRecord 16).getLsbD 187 = false ∧ grouped.recoverable = false ∧
     (jobbed (fun j => { j with recov := true }) grouped).recoverable = true) ∧
    (grouped.me.outstanding = 0 ∧ grouped.me.deferred = none ∧ grouped.here.colls.length < 2 ∧
     (grouped.portsOf 0 0).isSome = true ∧ grouped.collUses = [] ∧
     2 ≤ (grouped.modHere (fun c => { c with colls := [collCmd 16, collCmd 16] })).here.colls.length) := by
  refine ⟨?_, error_of (?_), ok_of (?_), ?_, ?_, ?_, ?_⟩ <;> decide +kernel

/-- The hypotheses about a unit at core 0 hold: its group, its contribution, the members' agreement, and its child's part. -/
def unitReady (n : Nat) (agreed : Bool) : Bool :=
  let s := contributed n [(0, 1, 7)]
  let k := (collCmd 16).key
  match s.groupOfJob 0 2, (s.core 0).contributes k with
  | some g, some c =>
    match s.contributions g k with
    | some cs => agree cs == agreed && (!agreed || ((s.collUse k).part 0 0 == none && sends c g 0 && decide (0 < unitsOf c g) &&
        s.banksHere 0 g.part && s.treeClear g 0 true && (s.sourceUnit 0 g c 0).toOption == some 0 && (needs c g 0 0).map (fun m => (s.collUse k).part 0 m) == [some 7]))
    | none => false
  | _, _ => false

theorem test_meets_CollectivesCombineAndComplete_units :
    Untraced { contributed 16 [] with arg := .collUnit (collCmd 16).key 0 0 } ∧
    (unitReady 16 true = true ∧ unitReady 15 false = true) ∧
    (contributed 16 []).collReady (collCmd 16).key 0 = none ∧
    (let s := contributed 16 [(0, 0, 7)]
     (s.collReady (collCmd 16).key 0).map (fun r => r.2.2) = some (bytesOf 64 7) ∧ Memory.wf s.mem = true ∧
     s.inShare 0 (some 0) 64 64 = true ∧ ∀ j, j < 64 → s.badIn (s.sharePhys 0 (some 0) (64 + j)) 1 = none) := by
  refine ⟨by unfold Untraced; decide +kernel, by decide +kernel, by decide +kernel, by decide +kernel⟩

/-- Work lists of job 0 on cores 0 and 1, with `n` items on core 0, core 1 having reported `k`. -/
def working (n k : Nat) : State :=
  let items : List WorkItem := List.replicate n { lo := 5, hi := 6, levelled := false, cell := none }
  let w := { WorkList.reset with en := true, bal := true, job := some 0, thresh := 1, items := items }
  let s := (grouped.modHere (fun c => { c with wl := { w with reported := [(1, k)] } })).modCore 1 (fun c => { c with wl := w })
  { s with arg := .core 0 }

/-- Slot 0 waits at WQUIET on gp1, on both cores. -/
def quieting (n : Nat) : State :=
  let f := fun (sl : Slot) => { sl with run := .waiting (.wquiet 4 1), job := some 0 }
  { ((working n 0).modSlot 0 0 f).modSlot 1 0 f with arg := .jobGroup 0 2 }

theorem test_meets_WorkListsHoldAndLevelItems :
    Untraced (working 0 0) ∧
    (base.here.wl.en = false ∧ (working 0 0).here.wl.en = true ∧ (working 0 0).me.job ≠ none ∧
     (working 0 0).here.wl.job = (working 0 0).me.job) ∧
    (2 ^ (4 + (working 16 0).here.wl.sizelog.toNat) ≤ (working 16 0).here.wl.items.length ∧
     (working 15 0).here.wl.items.length < 2 ^ (4 + (working 15 0).here.wl.sizelog.toNat) ∧
     (working 15 0).me.outstanding = 0 ∧ (working 15 0).me.deferred = none ∧ (working 15 0).me.run = .running ∧
     Memory.wf (working 15 0).mem = true ∧ (working 15 0).here.wl.nextCell true = some 0 ∧
     (working 15 0).cellAway (some 0) = none ∧ (working 15 0).cellAway none = none ∧
     { (working 0 0).here.wl with items := List.replicate 16 { lo := 5, hi := 6, levelled := false, cell := some 0 } }.nextCell true =
       none) ∧
    Sound (working 15 0) ((working 15 0).cellAt 0 0) 16 ∧
    ((8 : Dword).toNat % 16 ≠ 0 ∧ 0x200000 ≤ (0x200000 : Dword).toNat ∧ (0x1FFFF0 : Dword).toNat % 16 = 0 ∧
     (working 1 0).inShare 0 (working 1 0).me.who 0x1FFFF0 16 = true ∧
     oneBank.inShare 0 oneBank.me.who 0x20000 16 = false ∧
     (working 0 0).here.wl.items = [] ∧ (working 1 0).here.wl.items = [] ++ [{ lo := 5, hi := 6, levelled := false, cell := none }] ∧
     Memory.wf (working 1 0).mem = true) ∧ Sound (working 1 0) (own 0x1FFFF0) 16 ∧
    ((working 0 0).portGroup 0 (working 0 0).me.job 0 = none ∧ (working 0 0).portGroup 0 (working 0 0).me.job 1 ≠ none ∧
     (working 1 0).here.wl.items ≠ [] ∧ ((quieting 0).slot 0 0).run = .waiting (.wquiet 4 1)) ∧
    (5 ≤ (5 : Dword).toNat ∧ 1 ≤ (4 : Dword).toNat ∧ (4 : Dword).toNat ≤ 4 ∧
     (working 1 0).myJob.isSome = true) := by
  refine ⟨by unfold Untraced; decide +kernel, ?_, ?_, by unfold Sound; decide +kernel, ?_,
    by unfold Sound; decide +kernel, ?_, ?_⟩ <;> decide +kernel

/-- Items on their way from core 0 to core 1. -/
def shipped : State :=
  { working 1 0 with arg := .items { source := 0, dest := 1, job := 0, items := [((1, 2), false), ((3, 4), true)] } }

theorem test_meets_WorkListsHoldAndLevelItems_levelling :
    (grouped.levelDue 0 = false ∧ (working 3 1).levelDue 0 = true ∧ (working 3 1).levelNeighbours 0 = [1] ∧
     grouped.here.wl.reported.filter (fun r => (grouped.levelNeighbours 0).contains r.1) = [] ∧
     (working 3 1).here.wl.reported.filter (fun r => ((working 3 1).levelNeighbours 0).contains r.1) = [(1, 1)]) ∧
    ((working 2 1).here.wl.items.length ≤ 1 + (working 2 1).here.wl.thresh.toNat ∧
     1 + (working 3 1).here.wl.thresh.toNat < (working 3 1).here.wl.items.length) ∧
    (Untraced shipped ∧ (shipped.core 0).wl.job = some 0 ∧ (shipped.job? 0).map Job.phase = some .running ∧
     (grouped.core 0).wl.job ≠ some 0 ∧ ((jobbed (fun j => { j with phase := .done }) shipped).job? 0).map Job.phase = some .done) ∧
    ((quieting 1).quiescent 0 2 = false ∧ (quieting 0).quiescent 0 2 = true ∧
     ((quieting 0).groupOfJob 0 2).isSome = true ∧ (quieting 0).portGroup 1 (some 0) 1 = some 2) ∧
    Untraced { working 1 0 with arg := .coreJobVal 0 0 1 } := by
  refine ⟨by decide +kernel, by decide +kernel, ⟨by unfold Untraced; decide +kernel, by decide +kernel⟩, by decide +kernel,
    by unfold Untraced; decide +kernel⟩

/-! ### States that meet the statements' hypotheses: exceptions, control registers, slots and remote accesses -/

/-- Slot 0 in a mode with vectors valid or not, EXL and UPC, EPC and UEPC; 63 in g1. -/
def trapping (mode : Mode) (vec : BitVec 17) (exl upc : Bool) (pc : Dword) : State :=
  (regs 63 0x20000 0).modMe (fun sl =>
    { sl with st := { sl.st with mode := mode, exl := exl, upc := upc, tie := true }, pc := 0x100,
              vec := { sl.vec with tvec := vec, upvec := vec, epc := pc, uepc := pc } })

theorem test_meets_TrapsAreTakenAndReturnedFrom :
    (let sl := (trapping .user 0x101 false false 0).me
     sl.st.exl = false ∧ sl.vec.tvec.getLsbD 0 = true) ∧
    ((trapping .user 0x100 false false 0).me.vec.tvec.getLsbD 0 = false ∧
     (trapping .supervisor 0x101 true false 0).me.st.exl = true ∧
     (trapping .user 0x100 false false 0).me.job = some 0 ∧
     ((trapping .user 0x100 false false 0).job? 0).map (fun j => j.phase) = some .running ∧
     (trapping .user 0x100 false false 0).kindOf 0 = .grid) ∧
    ((trapping .user 0x101 false false 0).slice 0 (trapping .user 0x101 false false 0).me.who).2 = 0x20000 ∧
    ((0x1FFFE : Dword).toNat % 2 = 0 ∧ (0x1FFFE : Dword).toNat < 0x20000 ∧ (0x1FFFF : Dword).toNat % 2 = 1 ∧
     0x20000 ≤ (0x20000 : Dword).toNat) ∧
    (trapping .user 0x101 false false 0).me.st.mode = .user ∧ (trapping .supervisor 0x101 true false 0).me.st.mode ≠ .user := by
  decide +kernel

theorem test_meets_TrapsAreTakenAndReturnedFrom_root :
    (base.kindOf 0xF307 = .management 7 ∧ (base.slot 0xF307 0).vec.tvec.getLsbD 0 = false) ∧
    (base.onRoot 0 = false ∧ { base with curCore := 0xF307 }.onRoot 0xF307 = true) := by decide +kernel

/-- Slot 0 with pending causes and TCMP; panel time 1. -/
def pendingCauses (ps : List (BitVec 8 × Dword)) (tcmp : Nat) (upc : Bool) : State :=
  let s := (trapping .user 0x101 false upc 0).modMe (fun sl =>
    { sl with pending := ps, cnt := { sl.cnt with tcmp := BitVec.ofNat 64 tcmp } })
  { s with ptime := 1, arg := .slot 0 0 }

theorem test_meets_UpcallsAndAsynchronousCausesAreTaken :
    ((0x12 : BitVec 8) ∈ [(0x09 : BitVec 8), 0x11, 0x12, 0x39, 0x51, 0x61] ∧
     (0x13 : BitVec 8) ∉ [(0x09 : BitVec 8), 0x11, 0x12, 0x39, 0x51, 0x61]) ∧
    (let sl := (pendingCauses [] 0 true).slot 0 0
     sl.st.mode = .user ∧ sl.vec.upvec.getLsbD 0 = true ∧ sl.st.upc = true ∧ sl.pending = []) ∧
    ((pendingCauses [] 0 false).slot 0 0).st.upc = false ∧
    (let sl := (pendingCauses [(0x51, 0), (0x61, 0), (0x2A, 0)] 0 false).slot 0 0
     (0x2A, 0) ∈ sl.pending ∧ ∀ q, q ∈ sl.pending → q = (0x2A, 0) ∨ (0x2A : BitVec 8).toNat < q.1.toNat) ∧
    (base.me.st.tie = false ∧ (pendingCauses [] 2 false).ptime < ((pendingCauses [] 2 false).slot 0 0).cnt.tcmp.toNat ∧
     ((pendingCauses [] 1 false).slot 0 0).st.tie = true ∧
     ((pendingCauses [] 1 false).slot 0 0).cnt.tcmp.toNat ≤ (pendingCauses [] 1 false).ptime ∧
     ((pendingCauses [] 1 false).slot 0 0).run = .running) ∧
    ((atMwait 1 1).rejoinReady 0 0 = false ∧
     (withSlot (fun sl => { sl with run := .waiting .rejoin })).rejoinReady 0 0 = true) := by
  refine ⟨?_, ?_, ?_, ⟨?_, each (?_)⟩, ?_, ?_⟩ <;> decide +kernel

/-- Slot 0 of core 0, in job 0 and a bench or not, waits; slot 3 of core 1 waits for it to halt. -/
def ending (w : Wait) (b : Option Bench) : State :=
  { (withSlot (fun sl => { sl with run := .waiting w, bench := b })).modSlot 1 3
      (fun sl => { sl with run := .waiting (.slotAnswer 0 0 true) }) with arg := .slot 0 0 }

/-- Slot 0 waits for a capacity that its channel record has. -/
def fitting : State :=
  let ch := { lined.chan 0 63 with s := 0, k := 16 }
  { lined.modHere (fun c => { c with channels := c.channels.set 63 ch }) with arg := .slot 0 0 }

theorem test_meets_UpcallsAndAsynchronousCausesAreTaken_halts :
    (fitting.rejoinReady 0 0 = true ∧ (fitting.slot 0 0).run = .waiting (.channel 63 16)) ∧
    ∀ b, b ∈ [none, some { leader := 0, span := 2, pos := 0, done := 0 }] →
      (let s := ending .stopping b
       s.rejoinReady 0 0 = true ∧ (s.slot 0 0).run = .waiting .stopping ∧ (s.slot 0 0).job = some 0 ∧
       (s.slot 0 0).bench = b ∧ (s.slot 1 3).run = .waiting (.slotAnswer 0 0 true)) ∧
      (let s := ending .halt b
       s.rejoinReady 0 0 = true ∧ (s.slot 0 0).run = .waiting .halt ∧ (s.slot 0 0).deferred = none ∧
       (s.slot 0 0).pending = [] ∧ (s.slot 0 0).job = some 0 ∧ (s.chip (s.chipOf 0)).cache = []) := by
  refine ⟨by decide +kernel, each (?_)⟩
  decide +kernel

/-- Slot 0 in a mode. -/
def inMode (m : Mode) : State := trapping m 0x101 false false 0

theorem test_meets_ControlRegistersAreReadAndWritten :
    Untraced (inMode .user) ∧
    (0x00A ∉ crNumbers ∧ 0x028 ∈ crNumbers ∧ 0x02C ∈ crNumbers ∧ (encodeWord (.crr 1 0x00A)).isSome = true ∧
     (encodeWord (.crw 1 1 0x00A)).isSome = true) ∧
    (0x109 ∈ crNumbers ∧ twoSlots.ctlOwner 0x109 = some 0x31 ∧ twoSlots.ctlOwner 0x108 = none) ∧
    (ctlAccess 0x105 .user = .ro ∧ 0x105 ∈ crNumbers ∧ (inMode .user).ctlOwner 0x105 = none) ∧
    (∀ k, k ∈ [0x002, 0x003, 0x004, 0x008, 0x020, 0x021, 0x022, 0x023, 0x024] → ctlAccess k .user = .rw) ∧
    (∀ k, k ∈ [0x028, 0x029, 0x02A, 0x02B, 0x02C, 0x101, 0x102] → ctlAccess k .supervisor = .rw) ∧
    ctlAccess 0x005 .management = .rw ∧ (inMode .management).me.st.mode = .management := by
  refine ⟨by unfold Untraced; decide +kernel, ?_, ?_, ?_, ?_, ?_, ?_, ?_⟩ <;> decide +kernel

theorem test_meets_ControlRegistersAreReadAndWritten_fields :
    (base.liveSlots 0 = 16 ∧ (base.partSlots 0 0).length = 16 ∧ (base.shareBanks 0 base.me.who).length = 16 ∧
     base.here.copies = [] ∧ ∀ q, q ∈ [(0 : BitVec 3), 7] → (base.queue 0 q).entries = []) ∧
    (∀ k, k ∈ [0x011, 0x012, 0x013, 0x014, 0x015] → k ∈ crNumbers ∧ ctlAccess k .user = .rw ∧ base.ctlOwner k = none) ∧
    (∀ k, k ∈ [0x006, 0x007, 0x103, 0x112] → k ∈ crNumbers ∧ ctlAccess k .supervisor = .rw) ∧
    (∀ k, k ∈ [0x108, 0x10F, 0x110, 0x111] → k ∈ crNumbers ∧ base.ctlOwner k = none) ∧
    (∀ q, q ∈ [(0 : BitVec 3), 7] → (base.queue 0 q).readers = [] ∧ (base.queue 0 q).writers = []) := by
  refine ⟨⟨?_, ?_, ?_, ?_, each (?_)⟩, each (?_), each (?_), each (?_), each (?_)⟩ <;> decide +kernel

/-- A work list of 16 items at 0x1FFF00 and a notice ring of 16 at 0x1FFF80 end with the share; each one step further, not. -/
theorem test_meets_ControlRegistersAreReadAndWritten_fits :
    ((0x1FFF00 + 16 * 2 ^ (4 + 0) ≤ base.shareSize 0 (some 0) ∧ 0x1FFF00 % 16 = 0) ∧
     base.shareSize 0 (some 0) < 0x1FFF10 + 16 * 2 ^ (4 + 0)) ∧
    ((0x1FFF80 + 8 * 2 ^ (4 + 0) ≤ base.shareSize 0 base.me.who ∧ 0x1FFF80 % (8 * 2 ^ (4 + 0)) = 0) ∧ 0x1FFFC0 % (8 * 2 ^ (4 + 0)) ≠ 0) ∧
    (twoSlots.ownsCounter (fieldOf (0x18000000 : Dword) 31 27) = true ∧
     twoSlots.ownsCounter (fieldOf (0x20000000 : Dword) 31 27) = false) := by decide +kernel

/-- A message to slot 3 of core 1 from slot 0 of core 0, for job 0 or another. -/
def slotMsg (job : Nat) (offset : Dword) : SlotMsg :=
  { core := 0, slot := 0, part := 0, target := 1, tslot := 3, job := job, offset := offset, launch := false }

/-- It arrives; slot 3 of core 1 belongs to job 0. -/
def asked (run : Run) (job : Nat) (offset : Dword) : State :=
  { (base.modSlot 1 3 (fun sl => { sl with run := run, job := some 0 })) with arg := .slotMsg (slotMsg job offset) }

/-- 64 bytes of code for core 1. -/
def codeMsg (offset : Nat) : CodeMsg :=
  { core := 0, slot := 0, part := 0, target := 1, offset := offset, data := 3, report := 0 }

theorem test_meets_SlotsAreStartedAndStopped :
    ((posting 1).me.outstanding ≠ 0 ∧ base.enginesIdle 0 base.curSlot = true ∧
     (copying [copyOf .bytes 0 8 8 false]).enginesIdle 0 0 = false) ∧
    Drained (withSlot (fun sl => { sl with job := none })) 3 ∧
    (withSlot (fun sl => { sl with job := none })).me.job = none ∧
    ((inMode .user).me.st.mode = .user ∧ (inMode .supervisor).me.st.mode ≠ .user) ∧
    (let s := named.modMe (fun sl => { sl with st := { sl.st with mode := .supervisor } })
     s.resolveName s.acc ((0x3C00001 : Dword) &&& 0x3FFFFF) = .ok 1 ∧ (0x3C00001 : Dword).toNat < 2 ^ 26 ∧
     s.ownPanel 0 1 = true ∧ ((1, 15) : Nat × SlotNo) ≠ (0, s.curSlot)) ∧
    (2 ^ 17 ≤ (0x20000 : Dword).toNat ∧ (0x1FFFF : Dword).toNat % 2 = 1 ∧ (0x1FFFE : Dword).toNat < 2 ^ 17 ∧
     2 ^ 26 ≤ (0x4000000 : Dword).toNat) ∧
    (fieldOf (1 * 2 ^ 32 : Dword) 48 32 % 64 ≠ 0 ∧ fieldOf (0x400000 : Dword) 31 22 ≠ 0 ∧
     fieldOf (0x2000000000000 : Dword) 63 49 ≠ 0 ∧ fieldOf (0x1FFC000000001 : Dword) 48 32 % 64 = 0 ∧
     fieldOf (0x1FFC000000001 : Dword) 31 22 = 0 ∧ fieldOf (0x1FFC000000001 : Dword) 63 49 = 0 ∧
     (0x1FFFC0 : Dword).toNat % 64 = 0 ∧ (0x1FFFC0 : Dword).toNat < 0x200000 ∧ (posting 31).me.outstanding < 32 ∧
     (posting 31).badIn (own 0x1FFFC0) 64 = none) ∧
    (posting 31).check (posting 31).acc .image 64 0x1FFFC0 = .ok (.self (own 0x1FFFC0)) ∧
    ((inMode .supervisor).me.who = some 0 ∧ (inMode .supervisor).inRegion 0 0 = true ∧
     ((withSlot (fun sl => { sl with run := .waiting .plbinv })).slot 0 0).run = .waiting .plbinv) := by
  refine ⟨?_, by unfold Drained; decide +kernel, ?_, ?_, ⟨ok_of (?_), ?_⟩, ?_, ?_, ok_of (?_), ?_⟩ <;> decide +kernel

theorem test_meets_SlotsAreStartedAndStopped_halts :
    (bufferedStore.me.outstanding = 0 ∧ ∃ e, e ∈ bufferedStore.here.buffer ∧ e.slot = bufferedStore.curSlot) ∧
    (base.me.outstanding = 0 ∧ base.enginesIdle 0 base.curSlot = true ∧ base.me.job = some 0) ∧ Drained base 3 ∧
    ((base.modSlot 1 3 (fun sl => { sl with run := .waiting (.slotAnswer 0 0 true) })).slot 1 3).run =
      .waiting (.slotAnswer 0 base.curSlot true) ∧
    ((posting 31).outRoom 0 0 = true ∧ (sending 16).outRoom 0 0 = false ∧
     (sending 16).check (sending 16).acc .image 64 0x1FFFC0 = .ok (.self (own 0x1FFFC0)) ∧
     (sending 16).resolveName (sending 16).acc 1 = .ok 1 ∧ (sending 16).me.outstanding < 32) := by
  refine ⟨⟨?_, _, List.mem_singleton.mpr rfl, ?_⟩, ?_, by unfold Drained; decide +kernel, ?_, ?_, ?_, ok_of (?_), ok_of (?_),
    ?_⟩ <;> decide +kernel

theorem test_meets_SlotsAreStartedAndStopped_arrivals :
    (let s := asked .halted 0 0x1FFFE
     let sl := s.slot 1 3
     (s.core 1).handovers = [] ∧ sl.job = some 0 ∧ sl.run = .halted ∧ sl.capture = false ∧ sl.deferred = none ∧
     (0x1FFFE : Dword).toNat < (s.slice 1 (if s.onRoot 1 then none else some 0)).2 ∧
     (s.job? 0).map (fun j => j.phase) = some .running ∧ (slotMsg 0 0x1FFFE).core ≠ nobody ∧
     (((slotMsg 0 0).core, (slotMsg 0 0).slot) : Nat × SlotNo) ≠ ((slotMsg 0 0).target, (slotMsg 0 0).tslot)) ∧
    ((asked .halted 1 0).slot 1 3).job ≠ some 1 ∧
    ((asked .running 0 0).slot 1 3).run ≠ .off ∧ ((asked .running 0 0).slot 1 3).run ≠ .halted ∧
    (let s := { base with arg := .code (codeMsg 0x1FFC0) }
     let sc := s.slice 1 (some 0)
     (s.core 1).isolated = false ∧ s.busyEdge 1 = false ∧ s.onRoot 1 = false ∧ 0x1FFC0 + 64 ≤ sc.2 ∧
     isLocal (istoreAddr 1 (sc.1 + 0x1FFC0)) = false ∧ sc.2 < 0x20000 + 64 ∧ (s.slot 0 0).deferred = none) ∧
    Sound base (istoreAddr 1 0x1FFC0) 64 := by
  refine ⟨?_, ?_, ?_, ?_, ?_, by unfold Sound; decide +kernel⟩ <;> decide +kernel

/-- A request of slot 0 of core 1 at core 0. -/
def requested (op : MemOp) : State :=
  { fullWord with arg := .remote { core := 1, slot := 0, part := 0, node := .core 0, va := 8, op := op } }

/-- `k` remote full/empty reads held at the word at offset 16 of core 0. -/
def holdingReads (k : Nat) : State :=
  let w : FillWait := { word := own 16, core := 1, slot := 0, va := 16, clear := false, own := false }
  (requested (.feRead (own 16) false)).modHere (fun c => { c with waits := List.replicate k w })

/-- Slot 0 waits for `k` replies. -/
def replying (k : Nat) (bad : Bool) : State :=
  let p : PendingLoad := { dest := .gpr 4 8 false, got := [], remaining := k, bad := none, acquire := none }
  { withSlot (fun sl => { sl with run := .waiting (.reply p) }) with
    arg := .reply { core := 0, slot := 0, elem := 0, got := [(0, 9)], scope := 0, va := 8, bad := bad } }

/-- Page tables in frames 0x400 to 0x402 map an address by a 1 GiB page of HBM from frame 0. -/
def mapAt (va : Nat) (s : State) : State :=
  let put := fun (m : List Host.Cell) (frame i e : Nat) => Memory.setBytes m (hbmAddr 0 frame (8 * i)) (bytesOf 8 e)
  let m4 := put s.mem 0x400 (va / 2 ^ 48 % 512) (2 ^ 63 + 0x401)
  let m3 := put m4 0x401 (va / 2 ^ 39 % 512) (2 ^ 63 + 0x402)
  { s with root := some (0, 0x400),
           mem := put m3 0x402 (va / 2 ^ 30 % 512) (2 ^ 63 + 7 * 2 ^ 57 + 2 ^ 40 + 3 * 2 ^ 38) }

/-- They map 2^48, in frames of partition 0. -/
def mapped : State :=
  mapAt (2 ^ 48) { base with frames := [(0, 0xC0), (1, 0xC0), (2, 0xC0)], partlink := base.partlink.set 0 1,
                             vfs := [(0, { Vf.reset with domains := [(0, 0x3F)], domainSet := [0] })] }

/-- Slot 0 waits for a walk. -/
def walking (s : State) : State :=
  { s.modMe (fun sl => { sl with run := .waiting (.walk 0x1000000000000) }) with arg := .slotAddr 0 0 0x1000000000000 }

/-- Slot 0 waits for a translation of a page that its core's PLB holds, or not. -/
def translating (s : State) : State :=
  { s.modMe (fun sl => { sl with run := .waiting (.translation 0x1000000000000) }) with
    arg := .translation 0 (some 0) 0x1000000000000 }

/-- One buffered line, and its line in the chiplet cache. -/
def buffered : State :=
  let e : BufLine := { slot := 0, part := 0, va := 2 ^ 48 + 64, place := .hbm 0, vol := true, mask := 0xFF, data := 7 }
  let x : ChipLine := { va := 2 ^ 48 + 64, part := some 0, place := .hbm 0, vol := true, valid := BitVec.allOnes 64, dirty := 0,
                        owner := none, data := 0 }
  { (base.modHere (fun c => { c with buffer := [e] })).modChip (base.chipOf 0) (fun c => { c with cache := [x] }) with
    arg := .core 0 }

theorem test_meets_RemoteAccessesArePerformedAndAnswered :
    Untraced (requested (.read [(0, own 8), (1, own 16)] 8)) ∧
    ((base.core 0).isolated = false ∧ fullWord.badIn (own 8) 8 = none ∧
     ({ fullWord with bad := [own 8] }).badIn (own 8) 8 = some (own 8)) ∧
    (own 0 % 64 = 0 ∧ Memory.wf fullWord.mem = true ∧ risingFrom none fullWord.full = true) ∧ Sound fullWord (own 0) 64 ∧
    (fullWord.isFull (own 8) = true ∧ fullWord.isFull (own 16) = false ∧
     (((holdingReads 47).core (localCore (own 16))).waits.filter (fun w => !w.own)).length < 48 ∧
     48 ≤ (((holdingReads 48).core (localCore (own 16))).waits.filter (fun w => !w.own)).length) ∧
    (∀ k, k ∈ [1, 2] → ∀ bad, ((replying k bad).slot 0 0).run = .waiting (.reply
      { dest := .gpr 4 8 false, got := [], remaining := k, bad := none, acquire := none })) ∧
    (0 ≠ nobody ∧ ((posting 1).slot 0 0).run = .running ∧ ((posting 1).slot 0 0).deferred = none) ∧
    (((walking base).slot 0 0).run = .waiting (.walk 0x1000000000000) ∧
     errorOf ((walking base).walk ((walking base).slot 0 0).who 0x1000000000000) = some 0x11 ∧
     ((walking mapped).walk ((walking mapped).slot 0 0).who 0x1000000000000).toOption.isSome = true) ∧
    ((translating base).translators (some 0) 0x1000000000000 = [(0, 0)] ∧
     (translating base).plbFind ((translating base).accOf 0 0) 0x1000000000000 = none ∧
     ((translating paged).plbFind ((translating paged).accOf 0 0) 0x1000000000000).isSome = true ∧
     ((translating paged).translate (some 0) 0x1000000000000 (.hbm 0)).2.toOption.isSome = true ∧
     errorOf ({ translating paged with xlate := [] }.translate (some 0) 0x1000000000000 (.hbm 0)).2 = some 0x11) ∧
    ((base.core 0).buffer = [] ∧ (buffered.core 0).buffer ≠ [] ∧
     (buffered.chipLine (buffered.chipOf 0) (2 ^ 48 + 64)).map (fun x => x.dirty) = some 0) ∧
    ((withSlot (fun sl => { sl with run := .waiting .feclr })).slot 0 0).run = .waiting .feclr := by
  refine ⟨by unfold Untraced; decide +kernel, ?_, ?_, by unfold Sound; decide +kernel, ?_, ?_, ?_, ?_, ?_, ?_, ?_⟩ <;>
    decide +kernel

/-! ### States that meet the statements' hypotheses: groups and commits -/

/-- Job 0 recoverable or not, its group 2 at gp0 too, with a mirror on core 0 of the given allowance and ranges. -/
def mirrored (recov : Bool) (allow : Nat) (rs : List (Nat × Nat)) : State :=
  let m : Mirror := { job := 0, allow := allow, ranges := rs, dirty := [], prev := [], log := [], nrec := 0, lcause := 0,
                      reexec := false, unprot := false, noSpace := false, streamed := false }
  let s := (jobbed (fun j => { j with recov := recov }) grouped).modHere (fun c =>
    { c with mirrors := [m], ports := c.ports.map (fun p => { p with port := p.port.set 0 (some 2) }) })
  s.modMe (fun sl => ((sl.setG 1 0x1FFFC0).setG 2 64))

/-- A use of group 2, number 1. -/
def useOf (gathered : List Nat) (phase : Nat) (acks : List Nat) : GroupUse :=
  { job := 0, group := 2, use := 1, gathered := gathered, rbar := true, phase := phase, acks := acks }

/-- A message about it. -/
def groupMsg (node : Nat) (rbar : Bool) : GroupMsg :=
  { job := 0, group := 2, port := 0, use := 1, node := node, child := node, rbar := rbar, phase := 0 }

/-- The use is open, and both cores have arrived at it; slot 0 of core 0 waits at RBAR. -/
def meeting (recov : Bool) (u : GroupUse) (a : Arg) : State :=
  let s := (mirrored recov 0x100000 [(0, 64)]).modMe (fun sl => { sl with run := .waiting (.gbar 0 true) })
  let here := fun (c : Core) => { c with ports := c.ports.map (fun p =>
    { p with port := p.port.set 0 (some 2), arrived := p.arrived.set 0 1 }) }
  { (s.modHere here).modCore 1 here with uses := [u], arg := a }

/-- A flow-tracked message of the job is not yet deposited. -/
def undeposited : State :=
  (mirrored true 28672 []).modHere (fun c => { c with undeposited := [(0, 1, 5)] })

theorem test_meets_GroupsMeetAndRoundsCommit :
    (base.portGroup 0 base.me.job 0 = none ∧ (mirrored true 0 []).portGroup 0 (mirrored true 0 []).me.job 0 = some 2 ∧
     (mirrored true 0 []).recoverable = true ∧ (mirrored false 0 []).recoverable = false) ∧
    Drained (mirrored false 0 []) 3 ∧
    (let s := mirrored false 0 []
     s.me.job = some 0 ∧ (s.portsOf 0 0).map (fun p => p.arrived.get 0 == p.completed.get 0) = some true ∧
     ∀ i, i ∈ s.jobSlots 0 0 → i = s.curSlot) ∧
    ({ base with curCore := 0xF000 }.isGrid 0xF000 = false ∧ (encodeWord .rbar).isSome = true ∧
     (encodeWord (.rstat 1)).isSome = true ∧ (encodeWord (.miradd 1 2)).isSome = true ∧
     (encodeWord (.mirdel 1 2)).isSome = true) ∧
    ((withSlot (fun sl => { sl with job := none })).me.job = none ∧ base.isGrid 0 = true) ∧
    (let s := mirrored true 28671 []
     ∀ job, s.job? 0 = some job → 28671 < s.mirrorUse 0 job []) ∧
    (let s := mirrored true 28672 []
     ((s.mirrorOf 0 0).map Mirror.allow = some 28672 ∧ ∀ job, s.job? 0 = some job → s.mirrorUse 0 job [] ≤ 28672) ∧
     s.here.allDeposited 0 = true) ∧
    (undeposited.here.allDeposited 0 = false ∧ (undeposited.job? 0).map Job.recov = some true) := by
  refine ⟨?_, by unfold Drained; decide +kernel, ?_, ?_, ?_, ?_, ?_, ?_⟩ <;> decide +kernel

/-- Sixteen ranges of one line, every other line. -/
def sixteen : List (Nat × Nat) := (List.range 16).map (fun k => (128 * k, 64))

theorem test_meets_GroupsMeetAndRoundsCommit_ranges :
    ((0x20 : Dword).toNat % 64 ≠ 0 ∧ (0x1FFFC0 : Dword).toNat % 64 = 0 ∧
     base.shareSize 0 base.me.who < (0x1FFFC0 : Dword).toNat + (128 : Dword).toNat ∧
     (0x1FFFC0 : Dword).toNat + (64 : Dword).toNat ≤ base.shareSize 0 base.me.who) ∧
    (16 < (addRange sixteen 0x1FFFC0 64).length ∧ (addRange (sixteen.take 15) 0x1FFFC0 64).length ≤ 16 ∧
     16 < (dropRange (sixteen.take 15 ++ [(2048, 192)]) 2112 64).length ∧ (dropRange sixteen 0 64).length ≤ 16) ∧
    (let s := mirrored true 28736 []
     ∀ job, s.job? 0 = some job → s.mirrorUse 0 job (addRange [] 0x1FFFC0 64) ≤ 28736) ∧
    (let s := mirrored true 28735 []
     ∀ job, s.job? 0 = some job → 28735 < s.mirrorUse 0 job (addRange [] 0x1FFFC0 64)) := by decide +kernel

theorem test_meets_GroupsMeetAndRoundsCommit_uses :
    (let s := meeting false (useOf [] 0 []) (.group (groupMsg 0 true))
     s.groupUse 0 2 1 = some (useOf [] 0 []) ∧ (s.groupOfJob 0 2).map (fun g => (s.canGather (useOf [] 0 []) g 0,
       s.canGather (useOf [] 0 []) g 1, g.mainTree.root)) = some (false, true, 0)) ∧
    (let s := meeting true (useOf [1] 0 []) (.group (groupMsg 0 true))
     (s.groupOfJob 0 2).map (fun g => s.canGather (useOf [1] 0 []) g 0) = some true ∧
     (s.portsOf 0 0).bind (fun p => p.portFor 2) = some 0 ∧ (s.job? 0).map Job.recov = some true) ∧
    (let s := meeting true (useOf [1, 0] 0 []) (.group (groupMsg 0 true))
     (0 : SlotNo) ∈ s.jobSlots 0 0 ∧ (s.slot 0 0).atPort 0 = true ∧ (groupMsg 0 false).rbar = false) ∧
    (let s := meeting true (useOf [] 1 []) (.coreJob 0 0)
     s.commitUse 0 = some (useOf [] 1 []) ∧ (s.mirrorOf 0 0).isSome = true) ∧
    (((meeting true (useOf [] 2 []) .none).modSlot 0 3 (fun sl => { sl with run := .halted })).slot 0 3).run = .halted ∧
    ((useOf [] 2 []).acks.contains 0 = false ∧ (meeting true (useOf [] 2 []) (.coreJob 0 0)).commitUse 0 =
      some (useOf [] 2 [])) ∧
    (let s := meeting true (useOf [] 1 [0, 1]) (.job 0)
     (s.groupOfJob 0 2).map (fun g => (g.members.all (useOf [] 1 [0, 1]).acks.contains,
       g.members.all (useOf [] 1 [0]).acks.contains)) = some (true, false)) := by decide +kernel

/-! ### States that meet the statements' hypotheses: contexts, notices and losses -/

/-- A supervisor slot on a core of a partition whose pages are mapped; a switch descriptor at the start of the share. -/
def switching (bs : List (Nat × Byte)) : State :=
  let s := (jobbed (fun j => { j with slotMask := 3 }) mapped).modMe (fun sl =>
    { sl with st := { sl.st with mode := .supervisor } })
  let s1 := s.modHere (fun c => { c with names := [(0, 1)] })
  { s1 with mem := bs.foldl (fun m b => Memory.set m (own b.1) b.2) s1.mem }

/-- CSAVE of context 0 of core 1, slot 3, into an area at 2^48; with a counter or not. -/
def saveDesc (cnt : Byte) : List (Nat × Byte) := [(0, 0x80), (1, cnt), (36, 8), (38, 1), (46, 1)]

theorem test_meets_ContextsAreSavedAndNoticesWritten :
    Untraced (switching []) ∧ Memory.wf (switching (saveDesc 4)).mem = true ∧
    ((inMode .user).me.st.mode = .user ∧ (switching []).me.st.mode ≠ .user) ∧
    (switching []).selfRecord 64 0x0B 0x200000 = .error (.fault 0x0B 0x200000) ∧
    (switching (saveDesc 4)).selfRecord 64 0x0B 0 = .ok (numberAt (switching (saveDesc 4)) 64) ∧
    (let s := switching (saveDesc 4)
     let c := s.switchCmd (numberAt s 64) 0 true
     s.switchValid (numberAt s 64) c = true ∧ c.cnten = true ∧ s.ownsCounter c.counter.toNat = false ∧ c.target = 1) ∧
    (let s := switching (saveDesc 3)
     let c := s.switchCmd (numberAt s 64) 0 true
     s.switchValid (numberAt s 64) c = true ∧ s.ownsCounter c.counter.toNat = true ∧ s.me.run = .running) ∧
    (switching (saveDesc 3)).name (switching (saveDesc 3)).acc 1 1 = .ok () ∧
    (switching []).switchValid 0 ((switching []).switchCmd 0 0 true) = false ∧
    Sound (switching []) ((switching []).sharePhys 0 (some 0) 56) 8 := by
  refine ⟨by unfold Untraced; decide +kernel, ?_, ?_, error_of (?_), ok_of (?_), ?_, ?_, ok_of (?_), ?_,
    by unfold Sound; decide +kernel⟩ <;> decide +kernel

/-- A command of a save or a restore of slot 3 of core 1. -/
def moveCmd (save : Bool) (inA outA : Dword) : HandoverCmd :=
  { core := 0, slot := 0, part := 0, desc := 0, target := 1, slots := 8, ctxIn := 1, ctxOut := 0, inArea := inA, outArea := outA,
    cnten := true, counter := 3, save := save }

/-- A handover of core 1. -/
def moveOf (c : HandoverCmd) (cap : List SlotNo) (banks : List Nat) (started : Bool) : Handover :=
  { cmd := c, toCapture := cap, captured := [], banks := banks, started := started, toRelease := [], noticed := started,
    prog := 4096, result := 0, notices := [] }

/-- Slot 3 of core 1 runs in job 0, or not; core 1 has a handover. -/
def moving (held : Bool) (hs : List Handover) (a : Arg) : State :=
  let s := if held then (switching []).modSlot 1 3 (fun sl => { sl with run := .running, job := some 0, capture := true })
    else switching []
  let e : PlbEntry := { part := some 0, base := 2 ^ 48, size := 2 ^ 30, info := pageOf (.hbm 0) }
  { s.modCore 1 (fun c => { c with handovers := hs, plb := [e] }) with arg := a }

theorem test_meets_ContextsAreSavedAndNoticesWritten_commands :
    (let c := moveCmd true 0 0x1000000000000
     let s := moving true [] (.handover c)
     s.resident 1 0 0 = true ∧ (s.core 1).handovers = [] ∧ (s.core 1).isolated = false ∧ s.heldSlots c = [3] ∧
     (moving false [] (.handover c)).resident 1 0 0 = false) ∧
    (moving true [] .none).areaOk 1 0 (2 ^ 48) = true ∧ base.areaOk 1 0 (2 ^ 48) = false ∧
    (let c := moveCmd false 0x1000000000000 0
     let s := moving false [] (.handover c)
     s.heldSlots c = [] ∧ s.restorable c = false) ∧
    ((meeting true (useOf [] 1 []) .none).committing 0 = true ∧ (moving true [] .none).committing 1 = false) ∧
    ((moving true [] .none).underRecovery 1 = false ∧
     ({ moving true [] .none with recoveries := [{ loss := .core 1, t0 := 0, cores := [1], jobs := [], attempts := 0, up := true,
                                                   tested := true, restored := true }] }).underRecovery 1 = true) := by
  decide +kernel

theorem test_meets_ContextsAreSavedAndNoticesWritten_slots :
    (let s := moving true [moveOf (moveCmd true 0 0x1000000000000) [3] [] false] (.slot 1 3)
     s.captureReady 1 3 = true ∧ (s.slot 1 3).bench = none ∧ (s.slot 1 3).run = .running ∧ (s.core 1).buffer = [] ∧
     (s.chip (s.chipOf 1)).cache = [] ∧ (s.core 1).handovers.find? (fun h => h.toCapture.contains 3) =
       some (moveOf (moveCmd true 0 0x1000000000000) [3] [] false) ∧
     s.captureReady 1 4 = false) ∧
    (let s := jobbed (fun j => { j with parked := true }) (moving true [] (.slot 1 3))
     (s.job? 0).map (fun j => (j.parked, j.phase)) = some (true, .running) ∧
     ((moving true [] .none).job? 0).map Job.parked = some false ∧ (moving true [] .none).haltNamed 1 3 = false ∧
     ((moving true [] .none).modSlot 0 5 (fun sl => { sl with run := .waiting (.slotAnswer 1 3 true) })).haltNamed 1 3 = true) ∧
    (let h := moveOf (moveCmd true 0 0x1000000000000) [] [] true
     ((moving false [h] (.core 1)).core 1).handovers.find? Handover.done = some h) := by decide +kernel

/-- Where no check-code unit is uncorrectable, no bytes are (R158). -/
theorem badIn_none {s : State} (h : s.bad = []) (a n : Nat) : s.badIn a n = none := by
  induction n generalizing a with
  | zero => rfl
  | succ n ih => simp [State.badIn, h, ih]

theorem areaBad_false {s : State} (h : s.bad = []) (n : Nat) (p : BitVec 6) (va k : Nat) : s.areaBad n p va k = false := by
  simp only [State.areaBad, List.any_eq_false]
  intro q _
  split <;> simp [badIn_none h]

theorem exchangeBad_false {s : State} (h : s.bad = []) (n : Nat) (c : HandoverCmd) (ht : (s.core n).badTiles = []) :
    s.exchangeBad n c = false := by
  simp [State.exchangeBad, badIn_none h, areaBad_false h, ht]

/-- Core 1 with one handover, which has something to do; slots still to be captured, banks still to be exchanged. -/
def exchanging (save : Bool) (cap : List SlotNo) (banks : List Nat) (started : Bool) : State :=
  moving false [moveOf (moveCmd save (if save then 0 else 0x1000000000000) (if save then 0x1000000000000 else 0)) cap banks
    started] (.core 1)

/-- Its first bank uncorrectable at its first byte. -/
def exchangingBad : State := { exchanging true [] [] false with bad := [localBase + 2 ^ 21] }

/-- Context 1 of core 1 with slot 3, restored from the area at 2^48. -/
def releasing : State :=
  let h := { moveOf (moveCmd false 0x1000000000000 0) [] [15] true with toRelease := [3] }
  let x : SavedContext := { part := 0, context := 1, core := 1, area := 0x1000000000000,
                            slots := [(3, { Slot.reset with run := .running, job := some 0 })], ended := [], state := Core.reset }
  { moving false [h] (.core 1) with contexts := [x] }

theorem test_meets_ContextsAreSavedAndNoticesWritten_banks :
    (let s := exchanging true [3] [] false
     ∀ h, (s.core 1).handovers = [h] → h.done = false ∧ h.started = false ∧ s.sharedReady 1 h = false) ∧
    (let s := exchanging true [] [] false
     (s.core 1).handovers.map (fun h => (h.done, h.started, s.sharedReady 1 h)) = [(false, false, true)] ∧
     ∀ c, s.exchangeBad 1 c = false) ∧
    ((exchangingBad.core 1).handovers.map (fun h => (exchangingBad.sharedReady 1 h, exchangingBad.exchangeBad 1 h.cmd)) =
      [(true, true)]) ∧
    ((releasing.core 1).handovers.map (fun h => ([h.done, h.started, h.noticed], h.notices, h.toRelease)) =
       [([false, true, true], [], [3])] ∧
     (releasing.core 1).handovers.map (fun h => (releasing.incoming h.cmd).map (fun x =>
       (x.ended, (x.slots.find? (fun e => e.1 == 3)).map (fun e => e.2.run)))) = [some ([], some .running)]) ∧
    (let s := exchanging false [] [15] true
     (s.core 1).handovers.map (fun h => ([h.done, h.started, h.noticed], h.notices, h.toRelease)) =
       [([false, true, true], [], [])] ∧
     (s.core 1).handovers.map (fun h => (s.wantedBank 1 h).orElse (fun _ => h.banks.head?)) = [some 15]) := by
  refine ⟨?_, ⟨by decide +kernel, fun c => exchangeBad_false (by decide +kernel) _ _ (by decide +kernel)⟩, by decide +kernel,
    by decide +kernel, by decide +kernel⟩
  intro s h e
  have : h = moveOf (moveCmd true 0 0x1000000000000) [3] [] false := by
    have e' : (s.core 1).handovers = [moveOf (moveCmd true 0 0x1000000000000) [3] [] false] := by decide +kernel
    exact (List.cons.inj (e.symm.trans e')).1
  subst this
  decide +kernel

theorem test_meets_ArrivalsAreDeposited_handing :
    (let s := moving false [moveOf (moveCmd true 0 0x1000000000000) [] [] true] .none
     (s.core 1).handing 0 = true ∧ s.ownsClass 0 1 5 = true ∧ (s.core 1).isolated = false ∧ (s.core 1).refusing = []) := by
  decide +kernel

/-- A notice for context 0 of core 1. -/
def aNotice : Notice := { part := 0, context := 0, core := 1, tag := 7, status := 2 }

/-- The notice ring of partition 0 on core 1 is on, with its head at the last of 16 entries. -/
def ringOn (on : Bool) (s : State) : State :=
  { s.modRow 1 0 (fun r => { r with fnEn := on, fnHead := 15, fnBase := 0x1FFF80 }) with arg := .notice aNotice }

/-- Context 0 of partition 0 has a save area, and `n` notices of it are pending there. -/
def areaOf (n : Nat) : State :=
  let s := switching []
  let s1 := { s with vfs := [(0, { s.vf 0 with areas := [(areaKey 0 1, 0x1000000000000)] })] }
  let h := { headerOf [] with npend := n }
  { s1.areaWrite 1 0 (2 ^ 48) h.bytes with arg := .notice aNotice }

theorem test_meets_ContextsAreSavedAndNoticesWritten_notices :
    ((ringOn true (moving true [] .none)).resident 1 0 0 = true ∧ ((ringOn true (moving true [] .none)).row 1 0).fnEn = true ∧
     ((ringOn false (moving true [] .none)).row 1 0).fnEn = false ∧ (ringOn true (moving false [] .none)).resident 1 0 0 = false ∧
     ((ringOn true (moving true [] .none)).core 1).handovers.find? (fun h => h.cmd.part == 0) = none) ∧
    Sound (ringOn true (moving true [] .none)) ((moving true [] .none).sharePhys 1 (some 0) (0x1FFF80 + 8 * 15)) 8 ∧
    (let out := moveCmd true 0 0x1000000000000
     out.ctxOut = aNotice.context ∧ out.ctxIn ≠ aNotice.context ∧ (moveOf out [3] [] false).started = false ∧
     (moveOf out [] [] true).started = true) ∧
    (let c := { moveCmd false 0x1000000000000 0 with ctxIn := 0 }
     let s := ringOn true (moving false [moveOf c [] [] true] .none)
     c.ctxIn = aNotice.context ∧ (moveOf c [] [] true).result = 0 ∧ (moveOf c [] [] true).noticed = true ∧
     (moveOf c [] [] true).notices = [] ∧ s.ringReady 1 (moveOf c [] [] true) = true ∧
     s.ringReady 1 (moveOf c [] [15] true) = false) ∧
    ((moveCmd true 0 0x1000000000000).inArea = 0 ∧ (moveCmd false 0x1000000000000 0).inArea ≠ 0 ∧
     (moveCmd true 0 0x1000000000000).ctxIn ≠ aNotice.context ∧
     { moveCmd true 0 0x1000000000000 with ctxOut := 2 }.ctxOut ≠ aNotice.context) ∧
    (lookupNat (areaKey 0 1) ((switching []).vf 0).areas = none ∧
     lookupNat (areaKey 0 1) ((areaOf 1023).vf 0).areas = some 0x1000000000000 ∧
     ((areaOf 1023).areaHeader 1 0 (2 ^ 48)).npend < 1024 ∧ 1024 ≤ ((areaOf 1024).areaHeader 1 0 (2 ^ 48)).npend ∧
     ((areaOf 1024).vf 0).spill.length < 4096) := by
  refine ⟨?_, by unfold Sound; decide +kernel, ?_, ?_, ?_, ?_⟩ <;> decide +kernel

/-- Bank 0 of core 0 is still to come for partition 0, whose work list there has `n` items in its ring. -/
def comingCell (n : Nat) : State :=
  let items : List WorkItem := List.replicate n { lo := 5, hi := 6, levelled := false, cell := some 0 }
  (working 0 0).modHere (fun c => { c with
    handovers := [moveOf (moveCmd false 0x1000000000000 0) [] [0] true], wl := { c.wl with items := items } })

theorem test_meets_WorkListsHoldAndLevelItems_cells :
    (comingCell 0).cellAway ((comingCell 0).here.wl.nextCell true) = some 0 ∧
    (comingCell 0).here.wl.items.length < 2 ^ (4 + (comingCell 0).here.wl.sizelog.toNat) ∧
    (comingCell 1).here.wl.items = [] ++ [{ lo := 5, hi := 6, levelled := false, cell := some 0 }] ∧
    (comingCell 1).cellAway (some 0) = some 0 ∧ (comingCell 1).bankAway 0 (comingCell 1).me.who 0x40 16 = none := by
  decide +kernel

/-- A recovery of a loss that took core 0, at panel time 4,000,000. -/
def recoveryOf (l : Loss) (attempts : Nat) (up tested restored : Bool) : Recovery :=
  { loss := l, t0 := 0, cores := [0], jobs := [0], attempts := attempts, up := up, tested := tested, restored := restored }

/-- The panel recovers. -/
def losing (r : Recovery) (a : Arg) : State := { base with recoveries := [r], ptime := 4000000, arg := a }

theorem test_meets_LossesAreRecovered :
    (0 ∈ (recoveryOf (.zone 0) 2 false false false).jobs ∧ (base.job? 0).map (fun j => j.phase) = some .running) ∧
    (base.isGrid 0 = true ∧ (base.core 0).isolated = false ∧
     (base.modHere (fun c => { c with isolated := true })).here.isolated = true) ∧
    (∀ d, (losing (recoveryOf (.zone 0) 0 d d false) (.loss (.zone 0))).recoveryOf (.zone 0) =
      some (recoveryOf (.zone 0) 0 d d false)) ∧
    ((losing (recoveryOf (.zone 0) 3 true true false) .none).restoreReady (recoveryOf (.zone 0) 3 true true false) = true ∧
     (losing (recoveryOf (.zone 0) 3 true false false) .none).restoreReady (recoveryOf (.zone 0) 3 true false false) = false ∧
     (losing (recoveryOf (.zone 0) 3 true true true) .none).releaseReady (recoveryOf (.zone 0) 3 true true true) = true ∧
     (losing (recoveryOf (.zone 0) 3 true true false) .none).releaseReady (recoveryOf (.zone 0) 3 true true false) = false) ∧
    ((withSlot (fun sl => { sl with run := .waiting .restoring })).slot 0 0).run = .waiting .restoring ∧
    ((recoveryOf (.zone 0) 2 false false false).attempts < 3 ∧
     (recoveryOf (.zone 0) 2 false false false).t0 + attemptTime 2 ≤ (losing (recoveryOf (.zone 0) 2 false false false) .none).ptime ∧
     (recoveryOf (.zone 0) 1 false false false).t0 + attemptTime 1 ≤ 4000000) ∧
    (let s := { (benched 0) with arg := .loss (.zone 0) }
     (s.slot 0 0).bench.isSome = true ∧ 0 ∈ (s.lostCores (.zone 0)).filter (fun n => !(s.core n).isolated || s.awaits n)) ∧
    (let s := jobbed (fun j => { j with phase := .loading }) base
     (s.job? 0).map (fun j => (j.phase, (s.jobCores j).any [0].contains)) = some (.loading, true)) ∧
    (0 + 10000000000 ≤ 10000000000 ∧ 9999999999 < 0 + 10000000000) ∧
    ((losing (recoveryOf (.core 0) 0 false false false) .none).recoveryOf (.core 0)).map Recovery.tested = some false := by
  decide +kernel

/-- Channel record 63 of core 0 under resynchronisation, with messages to send again, or an answer, or neither. -/
def resyncing (again : List Msg) (answer : Option (Word × Word × BitVec 16)) : State :=
  { base.modHere (fun c => { c with channels := c.channels.set 63 { Channel.reset with
      valid := true, dest := 1, cls := 5, k := 64, resync := true, resend := again, answer := answer } }) with
    arg := .channel 0 63, ptime := 64000 }

/-- Core 0 is one that a recovery has restored. -/
def caught : State := { resyncing [] (some (0, 0, 0)) with recoveries := [recoveryOf (.zone 0) 3 true true true] }

theorem test_meets_LossesAreRecovered_resync :
    ((base.chan 0 63).resync = false ∧ ((resyncing [] none).chan 0 63).resync = true ∧
     (resyncing [] none).resendFits 0 63 = false ∧ (resyncing [msg8] none).resendFits 0 63 = true) ∧
    (caught.underRestore 0 = true ∧ (caught.chan 0 63).answer = some (0, 0, 0) ∧ (caught.chan 0 63).seq = 0 ∧
     (resyncing [] (some (0, 0, 1))).underRestore 0 = false ∧ (resyncing [] (some (0, 0, 1))).loggingJob 0 63 = none) ∧
    ((mirrored true 0 []).modMirror 0 0 (fun m => { m with log := [{ idx := 63, msg := msg8 }] })).loggingJob 0 63 = some 0 ∧
    ((base.chan 0 63).retryDue 64000 = false ∧ ((resyncing [] none).chan 0 63).retryDue 64000 = true) := by decide +kernel

/-- Job 0 is to be restored on core 0 from a copy of slot 0, counter 3 and one byte of its share. -/
def restoring : State :=
  let k : Copy := { job := 0, core := 0, staging := false, round := 1, slots := [(0, { Slot.reset with run := .running })],
                    counters := [(3, 7)], bars := [], queues := [], classes := [], channels := [], row := none,
                    ranges := [(0, 64)], cells := [(localBase, 5)], full := [] }
  { mirrored true 28672 [(0, 64)] with
    recoveries := [recoveryOf (.zone 0) 3 true true false], arg := .loss (.zone 0), copies := [k] }

/-- Core 1 has logged a message for core 0. -/
def loggedFor : State :=
  restoring.modCore 1 (fun c => { c with mirrors := (mirrored true 0 []).here.mirrors.map (fun m =>
    { m with log := [{ idx := 63, msg := msg8 }] }) })

theorem test_meets_LossesAreRecovered_restore :
    (let s := restoring
     (s.recoveryOf (.zone 0) = some (recoveryOf (.zone 0) 3 true true false) ∧
      s.restoreReady (recoveryOf (.zone 0) 3 true true false) = true) ∧ s.recovers 0 = true ∧
     (s.slot 0 0).job = some 0 ∧ Memory.wf s.mem = true ∧ (s.mirrorOf 0 0).isSome = true ∧ s.haltNamed 0 0 = false ∧
     (s.copyFor 0 0).map (fun c => ((c.slots.filter (fun e => e.1 == 0)).length, lookupNat 3 c.counters, c.full.isEmpty && c.cells.length == 1)) =
       some (1, some 7, true)) ∧
    (loggedFor.logged 1 [0] = [63] ∧
     (restoring.modHere (fun c => { c with channels := c.channels.set 63 { Channel.reset with valid := true, dest := 1 } })).outward
       (recoveryOf (.zone 0) 3 true true true) 0 = [63]) := by decide +kernel

/-! ### States that meet the statements' hypotheses: power, heat, work queues, jobs and the host -/

/-- A management-mode slot with a value in g1, jobs of a class. -/
def managing (x : Dword) : State :=
  (jobbed (fun j => { j with prio := 5 }) (regs x 0 0)).modMe (fun sl => { sl with st := { sl.st with mode := .management } })

/-- Job 0 shed at time 0, at panel time `now`. -/
def shedding (now : Nat) : State :=
  { jobbed (fun j => { j with shed := true }) base with ptime := now, arg := .job 0 }

theorem test_meets_PowerIsCappedAndShed_duties :
    (base.cores.flatMap (fun e => e.2.slots.toList.filterMap (fun sl => sl.bench.filter (fun b => b.leader == e.1))) = [] ∧
     (benched 0).cores.flatMap (fun e => e.2.slots.toList.filterMap (fun sl => sl.bench.filter (fun b => b.leader == e.1))) =
       [{ leader := 0, span := 2, pos := 0, done := 0 }]) ∧
    (0 ∈ (List.range 50).flatMap (fun z => (zoneChips z).flatMap base.chipCores) ∧ base.isGrid 0 = true) ∧
    (0 ∈ benchCores { leader := 0, span := 2, pos := 0, done := 0 } ∧
     2 ∉ benchCores { leader := 0, span := 2, pos := 0, done := 0 }) := by
  refine ⟨by decide +kernel, ⟨?_, by decide +kernel⟩, by decide +kernel⟩
  refine List.mem_flatMap.mpr ⟨0, by decide, List.mem_flatMap.mpr ⟨0, by decide +kernel, by decide +kernel⟩⟩

theorem test_meets_PowerIsCappedAndShed :
    ((5 : BitVec 5).toNat ≤ 30 ∧ 5 ≤ (30 : BitVec 5).toNat ∧ (encodeWord (.phint 5)).isSome = true ∧
     (4 : BitVec 5).toNat < 5) ∧
    (base.me.st.mode ≠ .management ∧ (managing 0).me.st.mode = .management) ∧
    (2 ^ 17 ≤ (0x20000 : Dword).toNat ∧ (0x1FFFF : Dword).toNat < 2 ^ 17 ∧ 8 < (9 : Dword).toNat ∧ (8 : Dword).toNat ≤ 8) ∧
    ((managing 5).job? 0).map (fun j => (j.phase, j.prio.toNat)) = some (.running, 5) ∧
    ((shedding 1000000).job? 0).map (fun j => (j.shed, j.parked, j.shedAt)) = some (true, false, 0) ∧
    (shedding 0).power.sheddl.toNat * 1000 = 1000000 ∧ ((shedding 1000000).commitUse 0).isNone = true ∧
    ((base.core 0).retainable = false ∧ (base.core 1).retainable = true ∧ base.isGrid 1 = true ∧ base.isGrid 0xF000 = false) ∧
    (∀ e, e ∈ base.cores → ∀ i, (e.2.slot i).bench = none) := by decide +kernel

/-- A frame with a body, its synchronisation and CRC good. -/
def goodFrame (body : Nat) : BitVec 128 :=
  let b := 0x7E51 + body * 2 ^ 16
  BitVec.ofNat 128 (b + crc16 (bytesOf 14 b) * 2 ^ 112)

/-- Core 0's chiplet in a thermal state; job 0 held by its heat. -/
def hot (clamped off : Bool) : State :=
  { (jobbed (fun j => { j with heat := [0] }) base).modChip 0 (fun c => { c with clamped := clamped, off := off }) with
    arg := .chip 0 }

/-- A temperature was read of it, hot and cool since a time, at panel time `now`. -/
def warm (clamped off : Bool) (temp : Int) (since now : Nat) : State :=
  { (hot clamped off).modChip 0 (fun c => { c with temp := some temp, hotSince := some since, coolSince := some since }) with
    ptime := now }

theorem test_meets_SupplyAndHeatAreWatched_temperatures :
    (((warm false false 105 0 0).chip 0).temp = some 105 ∧ ((base.power.tcrit.toNat : Int) ≤ 105) ∧
     (104 : Int) < (base.power.tcrit.toNat : Int) ∧ (base.chip 0).temp = none) ∧
    (((warm true false 110 1 0).chip 0).clamped = true ∧ (base.power.tcrit.toNat : Int) + 5 ≤ 110 ∧
     (109 : Int) < (base.power.tcrit.toNat : Int) + 5) ∧
    (((warm true false 105 7 100000007).chip 0).hotSince = some 7 ∧ 7 + 100000000 ≤ (warm true false 105 7 100000007).ptime ∧
     (warm true false 105 7 100000006).ptime < 7 + 100000000) ∧
    (((warm true false 99 7 10000007).chip 0).coolSince = some 7 ∧ 7 + 10000000 ≤ (warm true false 99 7 10000007).ptime ∧
     (warm true false 99 7 10000006).ptime < 7 + 10000000) ∧
    (((warm false false 120 0 0).chip 0).off = false ∧ (base.power.tshut.toNat : Int) ≤ 120 ∧
     (119 : Int) < (base.power.tshut.toNat : Int)) ∧
    (((warm false true 84 0 0).chip 0).off = true ∧ (84 : Int) < (base.power.trestart.toNat : Int) ∧
     (base.power.trestart.toNat : Int) ≤ 85) := by decide +kernel

theorem test_meets_SupplyAndHeatAreWatched :
    Untraced base ∧
    (frameSync (goodFrame 1) = 0x7E51 ∧ frameCrc (goodFrame 1) = crc16 (bytesOf 14 ((goodFrame 1).toNat % 2 ^ 112)) ∧
     base.power.accepted = false ∧ 1 ≤ (frameSeq (goodFrame 0x7FFF) - base.power.lastseq).toNat ∧
     (frameSeq (goodFrame 0x7FFF) - base.power.lastseq).toNat ≤ 32767 ∧ 32767 < (frameSeq (goodFrame 0x8000)).toNat ∧
     frameStatus (goodFrame 1) < 4 ∧ base.power.fnote.getLsbD 8 = false) ∧
    (ascending [(0, 0), (0, 0)] = false ∧ (0x104 : BitVec 9).getLsbD 8 = true) ∧
    (base.power.lost = false ∧ base.ptime < base.power.lastAt + 2000000 ∧
     base.power.lastAt + 2000000 ≤ (shedding 2000000).ptime) ∧
    ((base.sense 0).riseSince = none ∧ 0 + 1000000000 ≤ 1000000000) ∧
    ((base.zone 0).failed = 0 ∧ (base.zone 0).tripped = false ∧ ((base.modZone 0 (fun z => { z with failed := 1 })).zone 0).failed ≠ 0) ∧
    (((hot true false).chip 0).clamped = true ∧ ((hot false true).chip 0).off = true ∧ (base.chip 0).clamped = false ∧
     (base.chip 0).off = false ∧ ((hot true false).job? 0).map (fun j => (j.heat, j.shed)) = some ([0], false)) := by
  refine ⟨by unfold Untraced; decide +kernel, ?_, ?_, ?_, ?_, ?_, ?_⟩ <;> decide +kernel

/-- Work queue 5 of partition 0, which root 0 serves, enabled or not, with a record submitted whose SEQCHK is 1. -/
def queueing (on : Bool) : State :=
  let w := { WorkQueue.reset with en := true, enabled := on, submit := if on then 1 else 0 }
  { base with queues := [(5, w)], mem := Memory.set base.mem (hostBase + 5) 1, partlink := base.partlink.set 0 1 }

theorem test_meets_JobsAreReadLaunchedAndCompleted :
    (((queueing true).wq 5).enabled = true ∧ ((queueing false).wq 5).enabled = false ∧ (base.vf 0).tdisp ≠ .run) ∧
    (((queueing true).wq 5).en = true ∧ ((queueing true).wq 5).part = 0 ∧ (base.wq 5).en = false) ∧
    (let w := (queueing true).wq 5
     w.consumed.toNat ≤ (16 : Dword).toNat ∧ (16 : Dword).toNat ≤ w.consumed.toNat + w.size ∧
     w.consumed.toNat + w.size < (17 : Dword).toNat ∧ (base.vf 0).launches = true ∧
     { Vf.reset with tdisp := .locked }.launches = false) ∧
    (let s := queueing true
     (s.readsOf ((s.rootOf 0).getD 0)).contains 5 = true ∧
     (base.readsOf 0).contains 5 = false ∧ (s.reading.get (Fin.ofNat 2 ((s.rootOf 0).getD 0))).length ≤ 4 ∧
     fieldOf (BitVec.ofNat 512 (s.peek (hostBase + (s.wq 5).wqbase.toNat + 64 * (0 % (s.wq 5).size)) 64) : BitVec 512) 47 40 =
       1 % 256) ∧
    (let s := { queueing true with mem := [] }
     (s.readsOf ((s.rootOf 0).getD 0)).contains 5 = true ∧
     fieldOf (BitVec.ofNat 512 (s.peek (hostBase + (s.wq 5).wqbase.toNat + 64 * (0 % (s.wq 5).size)) 64) : BitVec 512) 47 40 ≠
       1 % 256) ∧
    (let s := (queueing true).modWq 5 (fun w => { w with cpos := 1 })
     (s.wq 5).enabled = true ∧ (s.wq 5).cpos ≠ 0) := by decide +kernel

/-- An image of 168 bytes: header, placement record, entries; one row and column, slots 0 and 15. -/
def imageBytes : List Byte :=
  let rest := [0, 0, 0, 0, 0, 0, 0, 0] ++ bytesOf 4 0 ++ bytesOf 4 96 ++ bytesOf 4 64 ++ List.replicate 12 0 ++ bytesOf 4 168 ++
    List.replicate 16 0 ++ List.replicate 22 0 ++ bytesOf 2 1 ++ bytesOf 2 1 ++ bytesOf 2 0x8001 ++ List.replicate 4 0 ++
    List.replicate 72 0
  let bs := bytesOf 2 0x514D ++ bytesOf 2 1 ++ [0, 0, 0, 0] ++ [0, 0, 0, 0] ++ rest
  bs.take 8 ++ bytesOf 4 (crc32 bs) ++ bs.drop 12

/-- Job 0 waits, since time 0, with that image at 2^48 + 0x2000, on a panel whose slots are free or not. -/
def waitingJob (free : Bool) (m : List (Nat × Byte)) : State :=
  let s := jobbed (fun j =>
    { j with phase := .waiting (some 0), record := BitVec.ofNat 512 (0x1000000002000 * 2 ^ 384) }) mapped
  let s1 := if free then s.setSlot 0 0 Slot.reset else s
  { s1 with mem := m.foldl (fun a b => Memory.set a b.1 b.2) s1.mem, arg := .job 0, ptime := 10000000 }

/-- The image's bytes at their physical addresses. -/
def imageCells : List (Nat × Byte) := imageBytes.zipIdx.map (fun x => (0x2000 + x.2, x.1))

/-- What the dispatcher finds for the job. -/
def placed (s : State) : Option Placing :=
  match s.job? 0 with
  | none => none
  | some job =>
    match s.jobImage job with
    | some im => if im.groups.length + 1 ≤ (s.freeGroups job.part).length then some (s.placing 0 job im) else none
    | none => none

theorem test_meets_JobsAreReadLaunchedAndCompleted_launch :
    placed (waitingJob true imageCells) = some (.start 0 0) ∧ (waitingJob true imageCells).nextLaunch = some 0 := by
  decide +kernel

theorem test_meets_JobsAreReadLaunchedAndCompleted_context :
    (let s := { jobbed (fun j => { j with phase := .loading }) (waitingJob true imageCells) with arg := .job 0 }
     (s.job? 0).map (fun j => (s.contextIn j, decide (j.prio.toNat < s.power.shedlvl), (s.jobCores j).take 1)) =
       some (true, true, [0]) ∧ Memory.wf s.mem = true) ∧
    (let s := waitingJob true imageCells
     let x := { s with vfs := [(0, { s.vf 0 with areas := [(areaKey 0 0, 0x1000000000000)] })] }
     (x.job? 0).map x.contextIn = some false) := by decide +kernel

theorem test_meets_JobsAreReadLaunchedAndCompleted_others :
    ((waitingJob false imageCells).nextLaunch = none ∧
     ((waitingJob false imageCells).job? 0).map (waitingJob false imageCells).wantsTarget = some true ∧
     { waitingJob false imageCells with ptime := 9999999 }.wantsTarget
       (((waitingJob false imageCells).job? 0).getD (jobOfRecord 0 0 WorkQueue.reset 0)) = false) ∧
    (((waitingJob true []).job? 0).map (waitingJob true []).jobImage = some none ∧ (waitingJob true []).nextLaunch = some 0) ∧
    placed { waitingJob true imageCells with layout := { (waitingJob true imageCells).layout with parts := [] } } = some .mismatch ∧
    ((base.job? 0).map (fun j => (j.phase, base.allHalted 0 j)) = some (.running, false)) ∧
    (let s := jobbed (fun j => { j with slotMask := 1, phase := .running }) (withSlot (fun sl => { sl with run := .halted }))
     (s.job? 0).map (fun j => s.allHalted 0 j) = some true ∧ s.allStopped 0 = true) ∧
    (base.allStopped 0 = false ∧ ((jobbed (fun j => { j with phase := .ending 5 0 }) base).job? 0).map Job.phase =
      some (.ending 5 0)) := by decide +kernel

/-- An interface in a state. -/
def facing (t : Tdisp) : State :=
  { base with vfs := [(0, { Vf.reset with tdisp := t, fqcfg := 1 })], partlink := base.partlink.set 0 1, arg := .vf 0 }

/-- A fault post of 16 bytes. -/
def post : Msg := { msg8 with dest := 0xF200, cls := 0, len := 16 }

theorem test_meets_HostRequestsArePerformed :
    Memory.wf base.mem = true ∧ Untraced base ∧
    (∀ t, t ∈ [Tdisp.unlocked, .locked, .run, .error] → ((facing t).vf 0).tdisp = t) ∧
    ((base.job? 0).map (fun j => (j.part, j.phase)) = some (0, .running) ∧ ((queueing true).wq 5).part = 0 ∧
     base.inPartShare 0 (own 0x1FFFFF) = true ∧ ∀ e, e ∈ mapped.frames → e.1 < 2 ^ 20) ∧
    ((1 : Dword) &&& base.partlink.get (Fin.ofNat 2 1) = 0 ∧ (2 : Dword) &&& (3 : Dword) ≠ 0 ∧ base.jobResident 1 = false ∧
     (base.vf 1).tdisp ≠ .run) ∧
    ((base.vf 0).waiting = [] ∧ (2 : Dword).getLsbD 0 = false ∧ (1 : Dword).getLsbD 0 = true) ∧
    (∀ t, t ∈ [Tdisp.unlocked, .locked, .run, .error] → (facing t).linked 0 = true ∧ base.linked 0 = false) ∧
    (msg8.cls ≠ 0 ∧ post.cls = 0 ∧ post.len = 16 ∧ post.kind = 0 ∧ ({ post with kind := 2 } : Msg).kind ≠ 0 ∧ (base.core 0xF200).refusing.contains (0, 1) = false ∧
     ((facing .run).vf 0).fqcfg.getLsbD 0 = true ∧
     (((facing .run).vf 0).fqpos - ((facing .run).vf 0).fqhead).toNat < 2 ^ (4 + fieldOf ((facing .run).vf 0).fqcfg 4 1) ∧
     (base.vf 0).fqcfg.getLsbD 0 = false) ∧
    (let old := mapped.groupEntry 0
     old &&& 0x7F ≠ (0 : Dword) &&& 0x7F ∧ old &&& 0x7F = (0x40 : Dword) &&& 0x7F) ∧
    ((switching []).cores.any (fun e => e.2.handovers.any (fun h => h.cmd.part == 0)) = false ∧
     (exchanging true [] [] false).cores.any (fun e => e.2.handovers.any (fun h => h.cmd.part == 0)) = true ∧
     (exchanging true [] [] false).linked 0 = true) := by
  refine ⟨?_, by unfold Untraced; decide +kernel, ?_, ?_, ?_, ?_, ?_, ?_, ?_, ?_⟩ <;> decide +kernel

/-- A host word at 2^48, of a page with the attributes asked for. -/
def shared : State :=
  let e : PlbEntry := { part := some 0, base := 2 ^ 48, size := 4096, info := { pageOf (.hbm 0) with sa := true } }
  mapped.modCore 0xF200 (fun c => { c with plb := [e] })

theorem test_meets_HostRequestsArePerformed_memory :
    (base.supPhys 0 (fun i => i.rdS) (2 ^ 48 + 63) = none ∧ base.linked 0 = false ∧ mapped.linked 0 = true ∧
     mapped.supPhys 0 (fun i => i.wrS && !i.snap) (2 ^ 48 + 63) = some 63 ∧
     (2 ^ 48 + 63) % 64 + 1 ≤ 64) ∧ Sound mapped 63 1 ∧
    (mapped.supPhys 0 (fun i => mapped.linked 0 && i.sa && i.rdS && i.wrS && !i.snap) (2 ^ 48 + 8) = none ∧
     shared.supPhys 0 (fun i => shared.linked 0 && i.sa && i.rdS && i.wrS && !i.snap) (2 ^ 48 + 8) = some 8 ∧ shared.badIn 8 8 = none ∧
     (2 ^ 48 + 8) % 8 = 0) ∧ Sound shared 8 8 := by
  refine ⟨by decide +kernel, by unfold Sound; decide +kernel, by decide +kernel, by unfold Sound; decide +kernel⟩

/-! ### States that meet the statements' hypotheses: layouts, firmware, optical ports and the step -/

/-- A commit under way, or not. -/
def committing (busy flipped : Bool) : State :=
  { base with commit := { base.commit with busy := busy, flipped := flipped }, arg := .val 0x100000001 }

/-- A journal with one record, committed; the banks empty or not. -/
def journalled (blank prepared : Bool) (seq : Nat) : State :=
  { base with layout := { base.layout with blank := blank },
              journal := [{ prepared := prepared, seq := seq, layout := some Layout.reset, crc := 0, committed := true }] }

/-- A layout commit at time 0, its shadow the layout of another state. -/
def flipping (other : State) : State :=
  { base with shadow := other.layout, commit := { base.commit with busy := true, flipped := false, tickAt := 0 }, arg := .none }

/-- The partition that owns a class of core 0 by a state's layout. -/
def classHolder (s : State) (k : Nat) : Option Nat :=
  (s.layout.parts.map Prod.fst).find? (fun p => s.ownsClass (BitVec.ofNat 6 p) 0 k)

theorem test_meets_LayoutsCommitAndFirmwareLoads_tick :
    ((flipping oneBank).commit.busy = true ∧ (flipping oneBank).commit.flipped = false ∧
     (flipping oneBank).commit.tickAt ≤ (flipping oneBank).ptime ∧
     { flipping oneBank with commit := { base.commit with busy := true, tickAt := 512 }, ptime := 511 }.ptime < 512) ∧
    (isLocal (localBase + 2 ^ 17) = true ∧ base.isGrid (localCore (localBase + 2 ^ 17)) = true ∧
     ({ flipping oneBank with layout := (flipping oneBank).shadow } : State).bankOwner 0 1 ≠ (flipping oneBank).bankOwner 0 1 ∧
     ({ flipping oneBank with layout := (flipping oneBank).shadow } : State).bankOwner 0 0 = (flipping oneBank).bankOwner 0 0 ∧
     (flipping oneBank).layout.parts ≠ (flipping oneBank).shadow.parts) ∧
    (let s := flipping oneOfClasses
     (0 ∈ s.cores.map Prod.fst ∧ s.layout.parts ≠ s.shadow.parts) ∧
     classHolder { s with layout := s.shadow } 28 ≠ classHolder s 28) := by decide +kernel

/-- The security core has loaded core 7's image, whose mailbox is frame 1 of stack 0. -/
def mailed : State :=
  let f : FirmwareLoad := { kind := 1, core := 0xF307, version := 0, verified := true, code := [], data := [], entries := [],
                            mailbox := (0, 1), groups := [0] }
  { base with firmware := [(0xF307, f)], arg := .source 0xF307 }

/-- A request of management core 7, refused. -/
def refused : LayoutReq :=
  { chip := 0, recovery := false, source := some 0xF307, mail := 0x2000, counter := 3, reason := 5, stage := 0, lseq := 0 }

/-- An image for management core 7. -/
def firmwareOf (version : Nat) : FirmwareLoad :=
  { kind := 1, core := 0xF307, version := version, verified := true, code := [(0, 3)], data := [], entries := [(15, 0x40)],
    mailbox := (0, 1), groups := [0] }

/-- A retirement record of die 399 with its commit byte still to be written. -/
def unwritten : RetireRec :=
  { commit := 0xFF, crc := 0, time := 0, seq := 4, cause := 0, kind := 1, index := 0, die := 399, prow := 0, pcol := 0 }

theorem test_meets_LayoutsCommitAndFirmwareLoads_flash :
    (let s := { base with retired := [unwritten.sealed], arg := .record 4 }
     s.otherHalf = [] ∧ s.retired.find? (fun x => x.seq == 4) = some unwritten.sealed ∧ unwritten.sealed.commit = 0xFF ∧ unwritten.sealed.crcGood = true ∧
     unwritten.sealed.die.toNat < 400) ∧
    (let s := journalled false true 0
     s.journal[0]? = some { prepared := true, seq := 0, layout := some Layout.reset, crc := 0, committed := true }) ∧
    (let c := copyOf .bytes 0 8 8 false
     (copying [c]).here.copies[0]? = some c ∧ ((copying [c]).slot 0 c.slot).run = .running ∧
     (copying [c]).savedAway 0 c.slot c.part = false) ∧
    (mailed.mailPhys 0xF307 = some 4096 ∧ base.mailPhys 0xF307 = none ∧ mailed.requests = []) := by decide +kernel

/-- A list of equal elements that a predicate keeps stays. -/
theorem kept {α : Type} {p : α → Bool} {r : α} {n : Nat} (h : p r = true) (hn : n ≠ 0) : (List.replicate n r).filter p ≠ [] := by
  rw [List.filter_replicate_of_pos h]
  exact fun e => hn (by simpa using congrArg List.length e)

theorem test_meets_LayoutsCommitAndFirmwareLoads_full :
    (let s := { base with retired := List.replicate 16384 { unwritten.sealed with commit := 0xA5 } }
     16384 ≤ s.retired.length ∧ s.copying = false ∧ s.retired.filter RetireRec.live ≠ []) :=
  ⟨Nat.le_of_eq List.length_replicate.symm, by rfl, kept (by decide +kernel) (by decide)⟩

theorem test_meets_LayoutsCommitAndFirmwareLoads :
    (let s := committing false false
     s.commit.busy = false ∧ fieldOf (0x100000001 : Dword) 63 32 = (s.commit.seq + 1).toNat ∧
     (0x100000001 : Dword).getLsbD 0 ≠ s.commit.active.getLsbD 0) ∧
    ((committing true false).commit.busy = true ∧ (committing true false).commit.flipped = false ∧
     (committing true true).commit.flipped = true ∧ base.commit.busy = false) ∧
    (∀ p, p ∈ [true, false] → ∀ n, n ∈ [0, 1, 2] →
      ((journalled false p n).journal.filter JournalRec.committed).getLast? =
        some { prepared := p, seq := n, layout := some Layout.reset, crc := 0, committed := true }) ∧
    ((journalled false false 0).commit.seq = 0 ∧ (journalled false false 0).layout.blank = false ∧
     ({ journalled false false 0 with journal := [] }).journal.filter JournalRec.committed = [] ∧
     (journalled true true 0).layout.blank = true ∧
     (((journalled true false 0).journal.filter JournalRec.committed).filter (fun r => !r.prepared)).getLast? =
       some { prepared := false, seq := 0, layout := some Layout.reset, crc := 0, committed := true }) ∧
    (base.retired.length < 16384) ∧
    (mailed.kindOf 0xF307 = .management 7 ∧ mailed.requests.any (fun r => r.source == some 0xF307) = false ∧
     (∀ k, k < 8 → base.kindOf 0 ≠ .management k)) ∧
    (({ base with requests := [refused] }).requests.find? (fun r => r.source == some 0xF307 && r.ready) = some refused ∧
     base.requests.find? (fun r => r.source == some 0xF307 && r.ready) = none) ∧
    (base.ptime < base.watchdogs.get 7 + 100000000 ∧ base.watchdogs.get 7 + 100000000 ≤ 100000000 ∧
     lookupNat 0xF307 base.firmware = none) ∧
    (base.acceptsImage (firmwareOf 0) = true ∧ { base with rollback := [(1, 1)] }.acceptsImage (firmwareOf 0) = false) := by
  decide +kernel

theorem test_meets_LayoutsCommitAndFirmwareLoads_memory : Memory.wf base.mem = true ∧ Untraced base ∧
    Sound { base with requests := [refused] } (refused.mail + 8) 1 ∧
    Sound { base with requests := [refused] } (refused.mail + 9) 1 :=
  ⟨by decide +kernel, by unfold Untraced; decide +kernel, by unfold Sound; decide +kernel, by unfold Sound; decide +kernel⟩

/-- A frame of a type with a SEQ, an ACK and a FILL, its CRC good. -/
def frameOf (type seq ack fill : Nat) : BitVec 2048 :=
  let b := seq * 2 ^ 48 + ack * 2 ^ 32 + type * 2 ^ 24 + fill * 2 ^ 16
  BitVec.ofNat 2048 (b + crc32 (bytesOf 252 b) * 2 ^ 2016)

/-- Port 47 up, with `n` frames in its window and `r` replays. -/
def ported (n r : Nat) : State :=
  { base with portStates := [(47, { Port.reset with up := true, window := List.replicate n 0, replays := r })],
              ptime := 4000, arg := .port 47 }

theorem test_meets_OpticalPortsKeepTheirSequence :
    ((base.port 47).up = false ∧ (base.port 47).rising = false ∧ ((ported 2 0).port 47).up = true) ∧
    ((ported 2 0).port 47).replayDue 4000 = true ∧ ((ported 2 0).port 47).replayDue 3999 = false ∧
    ((ported 2 63).port 47).replays < 64 ∧ 64 ≤ ((ported 2 64).port 47).replays ∧
    ({ base with layout := { base.layout with ports := 2 ^ 47 } }.layout.ports.getLsbD 47 = true ∧
     { base with layout := { base.layout with ports := 0 } }.layout.ports.getLsbD 47 = false) ∧
    (let f := frameOf 2 0 0 240
     opticalGood f = true ∧ opticalType f = 2 ∧ opticalFill f ≤ 240 ∧ opticalAck f = ((ported 2 63).port 47).acked ∧
     ((ported 2 63).port 47).window ≠ []) ∧
    ((base.port 47).nakSent = false) ∧
    (∀ e, e ∈ (ported 0 0).portStates → e.2.up = true → e.2.window = []) ∧
    (let d := frameOf 1 0 0 240
     opticalGood d = true ∧ opticalType d = 1 ∧ opticalFill d ≤ 240 ∧ (opticalSeq d - 0).toNat = 0) ∧
    opticalGood (frameOf 1 0 0 240 + 1) = false ∧ 240 < opticalFill (frameOf 1 0 0 241) := by decide +kernel

theorem test_meets_OpticalPortsKeepTheirSequence_acks :
    (let a := frameOf 0 0 2 0
     opticalGood a = true ∧ opticalType a = 0 ∧ (opticalAck a - ((ported 2 0).port 47).acked).toNat = 2 ∧
     2 ≤ ((ported 2 0).port 47).window.length) ∧
    ((ported 1 0).port 47).window.length < (opticalAck (frameOf 0 0 2 0) - ((ported 1 0).port 47).acked).toNat ∧
    0 < (opticalSeq (frameOf 1 0x7FFF 0 0) - ((ported 1 0).port 47).expected).toNat ∧
    (opticalSeq (frameOf 1 0x7FFF 0 0) - ((ported 1 0).port 47).expected).toNat < 2 ^ 15 := by decide +kernel

/-- g9 = 0 or 0x1FFF00; the queue register with an entry. -/
def compacted (y : Dword) : State := (queued 1 1 false).modMe (fun sl => sl.setG 9 y)

theorem test_meets_CompactFormsAndBadFetches :
    ((compacted 0).check (compacted 0).acc .load 8 (0x1FFF00 + (31 : BitVec 5).setWidth 64 * 8) = .ok (.self (own 0x1FFFF8))) ∧
    ((compacted 0).check (compacted 0).acc .load 4 0x200000 = .error (.fault 0x13 0x200000)) ∧
    ((compacted 0).check (compacted 0).acc .write 8 0x1FFFF8 = .ok (.self (own 0x1FFFF8)) ∧
     Memory.wf (compacted 0).mem = true ∧ Untraced (compacted 0) ∧ (compacted 0).me.run = .running ∧
     Sound (compacted 0) (own 0x1FFFF8) 8) ∧
    ((compacted 0).getG 9 = 0 ∧ (compacted 0x1FFF00).getG 9 ≠ 0) ∧
    ((atPc 0x1FFFC).me.pc + ((1 : BitVec 8).signExtend 64 <<< 1) = 0x1FFFE ∧
     (0x1FFFE : Dword).toNat < ((atPc 0x1FFFC).slice 0 (atPc 0x1FFFC).me.who).2 ∧
     ((atPc 0x1FFFC).slice 0 (atPc 0x1FFFC).me.who).2 ≤ (0x20000 : Dword).toNat) ∧
    (let r := (compacted 0).here.q.get 0
     twoSlots.ownsQueue 1 = false ∧ (compacted 0).ownsQueue 0 = true ∧ r.mode ≠ 0 ∧ r.readers = [] ∧ r.writers = [] ∧
     r.entries = 9 :: []) := by
  refine ⟨ok_of (?_), error_of (?_), ⟨ok_of (?_), ?_, by unfold Untraced; decide +kernel, ?_,
    by unfold Sound; decide +kernel⟩, ?_, ?_, ?_⟩ <;> decide +kernel

/-- The one move of a state is the cycle of core 0, whose slot 0 has its turn. -/
def turnOf (s : State) (pc : Dword) : Bool :=
  s.moves == [.cycle 0] && s.chosen 0 == some 0 &&
    (let sl := s.slot 0 0
     sl.bench == none && !sl.capture && sl.pending == [] && sl.pc == pc)

/-- `base` with its slot at a PC. -/
def basePc (pc : Dword) : State := base.modMe (fun sl => { sl with pc := pc })

theorem test_meets_AStepRunsTheDecodedInstruction :
    (base.pick [] = none ∧ base.pick [.cycle 0] = some (.cycle 0)) ∧
    (turnOf (basePc 0) 0 && turnOf (basePc 0x1FFFC) 0x1FFFC && turnOf (basePc 0x1FFFE) 0x1FFFE && turnOf (basePc 0x20000) 0x20000) =
      true ∧
    ((base.slice 0 base.me.who) = (0, 0x20000) ∧ 0x1FFFE + 2 ≤ 0x20000 ∧ 0x20000 < 0x1FFFF + 2 ∧ 0x1FFFC + 4 ≤ 0x20000) ∧
    (base.badIn (istoreAddr 0 0) 2 = none ∧ base.badIn (istoreAddr 0 0 + 2) 2 = none ∧ base.peek (istoreAddr 0 0) 2 % 2 = 1 ∧
     base.peek (istoreAddr 0 0x1FFFE) 2 % 2 = 0) ∧
    ((decode (Memory.bytes base.mem (istoreAddr 0 0) 4)).toOption.isSome = true ∧
     (decode (Memory.bytes base.mem (istoreAddr 0 0x1FFFE) 2)).toOption.isSome = false) := by decide +kernel

/-- The panel after reset with an input, and with a waiting step: the one move is theirs. -/
def oneInput : State := { State.reset with inputs := [{ kind := .scrubberPass, arg := .none }] }
def oneDue : State := { State.reset with due := [{ path := none, ev := { kind := .scrubberPass, arg := .none } }] }

theorem test_meets_AStepRunsTheDecodedInstruction_moves :
    State.reset.moves = [] ∧ oneInput.moves = [.input] ∧ oneDue.moves = [.due 0] ∧
    { State.reset with ptime := 10000 }.moves = [.event { kind := .budgetTick, arg := .none }] := by decide +kernel

theorem test_meets_AStepRunsTheDecodedInstruction_cycle :
    (flipping oneBank).urgent = some { kind := .meshTick, arg := .none } ∧
    ((base.passTime.lockedWith 0).filter (fun m => !base.passTime.dying m) = [0] ∧ base.firing 0 = [] ∧ (base.core 0).outs = [] ∧
     ∀ i, i ∈ List.finRange 16 → base.lateWait 0 i = none ∧ base.rejoinReady 0 i = false ∧ (base.slot 0 i).rejoinAt = none ∧
       (base.slot 0 i).bench = none) := by
  refine ⟨by decide +kernel, by decide +kernel, by decide +kernel, by decide +kernel, each (by decide +kernel)⟩

theorem test_meets_EveryStepKeepsTheCanonicalForm :
    Memory.wf base.mem = true ∧ risingFrom none base.full = true ∧ risingFrom none base.scopes = true ∧ base.scopes = [] := by
  decide +kernel

/-- A run from reset of one step is safe: with no input the panel lets time pass (log 12). -/
theorem test_reset_lets_time_pass : State.reset.pick State.reset.moves = none := by decide +kernel

/-! ### Ill-formed instructions: one for each check of WellFormed -/

/-- Every one of them is refused. -/
def noneWf (l : List Instr) : Bool := l.all fun i => !i.wf

theorem test_illformed_scalar_and_control : noneWf
    [.bfx 1 2 1 63, .bfi 1 2 63 1, .loop 1 1, .loopi 1 5, .bench 0, .benchF 0, .crr 1 0x00A, .crw 1 1 0x11C, .phint 5, .phint 30,
     .compactForm (.cMov 0 0)] = true := by
  decide +kernel

theorem test_illformed_memory_and_messages : noneWf
    [.ldx 1 2 3 3 1 0, .vgth 1 2 3 0 1 0, .vsct 1 2 3 0 0 0, .ldaq 1 2 5 0 0, .strl 1 2 5 0 0, .fence 5, .fenceAcq 5, .fenceRel 7,
     .pref 3 1 0, .amoAdd 1 2 3 0 0 5, .amoAnd 1 2 3 0 0 5, .amoOr 1 2 3 0 0 5, .amoXor 1 2 3 0 0 5, .amoMinS 1 2 3 0 0 5,
     .amoMinN 1 2 3 0 0 5, .amoMaxS 1 2 3 0 0 5, .amoMaxN 1 2 3 0 0 5, .amoSwap 1 2 3 0 0 5, .amoCas 1 2 3 0 0 5,
     .amoFaddF32 1 2 3 0 5, .amoFaddBf16x2 1 2 3 0 5, .amoFmaxF32 1 2 3 0 5, .redAdd 1 2 0 0 5, .redAnd 1 2 0 0 5,
     .redOr 1 2 0 0 5, .redXor 1 2 0 0 5, .redMinS 1 2 0 0 5, .redMinN 1 2 0 0 5, .redMaxS 1 2 0 0 5, .redMaxN 1 2 0 0 5,
     .redFaddF32 1 2 0 5, .redFaddBf16x2 1 2 0 5, .redFmaxF32 1 2 0 5, .send 30 1 0 2, .cpy 1 2 3 4 0 0, .cpys 1 2 3 4 0,
     .cpy2d 1 4 0 0, .coll 1 5 0] = true := by
  decide +kernel

theorem test_illformed_vector : noneWf
    [.vadd 1 2 3 0 11 0, .vadd 1 2 3 0 8 1, .vsub 1 2 3 0 12 0, .vsub 1 2 3 0 10 1, .vmul 1 2 3 0 12 0, .vmul 1 2 3 0 9 1,
     .vmulh 1 2 3 0 8, .vmin 1 2 3 0 12, .vmax 1 2 3 0 12, .vabs 1 2 0 12 0, .vabs 1 2 0 8 1, .vneg 1 2 0 12 0, .vneg 1 2 0 8 1,
     .vfma 1 2 3 0 7, .vfms 1 2 3 0 7, .vfnma 1 2 3 0 11, .vdot 1 2 3 0 4, .vdot 1 2 3 0 10, .vand 1 2 3 0 12, .vor 1 2 3 0 12,
     .vxor 1 2 3 0 12, .vnot 1 2 0 12, .vshl 1 2 3 0 8, .vshr 1 2 3 0 8, .vsar 1 2 3 0 8, .vcmp 1 2 3 0 10 7, .vcmp 1 2 3 0 2 6,
     .vcmp 1 2 3 0 12 0, .vsel 1 2 3 0 12, .vmov 1 2 0 12, .vcvt 1 2 7 0 0 10 8, .vcvt 1 2 0 0 0 11 8, .vcvt 1 2 0 0 0 8 20,
     .vperm 1 2 3 0 12, .vshuf 1 2 3 0 12, .vbcst 1 2 12, .vins 1 2 16 4, .vins 1 2 0 12, .vext 1 2 8 6, .vext 1 2 0 12,
     .vli 1 256 3, .vred 1 2 0 2 6, .vred 1 2 0 10 3, .vred 1 2 0 12 0, .vcls 1 2 0 7, .vscale 1 2 3 0 7, .vrcp 1 2 0 7,
     .vrsq 1 2 0 7, .vexp2 1 2 0 7, .vlog2 1 2 0 7, .vtanh 1 2 0 7, .vsigm 1 2 0 7, .vsin 1 2 0 11, .vcos 1 2 0 7] = true := by
  decide +kernel

/-! ### One word of every instruction, its fixed bits and fields placed as its row of the encoding tables says -/

/-- Each word decodes to the instruction beside it. -/
def decodesAll (l : List (Nat × Instr)) : Bool := l.all fun p => decide ((decodeWord p.1).toOption = some p.2)

theorem test_words_of_major_01 : decodesAll
    [(0x003B6483, .add 9 22 29), (0x007B6483, .sub 9 22 29), (0x00BB6483, .and 9 22 29), (0x00FB6483, .or 9 22 29),
     (0x013B6483, .xor 9 22 29), (0x017B6483, .andn 9 22 29), (0x01BB6483, .mul 9 22 29),
     (0x01FB6483, .mulhS 9 22 29), (0x023B6483, .mulhN 9 22 29), (0x027B6483, .divS 9 22 29),
     (0x02BB6483, .divN 9 22 29), (0x02FB6483, .remS 9 22 29), (0x033B6483, .remN 9 22 29),
     (0x037B6483, .minS 9 22 29), (0x03BB6483, .minN 9 22 29), (0x03FB6483, .maxS 9 22 29),
     (0x043B6483, .maxN 9 22 29), (0x047B6483, .seq 9 22 29), (0x04BB6483, .sne 9 22 29),
     (0x04FB6483, .sltS 9 22 29), (0x053B6483, .sltN 9 22 29), (0x057B6483, .shl 9 22 29),
     (0x05BB6483, .shr 9 22 29), (0x05FB6483, .sar 9 22 29), (0x063B6483, .rol 9 22 29),
     (0x067B6483, .addw 9 22 29), (0x06BB6483, .subw 9 22 29), (0x06FB6483, .mulw 9 22 29)] = true := by
  decide +kernel

theorem test_words_of_major_02 : decodesAll
    [(0xC3E16485, .addi 9 22 3134), (0xC3E36485, .andi 9 22 3134), (0xC3E56485, .ori 9 22 3134),
     (0xC3E76485, .xori 9 22 3134), (0xC3E96485, .sltiS 9 22 3134), (0xC3EB6485, .sltiN 9 22 3134),
     (0x02DF6485, .shli 9 22 45), (0x42DF6485, .shri 9 22 45), (0x82DF6485, .sari 9 22 45)] = true := by
  decide +kernel

theorem test_words_of_major_03 : decodesAll
    [(0xA5C3E487, .lih 9 678974)] = true := by
  decide +kernel

theorem test_words_of_major_04 : decodesAll
    [(0xA5C3E489, .lit 9 678974)] = true := by
  decide +kernel

theorem test_words_of_major_05 : decodesAll
    [(0x0001648B, .clz 9 22), (0x0041648B, .ctz 9 22), (0x0081648B, .popc 9 22), (0x00C1648B, .brev 9 22),
     (0x0101648B, .bswap 9 22)] = true := by
  decide +kernel

theorem test_words_of_major_06 : decodesAll
    [(0x02FB648D, .sel 9 22 29 11), (0x4B4B248D, .bfx 9 18 37 22), (0x8B4B248D, .bfi 9 18 37 22),
     (0xC17B648D, .lea 9 22 29 5)] = true := by
  decide +kernel

theorem test_words_of_major_07 : decodesAll
    [(0x007B648F, .slice 9 22 29 1)] = true := by
  decide +kernel

theorem test_words_of_major_08 : decodesAll
    [(0xA5D1DB11, .beq 22 29 2653), (0xA5D3DB11, .bne 22 29 2653), (0xA5D5DB11, .blt 22 29 2653),
     (0xA5D7DB11, .bge 22 29 2653), (0xA5D9DB11, .bltn 22 29 2653), (0xA5DBDB11, .bgen 22 29 2653)] = true := by
  decide +kernel

theorem test_words_of_major_09 : decodesAll
    [(0xB3A5D493, .jal 9 735837)] = true := by
  decide +kernel

theorem test_words_of_major_0A : decodesAll
    [(0xC3E16495, .jalr 9 22 3134)] = true := by
  decide +kernel

theorem test_words_of_major_0B : decodesAll
    [(0x3A5DB017, .loop 22 14941), (0xC96B5D97, .loopi 93 51563), (0x00000117, .lbrk), (0x00002A17, .bench 5),
     (0x00002B17, .benchF 5), (0x00000417, .split), (0x000B4D17, .bxch 9 6 1)] = true := by
  decide +kernel

theorem test_words_of_major_0C : decodesAll
    [(0xC3E16499, .ldS8 9 22 3134), (0xC3E36499, .ldN8 9 22 3134), (0xC3E56499, .ldS16 9 22 3134),
     (0xC3E76499, .ldN16 9 22 3134), (0xC3E96499, .ldS32 9 22 3134), (0xC3EB6499, .ldN32 9 22 3134),
     (0xC3ED6499, .ld64 9 22 3134)] = true := by
  decide +kernel

theorem test_words_of_major_0D : decodesAll
    [(0xC3E16E9B, .st8 29 22 3134), (0xC3E36E9B, .st16 29 22 3134), (0xC3E56E9B, .st32 29 22 3134),
     (0xC3E76E9B, .st64 29 22 3134)] = true := by
  decide +kernel

theorem test_words_of_major_0E : decodesAll
    [(0x51BB649D, .ldx 9 22 29 2 1 5), (0x587B649D, .stx 9 22 29 1 5)] = true := by
  decide +kernel

theorem test_words_of_major_0F : decodesAll
    [(0x2EA5B49F, .vld 9 22 5 1 93), (0x2EADB49F, .vst 9 22 5 1 93), (0x0EB5B49F, .vlds 9 22 5 1 29),
     (0x0EBDB49F, .vsts 9 22 5 1 29)] = true := by
  decide +kernel

theorem test_words_of_major_10 : decodesAll
    [(0x055DB4A1, .vgth 9 22 13 5 2 1), (0x07DDB4A1, .vsct 9 22 13 5 3 1)] = true := by
  decide +kernel

theorem test_words_of_major_11 : decodesAll
    [(0xC3E164A3, .ldf 9 22 3134), (0xC3E364A3, .ldfC 9 22 3134), (0xC3E56EA3, .stf 29 22 3134),
     (0x00076EA3, .feclr 29 22)] = true := by
  decide +kernel

theorem test_words_of_major_12 : decodesAll
    [(0x975764A5, .ldaq 9 22 3 1 605), (0x977764A5, .strl 9 22 3 1 605)] = true := by
  decide +kernel

theorem test_words_of_major_13 : decodesAll
    [(0x00300027, .fence 3), (0x00B00027, .fenceAcq 3), (0x01300027, .fenceRel 3), (0xC3E36127, .pref 2 22 3134),
     (0xC3E56027, .ncinv 22 3134), (0xC3E76027, .cinv 22 3134)] = true := by
  decide +kernel

theorem test_words_of_major_14 : decodesAll
    [(0x6C3B64A9, .amoAdd 9 22 29 1 1 3), (0x6C7B64A9, .amoAnd 9 22 29 1 1 3), (0x6CBB64A9, .amoOr 9 22 29 1 1 3),
     (0x6CFB64A9, .amoXor 9 22 29 1 1 3), (0x6D3B64A9, .amoMinS 9 22 29 1 1 3),
     (0x6D7B64A9, .amoMinN 9 22 29 1 1 3), (0x6DBB64A9, .amoMaxS 9 22 29 1 1 3),
     (0x6DFB64A9, .amoMaxN 9 22 29 1 1 3), (0x6E3B64A9, .amoSwap 9 22 29 1 1 3),
     (0x6E7B64A9, .amoCas 9 22 29 1 1 3), (0x6ABB64A9, .amoFaddF32 9 22 29 1 3),
     (0x6AFB64A9, .amoFaddBf16x2 9 22 29 1 3), (0x6B3B64A9, .amoFmaxF32 9 22 29 1 3)] = true := by
  decide +kernel

theorem test_words_of_major_15 : decodesAll
    [(0x743B602B, .redAdd 22 29 1 1 3), (0x747B602B, .redAnd 22 29 1 1 3), (0x74BB602B, .redOr 22 29 1 1 3),
     (0x74FB602B, .redXor 22 29 1 1 3), (0x753B602B, .redMinS 22 29 1 1 3), (0x757B602B, .redMinN 22 29 1 1 3),
     (0x75BB602B, .redMaxS 22 29 1 1 3), (0x75FB602B, .redMaxN 22 29 1 1 3), (0x72BB602B, .redFaddF32 22 29 1 3),
     (0x72FB602B, .redFaddBf16x2 22 29 1 3), (0x733B602B, .redFmaxF32 22 29 1 3)] = true := by
  decide +kernel

theorem test_words_of_major_16 : decodesAll
    [(0xC3E160AD, .marm 1 22 3134), (0x000364AD, .mwait 9 22), (0x000400AD, .mdisarm 1), (0x0014002D, .mdisarmAll)] = true := by
  decide +kernel

theorem test_words_of_major_17 : decodesAll
    [(0x0540B02F, .bar 11 21), (0x0D40B02F, .bara 11 21), (0x1540002F, .barw 21), (0x1840002F, .gbar 1),
     (0x257B64AF, .cwait 9 22 29 21), (0x2D41602F, .cadd 22 21), (0x3541602F, .cset 22 21), (0x3D4004AF, .crd 9 21)] = true := by
  decide +kernel

theorem test_words_of_major_18 : decodesAll
    [(0x134164B1, .send 9 22 13 2), (0x437B64B1, .sendm 9 22 29 13), (0x837A04B1, .sendl 9 29 13),
     (0xC00164B1, .mrecv 9 22)] = true := by
  decide +kernel

theorem test_words_of_major_19 : decodesAll
    [(0x014004B3, .qget 9 5), (0x09416033, .qput 22 5), (0x114004B3, .vqget 9 5), (0x19406033, .vqput 6 5),
     (0x214004B3, .qstat 9 5)] = true := by
  decide +kernel

theorem test_words_of_major_1A : decodesAll
    [(0x02C16035, .clsw 22 11), (0x0AC16035, .chfree 22 11), (0x100164B5, .chsync 9 22)] = true := by
  decide +kernel

theorem test_words_of_major_1B : decodesAll
    [(0x000164B7, .nlook 9 22), (0x08016037, .ninv 22)] = true := by
  decide +kernel

theorem test_words_of_major_1C : decodesAll
    [(0x80AEB4B9, .vadd 9 6 13 5 2 1), (0x88AEB4B9, .vsub 9 6 13 5 2 1), (0x90AEB4B9, .vmul 9 6 13 5 2 1),
     (0x18AEB4B9, .vmulh 9 6 13 5 2), (0x20AEB4B9, .vmin 9 6 13 5 2), (0x28AEB4B9, .vmax 9 6 13 5 2),
     (0xB0A834B9, .vabs 9 6 5 2 1), (0xB8A834B9, .vneg 9 6 5 2 1)] = true := by
  decide +kernel

theorem test_words_of_major_1D : decodesAll
    [(0x02AEB4BB, .vfma 9 6 13 5 10), (0x0AAEB4BB, .vfms 9 6 13 5 10), (0x12AEB4BB, .vfnma 9 6 13 5 10),
     (0x1A2EB4BB, .vdot 9 6 13 5 8)] = true := by
  decide +kernel

theorem test_words_of_major_1E : decodesAll
    [(0x00AEB4BD, .vand 9 6 13 5 2), (0x08AEB4BD, .vor 9 6 13 5 2), (0x10AEB4BD, .vxor 9 6 13 5 2),
     (0x18A834BD, .vnot 9 6 5 2), (0x20AEB4BD, .vshl 9 6 13 5 2), (0x28AEB4BD, .vshr 9 6 13 5 2),
     (0x30AEB4BD, .vsar 9 6 13 5 2)] = true := by
  decide +kernel

theorem test_words_of_major_1F : decodesAll
    [(0x20AEB2BF, .vcmp 5 6 13 5 2 4)] = true := by
  decide +kernel

theorem test_words_of_major_20 : decodesAll
    [(0x00AEB4C1, .vsel 9 6 13 5 2), (0x08A834C1, .vmov 9 6 5 2)] = true := by
  decide +kernel

theorem test_words_of_major_21 : decodesAll
    [(0x536EB4C3, .vcvt 9 6 5 1 5 13 10)] = true := by
  decide +kernel

theorem test_words_of_major_22 : decodesAll
    [(0x00AEB4C5, .vperm 9 6 13 5 2), (0x08AEB4C5, .vshuf 9 6 13 5 2)] = true := by
  decide +kernel

theorem test_words_of_major_23 : decodesAll
    [(0x0100D4C7, .vbcst 9 13 2), (0x412AD4C7, .vins 9 13 21 2), (0x812A66C7, .vext 13 6 21 2),
     (0xD5C3E4C7, .vli 9 23614 1)] = true := by
  decide +kernel

theorem test_words_of_major_24 : decodesAll
    [(0x20A834C9, .vred 9 6 5 2 4)] = true := by
  decide +kernel

theorem test_words_of_major_25 : decodesAll
    [(0x0002B0CB, .kand 1 6 5), (0x0802B0CB, .kor 1 6 5), (0x1002B0CB, .kxor 1 6 5), (0x180030CB, .knot 1 6),
     (0x200030CB, .kmovKK 1 6), (0x280306CB, .kpop 13 6), (0x300068CB, .kmovKG 1 13), (0x380306CB, .kmovGK 13 6)] = true := by
  decide +kernel

theorem test_words_of_major_26 : decodesAll
    [(0x02A834CD, .vcls 9 6 5 10), (0x0AAEB4CD, .vscale 9 6 13 5 10)] = true := by
  decide +kernel

theorem test_words_of_major_28 : decodesAll
    [(0x02A834D1, .vrcp 9 6 5 10), (0x0AA834D1, .vrsq 9 6 5 10), (0x12A834D1, .vexp2 9 6 5 10),
     (0x1AA834D1, .vlog2 9 6 5 10), (0x22A834D1, .vtanh 9 6 5 10), (0x2AA834D1, .vsigm 9 6 5 10),
     (0x32A834D1, .vsin 9 6 5 10), (0x3AA834D1, .vcos 9 6 5 10)] = true := by
  decide +kernel

theorem test_words_of_major_2A : decodesAll
    [(0x00416055, .mcmd 22 1), (0x08400055, .mresume 1), (0x10400055, .mabort 1), (0x184004D5, .mstat 9 1),
     (0x207B6055, .mmap 22 29 1)] = true := by
  decide +kernel

theorem test_words_of_major_2B : decodesAll
    [(0x001A24D7, .mmov 9 2 13), (0x003A24D7, .mmovw 9 2 13)] = true := by
  decide +kernel

theorem test_words_of_major_2C : decodesAll
    [(0xC57B64D9, .cpy 9 22 29 21 1 1), (0x8D7B62D9, .cpys 5 22 29 21 1), (0xD5416059, .cpy2d 22 21 1 1),
     (0x1B016059, .coll 22 4 1)] = true := by
  decide +kernel

theorem test_words_of_major_2D : decodesAll
    [(0x0341605B, .ecfg 22 13), (0x0B40005B, .etrig 13), (0x103B605B, .wpush 22 29), (0x183A04DB, .wpop 9 29),
     (0x204004DB, .wquiet 9 1), (0x280164DB, .wlvl 9 22)] = true := by
  decide +kernel

theorem test_words_of_major_2E : decodesAll
    [(0xC3E0005D, .trap 3134), (0x0002005D, .eret), (0x0004005D, .upret), (0x10A604DD, .crr 9 266),
     (0x10A964DD, .crw 9 22 266), (0x000A005D, .yield), (0x000C005D, .halt)] = true := by
  decide +kernel

theorem test_words_of_major_2F : decodesAll
    [(0x003B605F, .slotgo 22 29), (0x0801605F, .slothalt 22), (0x103B605F, .istw 22 29), (0x1801605F, .plbinv 22),
     (0x2001605F, .csave 22), (0x2801605F, .crest 22)] = true := by
  decide +kernel

theorem test_words_of_major_30 : decodesAll
    [(0x00000061, .rbar), (0x083B6061, .miradd 22 29), (0x103B6061, .mirdel 22 29), (0x180004E1, .rstat 9)] = true := by
  decide +kernel

theorem test_words_of_major_31 : decodesAll
    [(0x00C00063, .phint 3), (0x08016063, .pcapw 22), (0x10016063, .shedw 22)] = true := by
  decide +kernel

/-! ### The example words of the spec's sections, and the listing of R460 -/

theorem test_spec_words_scalar_and_control : decodesAll
    [(0x0218B503, .mulhN 10 11 12), (0x000E430F, .slice 6 4 7 0), (0xFFD09485, .addi 9 9 0xFFD), (0x00000005, .addi 0 0 0),
     (0x00001015, .jalr 0 1 0), (0xFFC20491, .bne 9 0 0xFFC), (0x00080093, .jal 1 0x80), (0x00030697, .loopi 6 3),
     (0x00080497, .loopi 4 8), (0x00024817, .loop 9 2), (0x00000117, .lbrk), (0x00000417, .split), (0x00001A17, .bench 3),
     (0x00001B17, .benchF 3), (0x00011D17, .bxch 3 2 0)] = true := by
  decide +kernel

theorem test_spec_words_loads_and_stores : decodesAll
    [(0x010C3419, .ld64 8 3 16), (0xFFC4A49B, .st32 9 10 0xFFC), (0x0406049B, .st64 9 0 64), (0x2194941D, .ldx 8 9 10 2 1 2),
     (0x0142189F, .vld 1 3 2 2 2), (0x0D922A21, .vgth 4 5 2 1 3 3), (0x04023623, .ldfC 12 3 64), (0x000684A3, .feclr 9 8),
     (0x100290A7, .pref 1 9 256), (0x00069027, .cinv 9 0)] = true := by
  decide +kernel

theorem test_spec_words_ordering_and_atomics : decodesAll
    [(0x005633A5, .ldaq 7 3 3 1 1), (0xFFC49425, .ldaq 8 9 2 0 0x3FF), (0x003684A5, .strl 9 8 3 1 0),
     (0x0128B525, .strl 10 11 4 0 4), (0x00100027, .fence 1), (0x00300027, .fence 3), (0x00400027, .fence 4),
     (0x01100027, .fenceRel 1), (0x01300027, .fenceRel 3), (0x00B00027, .fenceAcq 3), (0x6C16A4A9, .amoAdd 9 10 11 1 1 3),
     (0x6656A4A9, .amoCas 9 10 11 1 0 3), (0x529AC429, .amoFaddF32 8 12 13 2 2), (0x7412802B, .redAdd 8 9 1 1 3)] = true := by
  decide +kernel

theorem test_spec_words_waits_and_messages : decodesAll
    [(0x040030AD, .marm 1 3 64), (0x0002942D, .mwait 8 9), (0x0000F02F, .bar 15 0), (0x0000302F, .bar 3 0),
     (0x2094942F, .cwait 8 9 10 2), (0x2940902F, .cadd 9 5), (0x3940042F, .crd 8 5), (0x00009437, .nlook 8 9),
     (0x08009037, .ninv 9), (0x08C09531, .send 10 9 3 1), (0x415A9631, .sendm 12 9 13 5), (0x801A0631, .sendl 12 13 0),
     (0xC0009431, .mrecv 8 9), (0x01009035, .clsw 9 4), (0x00800433, .qget 8 2), (0x08409033, .qput 9 1),
     (0x104001B3, .vqget 3 1), (0x18403033, .vqput 3 1), (0x20800433, .qstat 8 2), (0x0900A035, .chfree 10 4),
     (0x10009435, .chsync 8 9)] = true := by
  decide +kernel

theorem test_spec_words_vector : decodesAll
    [(0x028990B9, .vadd 1 2 3 1 10 0), (0x80032A39, .vadd 4 5 6 0 0 1), (0x0281083B, .vfma 0 1 2 0 10),
     (0x1A41083B, .vdot 0 1 2 0 9), (0x210190BD, .vshl 1 2 3 0 4), (0x1281893F, .vcmp 2 1 3 0 10 2),
     (0x02A190C1, .vsel 1 2 3 4 10), (0x53440943, .vcvt 2 1 0 1 0 13 10), (0x54428943, .vcvt 2 1 5 0 0 17 10),
     (0x005BB2C5, .vperm 5 6 7 3 1), (0x02880A49, .vred 4 1 1 10 0), (0x028009CD, .vcls 3 1 0 10), (0x050090C7, .vbcst 1 9 10),
     (0x820A3447, .vext 8 3 5 4), (0x2801044B, .kpop 8 2), (0x300048CB, .kmovKG 1 9), (0x028810D1, .vrcp 1 2 1 10),
     (0x124021D1, .vexp2 3 4 0 9), (0x321032D1, .vsin 5 6 2 8)] = true := by
  decide +kernel

theorem test_spec_words_engines : decodesAll
    [(0x00000055, .mcmd 0 0), (0x00409055, .mcmd 9 1), (0x08000055, .mresume 0), (0x18000455, .mstat 8 0),
     (0x20149055, .mmap 9 10 0), (0x000451D7, .mmov 3 5 2), (0x002451D7, .mmovw 3 5 2), (0x00149459, .cpy 8 9 10 0 0 0),
     (0xC0DCD659, .cpy 12 13 14 3 1 1), (0x08149159, .cpys 2 9 10 0 0), (0x89549159, .cpys 2 9 10 5 1),
     (0x10009059, .cpy2d 9 0 0 0), (0xD0C09059, .cpy2d 9 3 1 1), (0x00C0905B, .ecfg 9 3), (0x1A009059, .coll 9 0 1),
     (0x1CC0C059, .coll 12 3 2), (0x1014905B, .wpush 9 10), (0x1814045B, .wpop 8 10), (0x2040045B, .wquiet 8 1),
     (0x2800945B, .wlvl 8 9)] = true := by
  decide +kernel

theorem test_spec_words_system : decodesAll
    [(0x0096045D, .crr 8 9), (0x0018905D, .crw 0 9 1), (0x0248845D, .crw 8 8 0x24), (0x000C005D, .halt),
     (0x0014905F, .slotgo 9 10), (0x0800905F, .slothalt 9), (0x1014905F, .istw 9 10), (0x1800905F, .plbinv 9),
     (0x2000905F, .csave 9), (0x2800905F, .crest 9), (0x08149061, .miradd 9 10), (0x10149061, .mirdel 9 10),
     (0x18000461, .rstat 8), (0x00800063, .phint 2), (0x07C00063, .phint 31), (0x08009063, .pcapw 9),
     (0x1000A063, .shedw 10)] = true := by
  decide +kernel

theorem test_listing_of_listrank : decodesAll
    [(0x0022590F, .slice 18 5 17 0), (0x030F4A05, .shli 20 20 48), (0x00080487, .lih 9 0x80), (0x00134A83, .add 21 20 9),
     (0xFFF00C05, .addi 24 0 0xFFF), (0x420F8C05, .shri 24 24 32), (0x0000AB87, .lih 23 10), (0xE3717B85, .addi 23 23 0xE37),
     (0x000E8817, .loop 17 14), (0x4780840D, .bfx 8 8 0 15), (0x00F28403, .or 8 8 25)] = true := by
  decide +kernel

/-- The halfwords of R59's table, the first five from the example of R71. -/
theorem test_compact_forms :
    ([(0x0028, .cLi 1 0), (0x0050, .cLd64 2 0 0), (0x0222, .cAdd 1 2), (0x0806, .cAddi 0 8), (0xFD26, .cAddi 1 0xFD),
      (0x0220, .cMov 1 2), (0x0224, .cSub 1 2), (0x022A, .cAnd 1 2), (0x2F2C, .cShli 1 47), (0x2F2E, .cShri 1 47),
      (0xAA32, .cSt64 1 2 21), (0xAA34, .cLd32 1 2 21), (0xAA36, .cSt32 1 2 21), (0xFD38, .cBez 1 0xFD),
      (0xFD3A, .cBnz 1 0xFD), (0xFFBC, .cJ 0x7FD), (0x053E, .cQget 1 5)] : List (Nat × Compact)).all
      (fun p => decide ((decodeCompact p.1).toOption = some (.compactForm p.2))) = true := by
  decide +kernel

/-- What the decoder refuses: R51's two illegal encodings, a reserved major, an unassigned minor, a nonzero zero field
(R53), a field outside its limits (R57), a nonzero zero bit of a compact form (R59), and bytes cut short. -/
theorem test_refused_encodings :
    (decodeCompact 0x0000).toOption = none ∧ (decodeCompact 0x0820).toOption = none ∧ (decodeCompact 0x4F2C).toOption = none ∧
    (decodeCompact 0x0D3E).toOption = none ∧
    ([0xFFFFFFFF, 0x00000001, 0x07000003, 0x0800000D, 0x5F82000D, 0x000C0011, 0x00020015, 0x00000197, 0x00500027, 0x0081083B,
      0x00A6045D, 0x01400063] : List Nat).all (fun w => (decodeWord w).toOption.isNone) = true ∧
    (decode []).toOption = none ∧ (decode [0x28]).toOption = none ∧ (decode [0x05, 0x00, 0x00]).toOption = none := by
  decide +kernel

/-! ### Single steps: the spec's worked examples, and results worked out by hand from its rules -/

/-- What an instruction leaves in a general register. -/
def gives (i : Instr) (s : State) (r : BitVec 5) : Option Dword := after (exec i s) fun t => t.getG r

/-- The first lanes of a vector register, with the flags gained. -/
def lanesAfter (i : Instr) (s : State) (w n : Nat) (r : BitVec 4) : Option (List Nat × BitVec 5) :=
  after (exec i s) fun t => ((List.range n).map fun j => lane w j (t.getV r), t.me.fp.fflags)

/-- The vector registers v1, v2 and v0 with the given lanes, and the mask k1. -/
def vecs (w : Nat) (x y z : List Nat) (k : Dword) : State :=
  withSlot fun sl => (((sl.setV 1 (ofLanes w x)).setV 2 (ofLanes w y)).setV 0 (ofLanes w z)).setK 1 k

/-- R96: products of −1 by −1. -/
theorem test_mul :
    let s := regs (-1) (-1) 0
    gives (.mul 4 1 2) s 4 = some 1 ∧ gives (.mulhN 4 1 2) s 4 = some 0xFFFFFFFFFFFFFFFE ∧
    gives (.mulhS 4 1 2) s 4 = some 0 := by decide +kernel

/-- R97: an amount of 64 or more, and a rotation by −1. -/
theorem test_shift_amounts :
    let s := regs (-5) 64 (-1)
    gives (.shl 4 1 2) s 4 = some 0 ∧ gives (.shr 4 1 2) s 4 = some 0 ∧ gives (.sar 4 1 2) s 4 = some (-1) ∧
    gives (.rol 4 1 2) s 4 = some (-5) ∧ gives (.rol 4 1 3) s 4 = some 0xFFFFFFFFFFFFFFFD := by decide +kernel

/-- R98's table. -/
theorem test_division :
    gives (.divS 4 1 2) (regs (-7) 2 0) 4 = some (-3) ∧ gives (.remS 4 1 2) (regs (-7) 2 0) 4 = some (-1) ∧
    gives (.divN 4 1 2) (regs (-7) 2 0) 4 = some 0x7FFFFFFFFFFFFFFC ∧ gives (.divN 4 1 2) (regs 5 0 0) 4 = some (-1) ∧
    gives (.divS 4 1 2) (regs 5 0 0) 4 = some (-1) ∧ gives (.remS 4 1 2) (regs 5 0 0) 4 = some 5 ∧
    gives (.remN 4 1 2) (regs 5 0 0) 4 = some 5 ∧
    gives (.divS 4 1 2) (regs 0x8000000000000000 (-1) 0) 4 = some 0x8000000000000000 ∧
    gives (.remS 4 1 2) (regs 0x8000000000000000 (-1) 0) 4 = some 0 := by decide +kernel

/-- R96: the 32-bit sums keep the sign of bit 31, and a write to g0 is discarded (R17). -/
theorem test_words_and_g0 :
    gives (.addw 4 1 2) (regs 0x7FFFFFFF 1 0) 4 = some 0xFFFFFFFF80000000 ∧
    gives (.subw 4 1 2) (regs 0 1 0) 4 = some (-1) ∧ gives (.add 0 1 2) (regs 1 2 0) 0 = some 0 ∧
    gives (.sltS 4 1 2) (regs (-1) 1 0) 4 = some 1 ∧ gives (.sltN 4 1 2) (regs (-1) 1 0) 4 = some 0 := by decide +kernel

/-- R100: the base of the window of core 30,000, in three steps. -/
theorem test_build_constant :
    gives (.lit 1 0xEA60) (regs 1 0 0) 1 = some 0x10EA60 ∧ gives (.lit 1 0) (regs 0x10EA60 0 0) 1 = some 0x10EA6000000 ∧
    gives (.lih 1 0x80000) base 1 = some 0xFFFFFFFF80000000 := by decide +kernel

/-- R101: counts of zero, and reversals. -/
theorem test_counts :
    gives (.clz 4 1) base 4 = some 64 ∧ gives (.ctz 4 1) base 4 = some 64 ∧ gives (.clz 4 1) (regs 1 0 0) 4 = some 63 ∧
    gives (.popc 4 1) (regs 0xF0F 0 0) 4 = some 8 ∧ gives (.brev 4 1) (regs 2 0 0) 4 = some 0x4000000000000000 ∧
    gives (.bswap 4 1) (regs 0x1122 0 0) 4 = some 0x2211000000000000 := by decide +kernel

/-- R103's examples. -/
theorem test_fields :
    gives (.bfx 4 1 12 7) (regs 0x123456789ABCDEF0 0 0) 4 = some 0xCD ∧
    gives (.bfi 2 1 60 3) (regs 0x123456789ABCDEF0 (-1) 0) 2 = some 0x0FFFFFFFFFFFFFFF ∧
    gives (.lea 4 1 2 6) (regs 0x1000 3 0) 4 = some 0x10C0 ∧ gives (.sel 4 1 2 3) (regs 7 8 0) 4 = some 8 := by decide +kernel

/-- R112: a taken branch of 8 bytes back, and one not taken; R114: the link is the next address. -/
theorem test_branches :
    let s := withSlot fun sl => { sl.setG 1 1 with pc := 0x100 }
    after (exec (.bne 1 0 0xFFC) s) (·.me.pc) = some 0xF8 ∧ after (exec (.beq 1 0 0xFFC) s) (·.me.pc) = some 0x104 ∧
    after (exec (.jal 1 0x80) s) (fun t => (t.me.pc, t.getG 1)) = some (0x200, 0x104) := by decide +kernel

/-- R118: a loop body that ends with two passes left goes back to its first instruction. -/
theorem test_loop_end :
    let s := withSlot fun sl => { sl with
      pc := 0x20, loops := { lcnt0 := 2, lbeg0 := 0x10, lend0 := 0x20, lcnt1 := 0, lbeg1 := 0, lend1 := 0 } }
    after (exec (.addi 1 1 1) s) (fun t => (t.me.pc, t.me.loops.lcnt0)) = some (0x10, 1) := by decide +kernel

/-- R149: stores and loads, little-endian, with either extension. -/
theorem test_store_then_load :
    (after (exec (.st32 1 2 0) (regs 0xFFFFFFFF80000001 0x4000 0)) fun t =>
      (gives (.ldN32 4 2 0) t 4, gives (.ldS32 4 2 0) t 4, gives (.ldN8 4 2 3) t 4, gives (.ld64 4 2 0) t 4)) =
    some (some 0x80000001, some 0xFFFFFFFF80000001, some 0x80, some 0x80000001) := by decide +kernel

/-- R189's example: two BF16 additions, one a tie, one a cancellation; R188: the old value is returned. -/
theorem test_amo_bf16 :
    amoResult .faddBf16x2 4 0x3F804000 0x3B80C000 0 = some 0x3F800000 ∧ amoResult .swap 8 1 2 0 = some 2 ∧
    amoResult .cas 8 1 2 1 = some 2 ∧ amoResult .cas 8 1 2 3 = none ∧ amoResult .add 4 0xFFFFFFFF 1 0 = some 0 ∧
    amoResult .minS 4 0xFFFFFFFF 1 0 = some 0xFFFFFFFF := by decide +kernel

/-- Counter 1 at a value, with a threshold in g1. -/
def countAt (n : Word) (t : Dword) : State := (regs t 0 3).setCounter 0 1 n

/-- R207's examples: 5 against 0x8000_0006 completes at once; 0xFFFF_FFFE against 2 does not, and a timeout of 0 cycles tests
once and marks bit 32; R206: CADD counts. -/
theorem test_counters :
    gives (.cwait 4 1 2 1) (countAt 5 0x80000006) 4 = some 5 ∧
    gives (.cwait 4 1 2 1) (countAt 0xFFFFFFFE 2) 4 = some 0x1FFFFFFFE ∧
    (after (exec (.cadd 3 1) (countAt 0xFFFFFFFE 2)) fun t => gives (.crd 4 1) t 4) = some (some 1) := by decide +kernel

/-- R249: 300 by 200 in S16, wrapped, saturated and its high half. -/
theorem test_vmul_s16 :
    let s := vecs 16 [300] [200] [] 0
    lanesAfter (.vmul 3 1 2 0 2 0) s 16 1 3 = some ([0xEA60], 0) ∧ lanesAfter (.vmul 3 1 2 0 2 1) s 16 1 3 = some ([32767], 0) ∧
    lanesAfter (.vmulh 3 1 2 0 2) s 16 1 3 = some ([0], 0) := by decide +kernel

/-- R249: VABS and VNEG of S8 −128, and VNEG of an N8. -/
theorem test_vabs_vneg :
    let s := vecs 8 [0x80] [] [] 0
    lanesAfter (.vabs 3 1 0 0 0) s 8 1 3 = some ([0x80], 0) ∧ lanesAfter (.vabs 3 1 0 0 1) s 8 1 3 = some ([0x7F], 0) ∧
    lanesAfter (.vneg 3 1 0 1 1) s 8 1 3 = some ([0], 0) := by decide +kernel

/-- R251's example: lanes 0 and 2 enabled, the second 0 × ∞. -/
theorem test_vfma :
    lanesAfter (.vfma 0 1 2 1 10) (vecs 32 [0x40400000, 0x71800000, 0x7F800000] [0x3F000000, 0x71800000, 0]
      [0x3F800000, 0x3F800000, 0x3F800000, 7] 5) 32 4 0 = some ([0x40200000, 0x3F800000, 0x7FC00000, 7], flagNV) := by
  decide +kernel

/-- R251: lane 1 enabled overflows. -/
theorem test_vfma_overflow :
    lanesAfter (.vfma 0 1 2 1 10) (vecs 32 [0, 0x71800000] [0, 0x71800000] [0x3F800000, 0x3F800000] 2) 32 2 0 =
      some ([0x3F800000, 0x7F800000], flagOF ||| flagNX) := by decide +kernel

/-- R252: four S8 products a lane. -/
theorem test_vdot_s8 :
    lanesAfter (.vdot 0 1 2 0 0) (vecs 8 [1, 2, 3, 0xFF] [4, 5, 6, 7] [100] 0) 32 2 0 = some ([125, 0], 0) := by decide +kernel

/-- R259's example: the tree gives 1.0 and NX. -/
theorem test_vred_add :
    lanesAfter (.vred 4 1 1 10 0) (vecs 32 [0x4B800000, 0x3F800000, 0x3F800000, 0xCB800000] [] [] 0xF) 32 3 4 =
      some ([0x3F800000, 0, 0], flagNX) := by decide +kernel

/-- R253: an amount of the width or more; R254: unsigned less than. -/
theorem test_vshl_vcmp :
    lanesAfter (.vshl 3 1 2 0 1) (vecs 8 [0x81, 1] [1, 8] [] 0) 8 2 3 = some ([0x02, 0], 0) ∧
    after (exec (.vcmp 2 1 2 0 1 2) (vecs 8 [0x81, 1] [1, 8] [] 0)) (fun t => t.getK 2) = some 2 := by decide +kernel

/-- The examples of special functions: VRCP of 1.0, 3.0 and −0 in F32, and of 2^−15 in F16. -/
theorem test_vrcp :
    sfuLane .rcp fmtF32 0x3F800000 = (0x3F7F0000, flagNX) ∧ sfuLane .rcp fmtF32 0x40400000 = (0x3EAA4000, flagNX) ∧
    sfuLane .rcp fmtF32 0x80000000 = (0xFF800000, flagDZ) ∧ sfuLane .rcp fmtF16 0x0200 = (0x77F8, flagNX) := by decide +kernel

/-- R260: masks. -/
theorem test_masks :
    let s := withSlot fun sl => (sl.setK 1 0xF0).setK 2 0x3C
    after (exec (.kand 3 1 2) s) (fun t => t.getK 3) = some 0x30 ∧ gives (.kpop 4 1) s 4 = some 4 ∧
    gives (.kmovGK 4 2) s 4 = some 0x3C := by decide +kernel

/-- A thread whose trap handler stands at 0x200 and whose PC is 0x100. -/
def handledAt0x200 : State := withSlot fun sl => { sl with pc := 0x100, vec := { sl.vec with tvec := 0x201 } }

/-- R334, R335: TRAP 5 saves the next address, cause 4 and the operand, and enters supervisor mode at TVEC; R335: ERET
goes back. -/
theorem test_trap_and_return :
    (after (exec (.trap 5) handledAt0x200) fun t => (t.me.pc, t.me.vec.epc, t.me.vec.ecause, t.me.vec.eaddr)) =
      some (0x200, 0x104, 4, 5) ∧
    (after (exec (.trap 5) handledAt0x200) fun t => (t.me.st.mode, t.me.st.pmode, t.me.st.exl)) = some (.supervisor, .user, true) ∧
    ((after (exec (.trap 5) handledAt0x200) fun t => after (exec .eret t) fun u => (u.me.pc, u.me.st.mode, u.me.st.exl)) =
      some (some (0x104, .user, false))) := by decide +kernel

/-- R335: user mode may not return from a trap, and cause 2 is taken at the instruction itself. -/
theorem test_privilege :
    (after (exec .eret handledAt0x200) fun t => (t.me.pc, t.me.vec.epc, t.me.vec.ecause)) = some (0x200, 0x100, 2) := by decide +kernel

/-- R339: HALT takes the slot out of the rotation. -/
theorem test_halt : (after (exec .halt base) fun t => decide (t.me.run = .running)) = some false := by decide +kernel

/-- R233: what QPUT puts last into a local queue register QGET takes after what stood there. -/
theorem test_queue_order :
    ((after (exec (.qput 1 0) (queued 1 1 false)) fun t => (t.here.q.get 0).entries) = some [9, 0]) ∧
    gives (.qget 4 0) (queued 1 1 false) 4 = some 9 := by decide +kernel

/-- An empty work list of job 0 on core 0, its region at 0x8000; g1 and g2 hold an item and g3 an address. -/
def withList : State :=
  { regs 7 9 0x4000 with arg := .none }.modHere fun c => { c with wl := { WorkList.reset with en := true, job := some 0, base := 0x8000 } }

/-- R323, R324: a pushed item lies in the list region and comes back, with bit 63 of the answer set. -/
theorem test_work_list :
    (after (exec (.wpush 1 2) withList) fun t => (gives (.ld64 5 0 0x7F8) t 5, t.peek (t.cellAt 0 0) 8, t.cellAt 0 0)) =
      some (some 0, 7, own 0x8000) ∧
    ((after (exec (.wpush 1 2) withList) fun t => after (exec (.wpop 4 3) t) fun u =>
      (gives (.ld64 5 3 0) u 5, gives (.ld64 5 3 8) u 5, u.getG 4)) =
      some (some (some 7, some 9, 0x8000000000000000))) := by decide +kernel

/-! ### States that meet the statements' hypotheses: the other clauses -/

theorem test_meets_SpecialFunctionsAreSentAndReturn_complete :
    (base.isGrid base.curCore = true ∧ base.here.isolated = false) ∧
    ∀ k q, k ≠ base.curSlot → (base.slot base.curCore k).run ≠ .waiting (.sfu q) := by
  refine ⟨by decide +kernel, fun k q h e => ?_⟩
  have off : ∀ k, k ∈ List.finRange 16 → k = base.curSlot ∨ (base.slot base.curCore k).run = .off := each (by decide +kernel)
  cases off k (List.mem_finRange k) with
  | inl x => exact h x
  | inr x => exact absurd (x.symm.trans e) (by simp)

/-- Core 1 executes; a restore of its context is under way whose bank 0 is not yet there. -/
def bankless : State :=
  { moving false [moveOf (moveCmd false 0x1000000000000 0) [] [0] true] .none with curCore := 1 }

theorem test_meets_MatrixInstructionsManageQueuesAndTiles_banks :
    ((bankless.isGrid 1 = true ∧ bankless.inShare 1 (some 0) 0 64 = true) ∧
     bankless.bankReady 1 (some 0) 0 64 = .error (.wait (.bank 0)) ∧ base.bankReady 0 base.me.who 0 64 = .ok ()) ∧
    (bankless.bankAway 1 (some 0) 0 16 = some 0 ∧ base.bankAway 0 base.me.who 0 16 = none) := by
  refine ⟨⟨?_, error_of (?_), ok_of (?_)⟩, ?_⟩ <;> decide +kernel

/-- A store of slot 0 to the word at offset 8 of its own share is on its way. -/
def storing : State :=
  let r : RemoteReq := { core := 0, slot := 0, part := 0, node := .core 0, va := 8, op := .write (own 0) 0xFF00 0 none }
  { base with due := [{ path := none, ev := { kind := .remoteRequest, arg := .remote r } }] }

theorem test_meets_AtomicsExchangeOldForNew_posted :
    (storing.ownPosted 0 0 true (some (own 8)) 8 8 = true ∧ storing.ownPosted 0 0 true (some (own 16)) 16 8 = false) ∧
    storing.atomicTarget .add 8 8 = .ok (.self (own 8)) := ⟨by decide +kernel, ok_of (by decide +kernel)⟩

/-- Slot 0 is outside any job and has waited; its wait is over. -/
def rejoining (w : Wait) : State :=
  { withSlot (fun sl => { sl with run := .waiting w, job := none, rejoinAt := some 0, ilen := 4 }) with arg := .slot 0 0 }

theorem test_meets_UpcallsAndAsynchronousCausesAreTaken_rejoins :
    ((rejoining .stopping).rejoinReady 0 0 = true ∧ ((rejoining .stopping).slot 0 0).bench = none ∧
     ((rejoining .stopping).slot 0 0).job = none) ∧
    (let s := rejoining .halt
     let sl := s.slot 0 0
     s.rejoinReady 0 0 = true ∧ sl.deferred = none ∧ sl.pending = [] ∧ sl.bench = none ∧ sl.job = none ∧
     (s.chip (s.chipOf 0)).cache = []) ∧
    (let s := (rejoining .halt).modSlot 0 0 (fun sl => { sl with deferred := some (0x1E, 0) })
     s.rejoinReady 0 0 = true ∧ (s.slot 0 0).deferred.isSome = true) ∧
    ((rejoining (.matrixRoom 0 3)).rejoinReady 0 0 = true ∧ ((rejoining (.matrixRoom 0 3)).slot 0 0).deferred = none) ∧
    ((rejoining (.mmov 3 0 0 [])).rejoinReady 0 0 = true ∧ (0 : BitVec 5).toNat ∉ (rejoining (.mmov 3 0 0 [])).here.badTiles) ∧
    ((rejoining (.mmovw 3 0 0 [])).rejoinReady 0 0 = true ∧ ((rejoining (.mmovw 3 0 0 [])).slot 0 0).ilen = 4) := by
  decide +kernel

theorem test_meets_SlotsAreStartedAndStopped_halting :
    base.me.bench = none ∧ Drained (withSlot (fun sl => { sl with job := none })) 3 ∧
    (twoSlots.here.slot 1).readyIn (twoSlots.here.t - 1) = false := by
  refine ⟨by decide +kernel, by unfold Drained; decide +kernel, by decide +kernel⟩

/-- Full/empty reads of other cores hold at a word of core 0. -/
def farReads (k : Nat) : Nat :=
  (((holdingReads k).core (localCore (own 16))).waits.filter (fun w => w.core != localCore (own 16))).length

theorem test_meets_RemoteAccessesArePerformedAndAnswered_reads :
    (farReads 47 < 48 ∧ 48 ≤ farReads 48) ∧
    (let elems := [(0, own 16), (1, own 8), (2, own 24)]
     let s := { requested (.read elems 8) with bad := [own 8] }
     elems = [(0, own 16)] ++ (1, own 8) :: [(2, own 24)] ∧ s.badIn (own 16) 8 = none ∧ s.badIn (own 8) 8 = some (own 8)) := by
  decide +kernel

/-- A completion of group 2 for core 0's port gp1 of job 0. -/
def completing (use : Nat) : State := { grouped with arg := .group { groupMsg 0 false with port := 1, use := use } }

theorem test_meets_GroupsMeetAndRoundsCommit_completions :
    ((completing 1).portsOf 0 0).map (fun p => (p.completed.get 1 + 1 == 1, p.completed.get 1 + 1 == 2)) = some (true, false) ∧
    ((meeting true (useOf [] 2 []) .none).portsOf 0 0).map (fun p => p.completed.get 0 + 1) = some (useOf [] 2 []).use := by
  decide +kernel

theorem test_meets_SupplyAndHeatAreWatched_echo :
    (base.ptime < (base.power.echoAt.get 0) ∨ base.power.echoAt.get 0 ≤ base.ptime) ∧
    base.power.echoAt.get 1 ≤ (shedding 50000).ptime := by decide +kernel

/-- Job 0 has been placed and its load is complete; its region serves or not. -/
def loaded (serves : Bool) : State :=
  let s := jobbed (fun j => { j with phase := .loading, slotMask := 0x8001, rows := 1, cols := 1 }) (waitingJob true imageCells)
  if serves then s else s.modCore 0 (fun c => { c with isolated := true })

theorem test_meets_JobsAreReadLaunchedAndCompleted_loads :
    (let s := loaded true
     (s.job? 0).map (fun j => (s.jobImage j).isSome) = some true ∧
     (s.job? 0).bind (fun j => (s.jobImage j).map (fun im =>
       ((s.jobCores j).any s.underRecovery, (s.jobCores j).all (s.fitsCore j im)))) = some (false, true)) ∧
    ((loaded false).job? 0).bind (fun j => ((loaded false).jobImage j).map (fun _ =>
       ((loaded false).jobCores j).any (loaded false).underRecovery)) = some true ∧
    (let shed := { loaded true with power := { (loaded true).power with shedlvl := 3 } }
     (shed.job? 0).bind (fun j => (shed.jobImage j).map (fun im =>
       ((shed.jobCores j).any shed.underRecovery, (shed.jobCores j).all (shed.fitsCore j im),
        decide (shed.power.shedlvl ≤ ({ j with prio := 3 } : Job).prio.toNat), decide ((2 : BitVec 3).toNat < shed.power.shedlvl)))) =
       some (false, true, true, true)) := by decide +kernel

theorem test_meets_JobsAreReadLaunchedAndCompleted_reserved :
    (let u := (waitingJob true imageCells).reserve
     u.nextLaunch = some 0 ∧ placed u = some (.start 0 0)) ∧
    (let u := (waitingJob true []).reserve
     u.nextLaunch = some 0 ∧ (u.job? 0).map u.jobImage = some none) ∧
    (waitingJob false imageCells).reserve.nextLaunch = none := by decide +kernel

/-- No group entry of partition 0 is free. -/
def noGroups : State :=
  let s := waitingJob true imageCells
  let g := fun (k : Nat) => ({ part := 0, index := BitVec.ofNat 8 k, job := 1, seq := 1, members := [5], trees := [] } : Group)
  { s with groups := (List.range 256).map g }

theorem test_meets_JobsAreReadLaunchedAndCompleted_groups :
    noGroups.reserve.nextLaunch = some 0 ∧ (noGroups.reserve.freeGroups 0).length < 0 + 1 := by decide +kernel

/-- A proposal of the layout in force, or of one with two owners of a slot. -/
def proposing (twice : Bool) : State :=
  let ps := base.layout.parts
  let two := if twice then ps ++ ps.map (fun e => (e.1 + 1, e.2)) else ps
  { base with arg := .proposal { parts := two, names := [], detours := [], pinned := [] } }

theorem test_meets_LayoutsCommitAndFirmwareLoads_proposals :
    (let p := fun (s : State) (two : List (Nat × PartEntry)) => ({ s.layout with parts := two } : Layout).refused
     p base base.layout.parts = false ∧ p base (base.layout.parts ++ base.layout.parts.map (fun e => (e.1 + 1, e.2))) = true) ∧
    (base.bootHalted = false ∧ base.commit.busy = false ∧ base.requests.any (fun x => x.stage == 1) = false) ∧
    ((proposing true).layout = base.layout ∧ (proposing false).layout = base.layout) ∧
    ((committing true false).commit.busy = true ∧ (committing true false).bootHalted = false ∧
     ((committing true false).proposed { parts := base.layout.parts, names := [], detours := [], pinned := [] } 1).refused = false) := by
  decide +kernel

theorem test_meets_OpticalPortsKeepTheirSequence_window :
    (let p := (ported 4097 0).port 47
     (opticalAck (frameOf 0 0 4096 0) - p.acked).toNat = 4096 ∧ (opticalAck (frameOf 0 0 4097 0) - p.acked).toNat = 4097 ∧
     p.window.length = 4097) ∧
    opticalGood (frameOf 0 0 4097 0) = true ∧ base.liveSlots 0xF307 = 16 ∧ (15 : SlotNo).val < 16 := by decide +kernel

/-- A commit that gives the first slice of the grid's stores to partition 1. -/
def handingOver : State :=
  { committing true false with shadow := { base.layout with parts := base.layout.parts.map (fun e => (e.1 + 1, e.2)) } }

theorem test_meets_LayoutsCommitAndFirmwareLoads_slices :
    let a := istoreAddr 0 0
    (istoreBase ≤ a ∧ a < istoreBase + 2 ^ 34) ∧ handingOver.layout.parts ≠ handingOver.shadow.parts ∧
    ({ handingOver with layout := handingOver.shadow } : State).storeOwner a = some 1 ∧ handingOver.storeOwner a = some 0 := by decide +kernel

theorem test_meets_LayoutsCommitAndFirmwareLoads_upsets :
    (base.kindOf 0xF307 = .management 7 ∧ lookupNat (0xF300 + 7) base.firmware = none) ∧
    ((copying [copyOf .bytes 0 8 8 false]).here.copies[0]? = some (copyOf .bytes 0 8 8 false) ∧
     ((copying [copyOf .bytes 0 8 8 false]).slot 0 0).run = .running) := by decide +kernel

/-- A write of the frame table that assigns span 512, whose level-4 entry names a table or not. -/
theorem test_meets_HostRequestsArePerformed_spans :
    (mapped.root = some (0, 0x400) ∧ mapped.rootEntry (512 * 2 ^ 39) / 2 ^ 63 % 2 = 1 ∧
     mapped.rootEntry (1024 * 2 ^ 39) / 2 ^ 63 % 2 = 0) ∧
    mapped.groupEntry 0 = mapped.groupEntry 0 &&& 0xFFFFFFFFFFF000FF := by decide +kernel

theorem test_meets_AStepRunsTheDecodedInstruction_cycles :
    (∀ m, m ∈ [0] → base.firing m = [] ∧ ∀ i, base.rejoinReady m i = false ∧ (base.slot m i).rejoinAt = none ∧
      (base.slot m i).bench = none) ∧
    (base.lockedWith 0 = [0] ∧ base.chosen 0 = some 0 ∧ base.chosen 1 = none ∧ base.lockedWith 1 = [1]) ∧
    ((base.slot 0 0).taking = none ∧ (base.slot 0 0).bench = none) := by
  refine ⟨forall_one ⟨by decide +kernel, fun i => ?_⟩, by decide +kernel, by decide +kernel⟩
  exact (each (l := List.finRange 16) (p := fun i => base.rejoinReady 0 i = false ∧ (base.slot 0 i).rejoinAt = none ∧
    (base.slot 0 i).bench = none) (by decide +kernel)) i (List.mem_finRange i)

theorem test_meets_TrapsAreTakenAndReturnedFrom_running :
    (inMode .user).me.run = .running ∧ (0x100 : BitVec 17).getLsbD 0 = false := by decide +kernel

theorem test_meets_CompactFormsAndBadFetches_loads :
    (compacted 0).soft = [] ∧ (compacted 0).badIn (own 0x1FFFF8) 8 = none := by decide +kernel

/-- A port whose replays are at their end carries a message, or none. -/
theorem test_meets_OpticalPortsKeepTheirSequence_riders :
    ((ported 2 63).port 47).riders = [] ∧ ((ported 2 62).port 47).replays < 63 := by decide +kernel

/-- Items that come back to core 0, which owns the list for job 0 or not. -/
theorem test_meets_WorkListsHoldAndLevelItems_returns :
    ((working 1 0).here.wl.en = true ∧ (working 1 0).here.wl.job = some 0) ∧ base.here.wl.en = false := by decide +kernel

end Sys2Proof.Tests
end

section
/-!
Float sums and products (O31). Three layers: what an encoding's sign and magnitude are and which finite encodings are their
own rounding (R74 to R76, R81); the value of a sum of one or two terms; what `Fmt.dot` answers for one product or one pair
of addends. A difference is the sum with the second operand negated, so every clause about it comes from the one about sums.
-/
namespace Sys2Proof.Machine

/-! ### Encodings and the values they round to -/

/-- The magnitude code of an encoding: its exponent and fraction fields. -/
def Fmt.magOf (f : Fmt) (x : Nat) : Nat := x / 2 ^ f.pad % 2 ^ (f.ebits + f.mbits)

/-- The sign bit of an encoding. -/
def Fmt.signOf (f : Fmt) (x : Nat) : Bool := decide (x / 2 ^ f.pad / 2 ^ (f.ebits + f.mbits) % 2 = 1)

/-- A format whose container has no unused bits: sign and magnitude are the whole encoding. -/
theorem Fmt.pack_signOf_magOf {f : Fmt} {x : Nat} (hpad : f.pad = 0) (hx : x < 2 ^ (1 + f.ebits + f.mbits)) :
    f.pack (f.signOf x) (f.magOf x) = x := by
  have hsign : x / 2 ^ (f.ebits + f.mbits) < 2 :=
    Nat.div_lt_of_lt_mul (by rwa [← Nat.pow_succ, Nat.succ_eq_one_add, ← Nat.add_assoc])
  have hsplit := Nat.mod_add_div x (2 ^ (f.ebits + f.mbits))
  simp only [Fmt.pack, Fmt.signOf, Fmt.magOf, hpad, Nat.pow_zero, Nat.div_one, Nat.mul_one, decide_eq_true_eq]
  obtain h | h := Nat.le_one_iff_eq_zero_or_eq_one.mp (Nat.le_of_lt_succ hsign)
  all_goals rw [h] at hsplit ⊢; simpa using hsplit

/-- A magnitude code up to the largest finite one stands for a subnormal or a normal value. -/
theorem Fmt.decode_of_le {f : Fmt} {x : Nat} (h : f.magOf x ≤ f.maxMag) :
    f.decode x =
      if f.magOf x / 2 ^ f.mbits = 0 then .fin (f.signOf x) (f.magOf x % 2 ^ f.mbits) (1 - f.bias - f.mbits)
      else .fin (f.signOf x) (2 ^ f.mbits + f.magOf x % 2 ^ f.mbits) ((f.magOf x / 2 ^ f.mbits : Nat) - f.bias - f.mbits) :=
  if_neg (Nat.not_lt.mpr h)

/-- A magnitude code above the largest finite one stands for no finite value. -/
theorem Fmt.decode_ne_fin_of_lt {f : Fmt} {x : Nat} (h : f.maxMag < f.magOf x) (n : Bool) (m : Nat) (e : Int) :
    f.decode x ≠ .fin n m e := by
  intro hfin
  rw [Fmt.decode, if_pos (by exact h)] at hfin
  split at hfin
  · split at hfin <;> cases hfin
  · cases hfin

/-- A finite encoding is subnormal, its mantissa the magnitude code itself, or normal, with the hidden bit added. -/
theorem Fmt.decode_fin_cases {f : Fmt} {x : Nat} {n : Bool} {m : Nat} {e : Int} (h : f.decode x = .fin n m e) :
    n = f.signOf x ∧ f.magOf x ≤ f.maxMag ∧
      ((m = f.magOf x ∧ m < 2 ^ f.mbits ∧ e = 1 - f.bias - f.mbits) ∨
       ∃ k r : Nat, 0 < k ∧ r < 2 ^ f.mbits ∧ f.magOf x = k * 2 ^ f.mbits + r ∧
         m = 2 ^ f.mbits + r ∧ e = k - f.bias - f.mbits) := by
  have hmax : f.magOf x ≤ f.maxMag := Nat.not_lt.mp fun hlt => Fmt.decode_ne_fin_of_lt hlt n m e h
  have hfrac : f.magOf x % 2 ^ f.mbits < 2 ^ f.mbits := Nat.mod_lt _ (Nat.two_pow_pos _)
  have hsplit := Nat.div_add_mod' (f.magOf x) (2 ^ f.mbits)
  rw [Fmt.decode_of_le hmax] at h
  split at h
  next hsub =>
    cases h
    exact ⟨rfl, hmax, .inl ⟨by simpa [hsub] using hsplit, hfrac, rfl⟩⟩
  next hnorm =>
    cases h
    exact ⟨rfl, hmax, .inr ⟨_, _, Nat.pos_of_ne_zero hnorm, hfrac, hsplit.symm, rfl, rfl⟩⟩

/-- A value whose exponent is that of the last place R81 gives it is not rounded: no mode changes it, and no flag is set. -/
theorem Fmt.round_lastPlace {f : Fmt} (mode rand : Nat) (sat neg : Bool) {m mag : Nat} {e : Int} (hm : m ≠ 0)
    (he : e = max ((m.log2 : Int) + e) (1 - f.bias) - f.mbits)
    (hmag : mag = (e + f.mbits + f.bias - 1).toNat * 2 ^ f.mbits + m) (hmax : mag ≤ f.maxMag) :
    f.round mode rand sat neg m e = (f.pack neg mag, 0) := by
  have hexact : roundMag mode rand neg m (e - e) = (m, false) := by simp [roundMag]
  simp only [Fmt.round, hm, ← he, hexact, ← hmag, Nat.not_lt.mpr hmax]
  simp

/-- A zero keeps its sign. -/
theorem Fmt.round_zero (f : Fmt) (mode rand : Nat) (sat neg : Bool) (e : Int) :
    f.round mode rand sat neg 0 e = (f.pack neg 0, 0) := rfl

/-- A subnormal value rounds to its own code. -/
theorem Fmt.round_subnormal {f : Fmt} (mode rand : Nat) (sat neg : Bool) {m : Nat} (hlt : m < 2 ^ f.mbits)
    (hmax : m ≤ f.maxMag) : f.round mode rand sat neg m (1 - f.bias - f.mbits) = (f.pack neg m, 0) := by
  by_cases hm : m = 0
  · rw [hm, Fmt.round_zero]
  have hlog : m.log2 < f.mbits := (Nat.log2_lt hm).mpr hlt
  refine Fmt.round_lastPlace mode rand sat neg hm (by omega) ?_ hmax
  simp

/-- A normal value rounds to its own code. -/
theorem Fmt.round_normal {f : Fmt} (mode rand : Nat) (sat neg : Bool) {k r : Nat} (hk : 0 < k) (hr : r < 2 ^ f.mbits)
    (hmax : k * 2 ^ f.mbits + r ≤ f.maxMag) :
    f.round mode rand sat neg (2 ^ f.mbits + r) (k - f.bias - f.mbits) = (f.pack neg (k * 2 ^ f.mbits + r), 0) := by
  have hm : 2 ^ f.mbits + r ≠ 0 := by have := Nat.two_pow_pos f.mbits; omega
  have hlog : (2 ^ f.mbits + r).log2 = f.mbits := (Nat.log2_eq_iff hm).mpr ⟨by omega, by rw [Nat.pow_succ]; omega⟩
  refine Fmt.round_lastPlace mode rand sat neg hm (by omega) ?_ hmax
  have hfield : ((k : Int) - f.bias - f.mbits + f.mbits + f.bias - 1).toNat = k - 1 := by omega
  obtain ⟨j, rfl⟩ := Nat.exists_eq_add_of_lt hk
  rw [hfield]
  simp only [Nat.zero_add, Nat.add_sub_cancel, Nat.add_one_mul]
  omega

/-- A value that the format holds rounds to itself in every mode, with no flag (R81). -/
theorem Fmt.round_decode {f : Fmt} (mode rand : Nat) (sat : Bool) {x : Nat} {n : Bool} {m : Nat} {e : Int}
    (hpad : f.pad = 0) (hx : x < 2 ^ (1 + f.ebits + f.mbits)) (h : f.decode x = .fin n m e) :
    f.round mode rand sat n m e = (x, 0) := by
  obtain ⟨rfl, hmax, ⟨rfl, hlt, rfl⟩ | ⟨k, r, hk, hr, hmag, rfl, rfl⟩⟩ := Fmt.decode_fin_cases h
  · rw [Fmt.round_subnormal mode rand sat _ hlt hmax, Fmt.pack_signOf_magOf hpad hx]
  · rw [Fmt.round_normal mode rand sat _ hk hr (hmag ▸ hmax), ← hmag, Fmt.pack_signOf_magOf hpad hx]

/-! ### Sums of one and of two terms -/

@[simp] theorem FVal.isNan_neg (v : FVal) : v.neg.isNan = v.isNan := by cases v <;> rfl

@[simp] theorem FVal.isSig_neg (v : FVal) : v.neg.isSig = v.isSig := by cases v <;> rfl

/-- A NaN, whether it signals or not. -/
theorem FVal.isNan_iff {v : FVal} : v.isNan ↔ ∃ s, v = .nan s := by cases v <;> simp [FVal.isNan]

/-- A product with a NaN is a NaN, and not an invalid 0 × ∞. -/
theorem FVal.mul_of_isNan {u v : FVal} (h : u.isNan || v.isNan) : ∃ s, u.mul v = (.nan s, false) := by
  obtain hu | hv := (Bool.or_eq_true _ _).mp h
  · obtain ⟨s, rfl⟩ := FVal.isNan_iff.mp hu
    cases v <;> exact ⟨_, rfl⟩
  · obtain ⟨s, rfl⟩ := FVal.isNan_iff.mp hv
    cases u <;> exact ⟨_, rfl⟩

@[simp] theorem FVal.inf_beq_inf (p q : Bool) : (FVal.inf p == FVal.inf q) = (p == q) := by cases p <;> cases q <;> rfl

@[simp] theorem FVal.fin_beq_inf (p : Bool) (m : Nat) (e : Int) (q : Bool) : (FVal.fin p m e == FVal.inf q) = false := rfl

/-- The integer that a sign and a mantissa stand for. -/
def signedMant (neg : Bool) (m : Nat) : Int := if neg then -(m : Int) else m

theorem signedMant_eq (neg : Bool) (m : Nat) : signedMant neg m = if neg then -(m : Int) else m := rfl

theorem signedMant_not (neg : Bool) (m : Nat) : signedMant (!neg) m = -signedMant neg m := by
  cases neg <;> simp [signedMant]

@[simp] theorem natAbs_signedMant (neg : Bool) (m : Nat) : (signedMant neg m).natAbs = m := by
  cases neg <;> simp [signedMant]

@[simp] theorem signedMant_eq_zero {neg : Bool} {m : Nat} : signedMant neg m = 0 ↔ m = 0 := by
  rw [← Int.natAbs_eq_zero, natAbs_signedMant]

theorem signedMant_neg_iff {neg : Bool} {m : Nat} (hm : m ≠ 0) : signedMant neg m < 0 ↔ neg = true := by
  cases neg
  · simp [signedMant]
  · simpa [signedMant] using Nat.pos_of_ne_zero hm

/-- The sum of two finite values as an integer multiple of 2 to the lower of their exponents. -/
def alignedSum (p : Bool) (m : Nat) (e : Int) (q : Bool) (k : Nat) (g : Int) : Int :=
  signedMant p m * 2 ^ (e - min e g).toNat + signedMant q k * 2 ^ (g - min e g).toNat

/-- A difference is the sum with the second sign turned. -/
theorem alignedSum_not (p : Bool) (m : Nat) (e : Int) (q : Bool) (k : Nat) (g : Int) :
    alignedSum p m e (!q) k g =
      signedMant p m * 2 ^ (e - min e g).toNat - signedMant q k * 2 ^ (g - min e g).toNat := by
  rw [alignedSum, signedMant_not, Int.neg_mul, ← Int.sub_eq_add_neg]

/-- A finite term leaves the marks of a NaN and of the infinities as they are. -/
theorem Sum.add_fin_marks (t : Sum) (p : Bool) (m : Nat) (e : Int) :
    (t.add (.fin p m e)).nan = t.nan ∧ (t.add (.fin p m e)).pinf = t.pinf ∧ (t.add (.fin p m e)).ninf = t.ninf := by
  simp only [Sum.add]
  (repeat' split) <;> exact ⟨rfl, rfl, rfl⟩

/-- A running sum has met a NaN if it had before or the term is one. -/
theorem Sum.nan_add (t : Sum) (v : FVal) : (t.add v).nan = (t.nan || v.isNan) := by
  cases v with
  | nan s => simp [Sum.add, FVal.isNan]
  | inf neg => cases neg <;> simp [Sum.add, FVal.isNan]
  | fin neg m e => simp [Sum.add_fin_marks, FVal.isNan]

/-- A running sum has met +∞ if it had before or the term is +∞. -/
theorem Sum.pinf_add (t : Sum) (v : FVal) : (t.add v).pinf = (t.pinf || v == .inf false) := by
  cases v with
  | nan s => simp [Sum.add]
  | inf neg => cases neg <;> simp [Sum.add]
  | fin neg m e => simp [Sum.add_fin_marks]

/-- A running sum has met −∞ if it had before or the term is −∞. -/
theorem Sum.ninf_add (t : Sum) (v : FVal) : (t.add v).ninf = (t.ninf || v == .inf true) := by
  cases v with
  | nan s => simp [Sum.add]
  | inf neg => cases neg <;> simp [Sum.add]
  | fin neg m e => simp [Sum.add_fin_marks]

/-- A first term that is not zero sets the running sum. -/
theorem Sum.add_zero_fin {m : Nat} (hm : m ≠ 0) (p : Bool) (e : Int) :
    Sum.zero.add (.fin p m e) = ⟨signedMant p m, e, false, false, false, false, true, false⟩ := by
  simp [Sum.add, Sum.zero, hm, signedMant]

/-- A second term is added at the lower of the two exponents. -/
theorem Sum.add_fin_fin {m k : Nat} (hm : m ≠ 0) (hk : k ≠ 0) (p q : Bool) (e g : Int) :
    (Sum.zero.add (.fin p m e)).add (.fin q k g) =
      ⟨alignedSum p m e q k g, min e g, false, false, false, false, true, false⟩ := by
  rw [Sum.add_zero_fin hm]
  by_cases hle : e ≤ g
  · rw [alignedSum, Int.min_eq_left hle]
    simp [Sum.add, ← signedMant_eq, hm, hk, hle]
  · rw [alignedSum, Int.min_eq_right (Int.le_of_not_le hle)]
    simp [Sum.add, ← signedMant_eq, hm, hk, hle]

/-- A sum with a NaN among its terms, and not both infinities, is a NaN that is no invalid ∞ − ∞. -/
theorem Sum.value_of_nan {t : Sum} (hnan : t.nan = true) (hinf : (t.pinf && t.ninf) = false) (rdn : Bool) :
    t.value rdn = (.nan false, false) := by
  simp [Sum.value, hnan, hinf]

/-- A sum that has met +∞ and −∞ is the invalid ∞ − ∞. -/
theorem Sum.value_of_both_inf {t : Sum} (hp : t.pinf = true) (hn : t.ninf = true) (rdn : Bool) :
    t.value rdn = (.nan false, true) := by
  simp [Sum.value, hp, hn]

/-- A sum that has met infinities of one sign only, and no NaN, is that infinity. -/
theorem Sum.value_of_inf {t : Sum} {p : Bool} (hnan : t.nan = false) (hp : t.pinf = !p) (hn : t.ninf = p) (rdn : Bool) :
    t.value rdn = (.inf p, false) := by
  cases p <;> simp [Sum.value, hnan, hp, hn]

/-- No single term is both infinities. -/
theorem FVal.not_both_inf (v : FVal) : (v == .inf false && v == .inf true) = false := by
  by_cases h : v = .inf false <;> simp [h]

/-- A NaN makes the sum of two terms a NaN, and the other term alone is no ∞ − ∞. -/
theorem sumOf_of_isNan {u v : FVal} (h : u.isNan || v.isNan) (rdn : Bool) : sumOf [u, v] rdn = (.nan false, false) := by
  refine Sum.value_of_nan (by simpa [Sum.nan_add, Sum.zero] using h) ?_ rdn
  obtain hu | hv := (Bool.or_eq_true _ _).mp h
  · obtain ⟨s, rfl⟩ := FVal.isNan_iff.mp hu
    simpa [Sum.pinf_add, Sum.ninf_add, Sum.zero] using v.not_both_inf
  · obtain ⟨s, rfl⟩ := FVal.isNan_iff.mp hv
    simpa [Sum.pinf_add, Sum.ninf_add, Sum.zero] using u.not_both_inf

/-- Two infinities of one sign add to it; of two signs they are the invalid ∞ − ∞. -/
theorem sumOf_inf_inf (p q rdn : Bool) :
    sumOf [.inf p, .inf q] rdn = if p = q then (.inf p, false) else (.nan false, true) := by
  split
  next h =>
    subst h
    apply Sum.value_of_inf <;> simp [Sum.nan_add, Sum.pinf_add, Sum.ninf_add, Sum.zero, FVal.isNan]
  next h =>
    obtain rfl := Bool.eq_not_of_ne h
    apply Sum.value_of_both_inf <;> simp [Sum.pinf_add, Sum.ninf_add, Sum.zero]

/-- An infinity absorbs a finite addend. -/
theorem sumOf_inf_fin (p q rdn : Bool) (m : Nat) (e : Int) : sumOf [.inf p, .fin q m e] rdn = (.inf p, false) := by
  apply Sum.value_of_inf <;> simp [Sum.nan_add, Sum.pinf_add, Sum.ninf_add, Sum.zero, FVal.isNan]

/-- A single NaN, the outcome of a product, stays one. -/
theorem sumOf_nan (s rdn : Bool) : sumOf [.nan s] rdn = (.nan false, false) := rfl

/-- A single infinity stays one. -/
theorem sumOf_inf (p rdn : Bool) : sumOf [.inf p] rdn = (.inf p, false) := by
  cases p <;> rfl

/-- A sum of one finite term that is not zero is that term. -/
theorem sumOf_fin {m : Nat} (hm : m ≠ 0) (p rdn : Bool) (e : Int) : sumOf [.fin p m e] rdn = (.fin p m e, false) := by
  simp [sumOf, Sum.add_zero_fin hm, Sum.value, hm, signedMant_neg_iff hm]

/-- The exact sum of two finite values that are not zero; a sum of zero has the sign of the mode. -/
theorem sumOf_fin_fin {m k : Nat} (hm : m ≠ 0) (hk : k ≠ 0) (p q rdn : Bool) (e g : Int) :
    sumOf [.fin p m e, .fin q k g] rdn =
      (if alignedSum p m e q k g = 0 then .fin rdn 0 0
       else .fin (decide (alignedSum p m e q k g < 0)) (alignedSum p m e q k g).natAbs (min e g), false) := by
  by_cases hzero : alignedSum p m e q k g = 0 <;> simp [sumOf, Sum.add_fin_fin hm hk, Sum.value, hzero]

/-! ### One pair of addends, and one product -/

/-- NV where the condition holds. -/
def nvIf (c : Bool) : BitVec 5 := if c then flagNV else 0

theorem Fmt.dot_addends (f : Fmt) (mode rand : Nat) (u v : FVal) :
    f.dot mode rand [] [u, v] =
      let sum := sumOf [u, v] (mode == 2)
      let out := f.result mode rand sum.1
      (out.1, out.2 ||| nvIf (u.isSig || v.isSig || sum.2)) := by
  simp [Fmt.dot, nvIf]

theorem Fmt.dot_product (f : Fmt) (mode rand : Nat) (u v : FVal) :
    f.dot mode rand [(u, v)] [] =
      let sum := sumOf [(u.mul v).1] (mode == 2)
      let out := f.result mode rand sum.1
      (out.1, out.2 ||| nvIf (u.isSig || v.isSig || sum.2 || (u.mul v).2)) := by
  simp [Fmt.dot, nvIf]

section
variable (f : Fmt) (mode rand : Nat)

/-- A sum with a NaN operand is the canonical NaN, with NV for a signalling one (R76). -/
theorem Fmt.dot_addends_of_isNan {u v : FVal} (h : u.isNan || v.isNan) :
    f.dot mode rand [] [u, v] = (f.nanCode, nvIf (u.isSig || v.isSig)) := by
  simp [Fmt.dot_addends, sumOf_of_isNan h, Fmt.result]

/-- ∞ + ∞ keeps its sign; ∞ − ∞ is invalid. -/
theorem Fmt.dot_addends_inf_inf (p q : Bool) :
    f.dot mode rand [] [.inf p, .inf q] = if p = q then (f.infCode p, 0) else (f.nanCode, flagNV) := by
  rw [Fmt.dot_addends, sumOf_inf_inf]
  split <;> simp [Fmt.result, nvIf, FVal.isSig]

/-- An infinity with a finite addend is that infinity. -/
theorem Fmt.dot_addends_inf_fin (p q : Bool) (m : Nat) (e : Int) :
    f.dot mode rand [] [.inf p, .fin q m e] = (f.infCode p, 0) := by
  simp [Fmt.dot_addends, sumOf_inf_fin, Fmt.result, nvIf, FVal.isSig]

/-- Two finite addends: their exact sum rounded once, an exact zero with the sign of R81. -/
theorem Fmt.dot_addends_fin_fin {m k : Nat} (hm : m ≠ 0) (hk : k ≠ 0) (p q : Bool) (e g : Int) :
    f.dot mode rand [] [.fin p m e, .fin q k g] =
      if alignedSum p m e q k g = 0 then (f.pack (mode == 2) 0, 0)
      else f.round mode rand false (decide (alignedSum p m e q k g < 0)) (alignedSum p m e q k g).natAbs (min e g) := by
  rw [Fmt.dot_addends, sumOf_fin_fin hm hk]
  split <;> simp [Fmt.result, nvIf, FVal.isSig, Fmt.round_zero]

/-- A product with a NaN operand is the canonical NaN, with NV for a signalling one (R76). -/
theorem Fmt.dot_product_of_isNan {u v : FVal} (h : u.isNan || v.isNan) :
    f.dot mode rand [(u, v)] [] = (f.nanCode, nvIf (u.isSig || v.isSig)) := by
  obtain ⟨s, hs⟩ := FVal.mul_of_isNan h
  simp [Fmt.dot_product, hs, sumOf_nan, Fmt.result]

/-- A product of infinities has the sign of both. -/
theorem Fmt.dot_product_inf_inf (p q : Bool) : f.dot mode rand [(.inf p, .inf q)] [] = (f.infCode (p != q), 0) := by
  simp [Fmt.dot_product, FVal.mul, sumOf_inf, Fmt.result, nvIf, FVal.isSig]

/-- ∞ × 0 is invalid. -/
theorem Fmt.dot_product_inf_zero (p q : Bool) (e : Int) :
    f.dot mode rand [(.inf p, .fin q 0 e)] [] = (f.nanCode, flagNV) := by
  simp [Fmt.dot_product, FVal.mul, sumOf_nan, Fmt.result, nvIf, FVal.isSig]

/-- ∞ times a finite value that is not zero has the sign of both. -/
theorem Fmt.dot_product_inf_fin (p q : Bool) {m : Nat} (hm : m ≠ 0) (e : Int) :
    f.dot mode rand [(.inf p, .fin q m e)] [] = (f.infCode (p != q), 0) := by
  simp [Fmt.dot_product, FVal.mul, hm, sumOf_inf, Fmt.result, nvIf, FVal.isSig]

/-- Two finite factors that are not zero: their exact product rounded once. -/
theorem Fmt.dot_product_fin_fin {m k : Nat} (hm : m ≠ 0) (hk : k ≠ 0) (p q : Bool) (e g : Int) :
    f.dot mode rand [(.fin p m e, .fin q k g)] [] = f.round mode rand false (p != q) (m * k) (e + g) := by
  simp [Fmt.dot_product, FVal.mul, sumOf_fin (Nat.mul_ne_zero hm hk), Fmt.result, nvIf, FVal.isSig]

end

/-! ### The statement -/

/-- The vector formats fill their containers. -/
theorem Fmt.pad_eq_zero {f : Fmt}
    (hf : f ∈ [fmtF32, fmtF16, fmtBF16, fmtE5M2, fmtE4M3, fmtE3M4, fmtE3M2, fmtE2M3, fmtE2M1]) : f.pad = 0 := by
  revert f
  decide

/-- Settles O31: a finite encoding is its own rounding (`Fmt.round_decode`), and the other clauses are the cases of one pair
of addends and of one product. -/
theorem floatArithmeticRoundsTheExactResult : Obligations.FloatArithmeticRoundsTheExactResult := by
  unfold Obligations.FloatArithmeticRoundsTheExactResult
  intro f hf mode rand x y hx
  refine ⟨?own, ?nan, ?infInf, ?infZero, ?infFin, ?finFin⟩
  case own => exact fun n m e sat h => Fmt.round_decode mode rand sat (Fmt.pad_eq_zero hf) hx h
  case nan =>
    intro h
    refine ⟨f.dot_addends_of_isNan mode rand h, ?_, f.dot_product_of_isNan mode rand h⟩
    simpa [Fmt.sub, nvIf] using f.dot_addends_of_isNan mode rand (u := f.decode x) (v := (f.decode y).neg) (by simpa using h)
  case infInf =>
    intro p q hp hq
    rw [Fmt.add, Fmt.sub, Fmt.mul, hp, hq]
    refine ⟨f.dot_addends_inf_inf mode rand p q, ?_, f.dot_product_inf_inf mode rand p q⟩
    rw [FVal.neg, f.dot_addends_inf_inf]
    cases p <;> cases q <;> rfl
  case infZero =>
    intro p q e hp hq
    rw [Fmt.mul, hp, hq, f.dot_product_inf_zero]
  case infFin =>
    intro p q m e hp hq
    rw [Fmt.add, Fmt.mul, hp, hq]
    exact ⟨f.dot_product_inf_fin mode rand p q m.succ_ne_zero e, f.dot_addends_inf_fin mode rand p q _ e⟩
  case finFin =>
    intro p m e q k g hp hq hm hk
    have hsum := f.dot_addends_fin_fin mode rand hm hk p q e g
    have hdiff := f.dot_addends_fin_fin mode rand hm hk p (!q) e g
    rw [alignedSum_not] at hdiff
    rw [Fmt.add, Fmt.sub, Fmt.mul, hp, hq]
    exact ⟨fun h => hsum.trans (if_neg h), fun h => hsum.trans (if_pos h), fun h => hdiff.trans (if_neg h),
      fun h => hdiff.trans (if_pos h), f.dot_product_fin_fin mode rand hm hk p q e g⟩

end Sys2Proof.Machine
end

section
/-!
Scalar register and immediate operations (O3, O4), and the spec's example words (O2). Every operation answers one write of a
value of its operands, which may keep its slot from issuing for a while (R92, R96 to R100); what remains is that the model's
value is the one the rules state: operands compared by their numbers, a quotient or a shift at its corners, an immediate
extended.
-/
namespace Sys2Proof.Machine

/-! ### An operation answers its result -/

section
variable {s : State} {i : Instr} {len : Nat} {d a b : BitVec 5} {f : Dword → Dword → Dword} {x imm : Dword}

/-- An operation on two registers has the value of its function as its result. -/
theorem result_alu (h : exec i s = .next (s.alu len d a b f)) (hx : f (s.getG a) (s.getG b) = x) :
    Result s i len d x := hx ▸ result_write h

/-- So has one that takes longer. -/
theorem result_alu_slow (h : exec i s = .next (s.alu len d a b f).slow) (hx : f (s.getG a) (s.getG b) = x) :
    Result s i len d x := hx ▸ result_write_slow h

/-- So has an operation on a register and an immediate. -/
theorem result_aluImm (h : exec i s = .next (s.aluImm len d a imm f)) (hx : f (s.getG a) imm = x) :
    Result s i len d x := hx ▸ result_write h

end

/-! ### Comparisons by the numbers of the operands (R96) -/

theorem dwordOfBool_decide (p : Prop) [Decidable p] : dwordOfBool (decide p) = if p then 1 else 0 := by
  simp [dwordOfBool]

theorem dwordOfBool_beq (x y : Dword) : dwordOfBool (x == y) = if x = y then 1 else 0 := by
  simp [dwordOfBool]

theorem dwordOfBool_bne (x y : Dword) : dwordOfBool (x != y) = if x = y then 0 else 1 := by
  simp [dwordOfBool]

theorem dwordOfBool_slt (x y : Dword) : dwordOfBool (x.slt y) = if x.toInt < y.toInt then 1 else 0 :=
  dwordOfBool_decide _

theorem dwordOfBool_ult (x y : Dword) : dwordOfBool (x.ult y) = if x.toNat < y.toNat then 1 else 0 :=
  dwordOfBool_decide _

/-- `<` and `≤` of their numbers choose alike between two outcomes that are one where the operands are equal. -/
theorem ite_slt_eq_ite_le {α : Type} {x y : Dword} {p q : α} (h : x = y → p = q) :
    (if x.slt y then p else q) = if x.toInt ≤ y.toInt then p else q := by
  by_cases hxy : x = y
  · rw [h hxy, ite_self, ite_self]
  · have hne : x.toInt ≠ y.toInt := fun he => hxy (BitVec.eq_of_toInt_eq he)
    have hiff : x.slt y = true ↔ x.toInt ≤ y.toInt := by
      rw [BitVec.slt_iff_toInt_lt]
      omega
    simp only [hiff]

theorem ite_ult_eq_ite_le {α : Type} {x y : Dword} {p q : α} (h : x = y → p = q) :
    (if x.ult y then p else q) = if x.toNat ≤ y.toNat then p else q := by
  by_cases hxy : x = y
  · rw [h hxy, ite_self, ite_self]
  · have hne : x.toNat ≠ y.toNat := fun he => hxy (BitVec.eq_of_toNat_eq he)
    have hiff : x.ult y = true ↔ x.toNat ≤ y.toNat := by
      rw [BitVec.ult_iff_lt, BitVec.lt_def]
      omega
    simp only [hiff]

/-! ### Division (R98) -/

/-- The one quotient that no dword holds wraps round to the dividend. -/
theorem quotS_eq (x y : Dword) : quotS x y =
    if y = 0 then BitVec.allOnes 64
    else if x.toInt = -(2 ^ 63) ∧ y.toInt = -1 then x
    else BitVec.ofInt 64 (x.toInt.tdiv y.toInt) := by
  have hwrap : x.toInt = -(2 ^ 63) ∧ y.toInt = -1 → BitVec.ofInt 64 (x.toInt.tdiv y.toInt) = x := by
    rintro ⟨hx, hy⟩
    apply BitVec.eq_of_toInt_eq
    rw [hy, hx]
    rfl
  unfold quotS
  congr 1
  split
  next h => exact hwrap h
  next => rfl

/-- A remainder is what the quotient leaves; of the quotient that no dword holds it is 0. -/
theorem remainS_eq (x y : Dword) : remainS x y =
    if y = 0 then x
    else if x.toInt = -(2 ^ 63) ∧ y.toInt = -1 then 0
    else BitVec.ofInt 64 (x.toInt - x.toInt.tdiv y.toInt * y.toInt) := by
  have hwrap : x.toInt = -(2 ^ 63) ∧ y.toInt = -1 → BitVec.ofInt 64 (x.toInt.tmod y.toInt) = 0 := by
    rintro ⟨hx, hy⟩
    rw [hy, hx]
    rfl
  unfold remainS
  congr 1
  split
  next h => exact hwrap h
  next => rw [Int.tmod_def, Int.mul_comm]

/-! ### Shifts (R97, R99) -/

theorem rotLeft_eq (x y : Dword) :
    rotLeft x y = (x <<< (y.toNat % 64)) ||| (x >>> (64 - y.toNat % 64)) := by
  rw [rotLeft, BitVec.rotateLeft_def, Nat.mod_mod]

theorem shiftArith_eq (x y : Dword) : shiftArith x y = x.sshiftRight (if 64 ≤ y.toNat then 63 else y.toNat) := by
  unfold shiftArith
  congr 1
  split <;> omega

/-- A six-bit count is below 64, and 64 bits hold it. -/
theorem toNat_setWidth_count (sh : BitVec 6) : (sh.setWidth 64).toNat = sh.toNat ∧ sh.toNat < 64 :=
  ⟨BitVec.toNat_setWidth_of_le (by decide), sh.isLt⟩

theorem shiftLeft_count (x : Dword) (sh : BitVec 6) : shiftLeft x (sh.setWidth 64) = x <<< sh.toNat := by
  obtain ⟨hval, hlt⟩ := toNat_setWidth_count sh
  rw [shiftLeft, hval, if_neg (by omega)]

theorem shiftRight_count (x : Dword) (sh : BitVec 6) : shiftRight x (sh.setWidth 64) = x >>> sh.toNat := by
  obtain ⟨hval, hlt⟩ := toNat_setWidth_count sh
  rw [shiftRight, hval, if_neg (by omega)]

theorem shiftArith_count (x : Dword) (sh : BitVec 6) : shiftArith x (sh.setWidth 64) = x.sshiftRight sh.toNat := by
  obtain ⟨hval, hlt⟩ := toNat_setWidth_count sh
  rw [shiftArith_eq, hval, if_neg (by omega)]

/-! ### Immediates (R99, R100) -/

/-- A comparison with an extended immediate is one with the immediate's own number. -/
theorem dwordOfBool_slt_signExtend (x : Dword) (imm : BitVec 12) :
    dwordOfBool (x.slt (imm.signExtend 64)) = if x.toInt < imm.toInt then 1 else 0 := by
  rw [dwordOfBool_slt, BitVec.toInt_signExtend_of_le (by decide)]

/-- Shifting a 20-bit immediate into the upper bits of a word puts twelve zero bits below it. -/
theorem setWidth_shiftLeft_eq_append (imm : BitVec 20) : (imm.setWidth 32) <<< 12 = imm ++ (0 : BitVec 12) := by
  rw [BitVec.append_def (v := 20) (w := 12), BitVec.shiftLeftZeroExtend_eq]
  simp

/-! ### The statements -/

/-- Settles O3: each operation writes the model's value of its operands, which the lemmas above bring to the rules' form. -/
theorem registerOperationsGiveTheirResults : Obligations.RegisterOperationsGiveTheirResults := by
  unfold Obligations.RegisterOperationsGiveTheirResults
  intro s d a b
  refine ⟨⟨?add, ?sub, ?and, ?or, ?xor, ?andn, ?mul, ?mulhS, ?mulhN⟩, ⟨?divN, ?remN, ?divS, ?remS⟩,
    ⟨?minS, ?minN, ?maxS, ?maxN, ?seq, ?sne, ?sltS, ?sltN⟩, ⟨?shl, ?shr, ?sar, ?rol, ?addw, ?subw, ?mulw⟩⟩
  case add | sub | and | or | xor | andn => exact result_alu rfl rfl
  case mul | mulhS | mulhN => exact result_alu_slow rfl rfl
  case divN | remN => exact result_alu_slow rfl rfl
  case divS => exact result_alu_slow rfl (quotS_eq _ _)
  case remS => exact result_alu_slow rfl (remainS_eq _ _)
  case minS => exact result_alu rfl (ite_slt_eq_ite_le id)
  case minN => exact result_alu rfl (ite_ult_eq_ite_le id)
  case maxS => exact result_alu rfl (ite_slt_eq_ite_le Eq.symm)
  case maxN => exact result_alu rfl (ite_ult_eq_ite_le Eq.symm)
  case seq => exact result_alu rfl (dwordOfBool_beq _ _)
  case sne => exact result_alu rfl (dwordOfBool_bne _ _)
  case sltS => exact result_alu rfl (dwordOfBool_slt _ _)
  case sltN => exact result_alu rfl (dwordOfBool_ult _ _)
  case sar => exact result_alu rfl (shiftArith_eq _ _)
  case rol => exact result_alu rfl (rotLeft_eq _ _)
  case shl | shr | addw | subw => exact result_alu rfl rfl
  case mulw => exact result_alu_slow rfl rfl

/-- Settles O4: each operation writes the model's value of its register and its immediate, extended to 64 bits. -/
theorem immediateOperationsGiveTheirResults : Obligations.ImmediateOperationsGiveTheirResults := by
  unfold Obligations.ImmediateOperationsGiveTheirResults
  intro s d a imm sh imm20
  refine ⟨?addi, ?andi, ?ori, ?xori, ?sltiS, ?sltiN, ?shli, ?shri, ?sari, ?lih, ?lit⟩
  case addi | andi | ori | xori => exact result_aluImm rfl rfl
  case sltiS => exact result_aluImm rfl (dwordOfBool_slt_signExtend _ _)
  case sltiN => exact result_aluImm rfl (dwordOfBool_ult _ _)
  case shli => exact result_aluImm rfl (shiftLeft_count _ _)
  case shri => exact result_aluImm rfl (shiftRight_count _ _)
  case sari => exact result_aluImm rfl (shiftArith_count _ _)
  case lih =>
    rw [← setWidth_shiftLeft_eq_append]
    exact result_write rfl
  case lit => exact result_write rfl

/-- Settles O2: the decoder evaluated, on the two illegal patterns first and then on each word. -/
theorem specExampleWordsDecode : Obligations.SpecExampleWordsDecode := by
  unfold Obligations.SpecExampleWordsDecode
  refine ⟨?mulhN, ?lit, ?slice, ?bne, ?jal, ?loopi, ?loop, ?lbrk, ?split, ?bench, ?benchF, ?bxch, ?zero, ?ones⟩
  case zero | ones => rfl
  case mulhN | lit | slice | bne | jal | loopi | loop | lbrk | split | bench | benchF | bxch => rfl

end Sys2Proof.Machine
end
